-- ==== Sys2Proof/Word.lean ====
section
/-! DEFINITION. The word types of the Harnoska Skovan-8 (00 R4) and the type of sparse tables. -/

namespace Sys2Proof

/-- A 64-bit register value or bundle. -/
abbrev Word := BitVec 64

/-- One byte of storage. -/
abbrev Byte := BitVec 8

/-- One 32-bit lane or syllable. -/
abbrev Lane := BitVec 32

/-- A sparse table: pairs of a key and a value, keys rising, a key that is not listed holding the table's default. -/
abbrev Tab (α : Type) := List (Nat × α)

end Sys2Proof
end

