-- ==== Sys2Proof/Config.lean ====
section
/-! DEFINITION. What one house fixes, and the free values. An `opaque` constant has no body: no proof can see its value, so a
statement proved in this model holds whatever it is (log 9, log 11). -/

namespace Sys2Proof.Config

/-- The undefined values of 00 R1, one per use of the counter `State.fresh`. -/
opaque freeWord : Nat → Word

/-- The choice among several that the spec leaves open (14 R325), one per use of `State.fresh`. -/
opaque freeChoice : Nat → Nat

/-- What a word reads as that is undefined where it stands (00 R1, 19 R358, R363; log 51), by its key, the use of `State.fresh` and the cc. -/
opaque blurWord : Nat → Nat → Nat → Word

/-- Whether the tree that a descriptor names stands exactly as a station last left it before the power-on (19 R358), by the descriptor's
address and the use of `State.fresh` (log 51). -/
opaque treeAsLeft : Nat → Nat → Bool

/-- The alarm level that the attic of an image sets as it boots (25 R440; log 58). -/
opaque alarmLevel : Nat → Nat

/-- Whether the ML-DSA-65 signature of an attic image verifies under the fused key (25 R438). -/
opaque signatureOk : Nat → Bool

/-- The SHAKE256 measurement of an image (25 R439). -/
opaque measure : Nat → Nat

/-- The ML-DSA-65 signature by the identity key over measurements, rollback counter and nonce (25 R439). -/
opaque sign : List Nat → Nat

/-- What the writer of a dump puts where it cannot read a word, by the word's address and the house counter (24 R426; log 73). -/
opaque unreadWord : Nat → Nat → Word

/-- The attic's memory at a house counter, as a dump holds it (24 R426; log 73). -/
opaque atticMemory : Nat → List Word

/-- Whether a wing works, and so sends its heartbeat, in a microsecond of the house counter (03 R60; log 53). -/
opaque wingWorks : Nat → Nat → Bool

/-- Whether Eslia link 56 + `n` leads to a peer (01 R18, 25 R436; log 84). -/
opaque peerLink : Nat → Nat → Bool

/-- Whether the attic image that an update has started confirms itself, by the cc (25 R438; log 58). -/
opaque confirms : Nat → Nat → Bool

/-- How many cc a link takes to retrain (11 R266), by the link and the use of `State.fresh` (log 84). -/
opaque retrainTime : Nat → Nat → Nat

/-- How the values of an attestation reply stand in MBUF (25 R431, R439; log 11). -/
opaque mbufReply : List Nat → Nat

/-- The boot ROM, as measured by R439. -/
opaque bootRom : Nat

/-- Capacity in bytes of one HBM4E stack (01 R19). -/
def stackCap : Nat := 64 * 2 ^ 30

/-- Revision in the ID register (25 R431; log 80). -/
opaque revision : Nat

/-- Local stores that the dump configuration selects (24 R426): none (log 13). -/
def dumpStores : List Nat := []

end Sys2Proof.Config
end

