-- ==== Sys2Proof/Machine/Bits.lean ====
section
/-! DEFINITION. Bit fields (00 R4, R7): extraction, insertion, sign extension and byte order, over natural numbers and words. -/

namespace Sys2Proof.Machine

/-- `x[hi:lo]` of a natural number (00 R4). -/
def bits (x hi lo : Nat) : Nat := x / 2 ^ lo % 2 ^ (hi + 1 - lo)

/-- `w[hi:lo]` of a 64-bit word. -/
def fld (w : Word) (hi lo : Nat) : Nat := bits w.toNat hi lo

/-- Bit `i` of a natural number. -/
def bitOf (x i : Nat) : Bool := x / 2 ^ i % 2 == 1

/-- A natural number as a word, modulo 2^64. -/
def word (n : Nat) : Word := BitVec.ofNat 64 n

/-- An integer as a word, modulo 2^64. -/
def wordI (i : Int) : Word := BitVec.ofInt 64 i

/-- `w` with `w[hi:lo]` replaced by `v`. -/
def setFld (w : Word) (hi lo v : Nat) : Word :=
  let m := 2 ^ (hi + 1 - lo)
  word (w.toNat - fld w hi lo * 2 ^ lo + v % m * 2 ^ lo)

/-- The two's-complement reading of the low `n` bits of `x`. -/
def sextN (n x : Nat) : Int :=
  let y := x % 2 ^ n
  if y < 2 ^ (n - 1) then (y : Int) else (y : Int) - (2 ^ n : Nat)

/-- A `w`-bit pattern of an integer. -/
def wrapI (n : Nat) (i : Int) : Nat := (i % (2 ^ n : Nat)).toNat

/-- The 64-bit word that sign-extends the low `n` bits of `x`. -/
def sextW (n x : Nat) : Word := wordI (sextN n x)

/-- One bit as a number. -/
def b2n (b : Bool) : Nat := if b then 1 else 0

/-- `word`s of a truth value. -/
def b2w (b : Bool) : Word := word (b2n b)

/-- Number of one bits among the low `n` bits of `x`. -/
def popN : Nat → Nat → Nat
  | 0, _ => 0
  | n + 1, x => x % 2 + popN n (x / 2)

/-- Number of zero bits above the highest one bit of the `n`-bit `x`. -/
def clzN : Nat → Nat → Nat
  | 0, _ => 0
  | n + 1, x => if bitOf x n then 0 else 1 + clzN n x

/-- Number of zero bits below the lowest one bit of the `n`-bit `x`. -/
def ctzN : Nat → Nat → Nat
  | 0, _ => 0
  | n + 1, x => if x % 2 = 1 then 0 else 1 + ctzN n (x / 2)

/-- The low `n` bits of `x` in reverse order. -/
def revN : Nat → Nat → Nat
  | 0, _ => 0
  | n + 1, x => x % 2 * 2 ^ n + revN n (x / 2)

/-- The low `n` bytes of `x` in reverse order. -/
def swapN : Nat → Nat → Nat
  | 0, _ => 0
  | n + 1, x => x % 256 * 256 ^ n + swapN n (x / 256)

/-- The bytes of an `n`-byte value, the lowest address first (little-endian, 00 R4). -/
def bytesOf : Nat → Nat → List Byte
  | 0, _ => []
  | n + 1, x => BitVec.ofNat 8 x :: bytesOf n (x / 256)

/-- The value of bytes, the lowest address first. -/
def ofBytes : List Byte → Nat
  | [] => 0
  | b :: t => b.toNat + 256 * ofBytes t

/-- `2 ^ ⌊log2 n⌋ ≤ n`: the place of the highest one bit, found by halving at most `fuel` times. -/
def log2F : Nat → Nat → Nat
  | 0, _ => 0
  | f + 1, n => if n < 2 then 0 else 1 + log2F f (n / 2)

end Sys2Proof.Machine
end

