-- ==== Sys2Proof/Machine/Flags.lean ====
section
/-! DEFINITION. Number formats and exact arithmetic (07 R167 to R188): decoding and rounding of every binary format, the five flags,
arithmetic, conversions and the special functions. Finite values are exact: a sign, a natural number and a power of two. -/

namespace Sys2Proof.Machine

/-- A format (R168 to R170): mantissa bits, exponent bias, exponent bits, width, largest finite code, codes of infinity and of the NaN
the device writes where there are any, the quiet bit, and whether it is the fixed-point format MXINT8. -/
structure Fmt where
  man : Nat
  bias : Nat
  ebits : Nat
  width : Nat
  big : Nat
  inf : Option Nat
  nan : Option Nat
  quiet : Option Nat
  fixed : Bool := false
  deriving DecidableEq, Repr

/-- The format of a type code 6 to 14 (04 R94, R168, R169). -/
def fmt (t : Nat) : Fmt :=
  if t = 6 then ⟨23, 127, 8, 32, 0x7F7F_FFFF, some 0x7F80_0000, some 0x7FC0_0000, some 22, false⟩
  else if t = 7 then ⟨10, 15, 5, 16, 0x7BFF, some 0x7C00, some 0x7E00, some 9, false⟩
  else if t = 8 then ⟨7, 127, 8, 16, 0x7F7F, some 0x7F80, some 0x7FC0, some 6, false⟩
  else if t = 9 then ⟨2, 15, 5, 8, 0x7B, some 0x7C, some 0x7F, none, false⟩
  else if t = 10 then ⟨3, 7, 4, 8, 0x7E, none, some 0x7F, none, false⟩
  else if t = 11 then ⟨2, 3, 3, 6, 0x1F, none, none, none, false⟩
  else if t = 12 then ⟨3, 1, 2, 6, 0x1F, none, none, none, false⟩
  else if t = 13 then ⟨1, 1, 2, 4, 0x7, none, none, none, false⟩
  else ⟨0, 0, 0, 8, 0x7F, none, none, none, true⟩

/-- A value of a format: NaN (quiet or signalling), an infinity, or ± m × 2^e. -/
inductive FVal where
  | nan (signalling : Bool)
  | inf (neg : Bool)
  | fin (neg : Bool) (m : Nat) (e : Int)
  deriving DecidableEq, Repr

/-- The value of a code (R167, R169, R170). -/
def Fmt.val (f : Fmt) (x : Nat) : FVal :=
  if f.fixed then
    let i := sextN 8 x
    .fin (decide (i < 0)) i.natAbs (-6)
  else
    let neg := bitOf x (f.width - 1)
    let mag := x % 2 ^ (f.width - 1)
    let e := mag / 2 ^ f.man
    let m := mag % 2 ^ f.man
    if f.inf = some mag then .inf neg
    else if f.big < mag then
      .nan (match f.quiet with
        | some q => !bitOf mag q
        | none => false)
    else if e = 0 then .fin neg m (1 - (f.bias : Int) - f.man)
    else .fin neg (m + 2 ^ f.man) ((e : Int) - f.bias - f.man)

/-- emin of a format (R168). -/
def Fmt.emin (f : Fmt) : Int := 1 - (f.bias : Int)

/-- Invalid, divide by zero, overflow, underflow, inexact: the bits of FPC.FLG (02 R35). -/
abbrev flInvalid : Nat := 16
/-- Divide by zero. -/
abbrev flDivZero : Nat := 8
/-- Overflow. -/
abbrev flOverflow : Nat := 4
/-- Underflow. -/
abbrev flUnderflow : Nat := 2
/-- Inexact. -/
abbrev flInexact : Nat := 1

/-- OR of two flag sets. -/
def orFlags (a b : Nat) : Nat := a ||| b

/-- The code of a sign and magnitude. -/
def Fmt.code (f : Fmt) (neg : Bool) (mag : Nat) : Nat :=
  if f.fixed then (if neg then (256 - mag) % 256 else mag) else mag + (if neg then 2 ^ (f.width - 1) else 0)

/-- Whether rounding goes away from zero, from the quotient's parity, and the remainder against half: modes 0 rne, 1 rtz, 2 rdn,
3 rup, 4 rod (R174). `r` is the remainder over 2^sh and `sticky` says that more lies below. -/
def roundUp (mode : Nat) (neg : Bool) (k r sh : Nat) (sticky : Bool) : Bool :=
  let inexact := r != 0 || sticky
  if mode = 0 then
    (if sh = 0 then false
     else decide (2 ^ (sh - 1) < r) || (r == 2 ^ (sh - 1) && (sticky || k % 2 == 1)))
  else if mode = 1 then false
  else if mode = 2 then inexact && neg
  else if mode = 3 then inexact && !neg
  else inexact && k % 2 == 0

/-- Rounding of a magnitude (m + δ) × 2^e, 0 ≤ δ < 1 with δ > 0 exactly when `sticky`, to multiples of 2^q: the multiple and whether
anything was lost. -/
def roundAt (mode : Nat) (neg : Bool) (m : Nat) (e q : Int) (sticky : Bool) : Nat × Bool :=
  if q ≤ e then
    let k := m * 2 ^ (e - q).toNat
    (if roundUp mode neg k 0 0 sticky then k + 1 else k, sticky)
  else
    let sh := (q - e).toNat
    let k := m / 2 ^ sh
    let r := m % 2 ^ sh
    (if roundUp mode neg k r sh sticky then k + 1 else k, r != 0 || sticky)

/-- The overflow result (R176). -/
def Fmt.beyond (f : Fmt) (mode : Nat) (neg sat : Bool) : Nat :=
  let large := f.code neg f.big
  let toLarge := sat || mode == 1 || mode == 4 || (mode == 2 && !neg) || (mode == 3 && neg)
  if toLarge then large
  else
    match f.inf, f.nan with
    | some i, _ => f.code neg i
    | none, some n => n
    | none, none => large

/-- Rounding of a nonzero exact value to a format with its flags (R174, R176, R177). -/
def Fmt.round (f : Fmt) (mode : Nat) (sat neg : Bool) (m : Nat) (e : Int) (sticky : Bool) : Nat × Nat :=
  let top : Int := (Nat.log2 m : Int) + e
  let q : Int := if f.fixed then -6 else max top f.emin - f.man
  let (k, lost) := roundAt mode neg m e q sticky
  let mag := if f.fixed then k else (q - (f.emin - f.man)).toNat * 2 ^ f.man + k
  if f.big < mag then (f.beyond mode neg sat, flOverflow + flInexact)
  else
    let tiny := !f.fixed && decide (top < f.emin) &&
      !(decide (top = f.emin - 1) && decide ((roundAt mode neg m e (top - f.man) sticky).1 = 2 ^ (f.man + 1)))
    (f.code neg mag, if lost then (if tiny then flUnderflow + flInexact else flInexact) else 0)

/-- The NaN result of a format, or +0 where it has none. -/
def Fmt.nanCode (f : Fmt) : Nat := f.nan.getD 0

/-- Delivery of a value to a format (R176 to R178). -/
def Fmt.deliver (f : Fmt) (mode : Nat) (sat : Bool) : FVal → Nat × Nat
  | .nan sig => (f.nanCode, if sig || f.nan.isNone then flInvalid else 0)
  | .inf neg =>
    match f.inf with
    | some i => if sat then (f.code neg f.big, flInexact) else (f.code neg i, 0)
    | none => (if sat then f.code neg f.big
               else match f.nan with
                 | some n => n
                 | none => f.code neg f.big, flInvalid)
  | .fin neg m e => if m = 0 then (f.code (neg && !f.fixed) 0, 0) else f.round mode sat neg m e false

/-- Exact sum of two finite values: sign, magnitude and exponent; a zero sum takes the sign of R187. -/
def sumFin (mode : Nat) (na : Bool) (ma : Nat) (ea : Int) (nb : Bool) (mb : Nat) (eb : Int) : FVal :=
  let e := min ea eb
  let x : Int := (if na then -1 else 1) * (ma * 2 ^ (ea - e).toNat : Nat)
  let y : Int := (if nb then -1 else 1) * (mb * 2 ^ (eb - e).toNat : Nat)
  let z := x + y
  if z = 0 then
    .fin (if ma = 0 ∧ mb = 0 ∧ na = nb then na else mode == 2) 0 0
  else .fin (decide (z < 0)) z.natAbs e

/-- A value with its sign inverted. -/
def FVal.negate : FVal → FVal
  | .nan s => .nan s
  | .inf n => .inf (!n)
  | .fin n m e => .fin (!n) m e

/-- Whether a value is a NaN. -/
def FVal.isNan : FVal → Bool
  | .nan _ => true
  | _ => false

/-- Whether a value is a signalling NaN. -/
def FVal.isSig : FVal → Bool
  | .nan s => s
  | _ => false

/-- Exact sum with its NaN and infinity cases and flags before rounding (R177, R187). -/
def addVal (mode : Nat) (a b : FVal) : FVal × Nat :=
  match a, b with
  | .nan s, b => (.nan false, if s || b.isSig then flInvalid else 0)
  | _, .nan s => (.nan false, if s then flInvalid else 0)
  | .inf x, .inf y => if x = y then (.inf x, 0) else (.nan false, flInvalid)
  | .inf x, .fin _ _ _ => (.inf x, 0)
  | .fin _ _ _, .inf y => (.inf y, 0)
  | .fin na ma ea, .fin nb mb eb => (sumFin mode na ma ea nb mb eb, 0)

/-- Exact product with its NaN and infinity cases (R177, R187). -/
def mulVal (a b : FVal) : FVal × Nat :=
  match a, b with
  | .nan s, b => (.nan false, if s || b.isSig then flInvalid else 0)
  | _, .nan s => (.nan false, if s then flInvalid else 0)
  | .inf x, .inf y => (.inf (x != y), 0)
  | .inf x, .fin y m _ => if m = 0 then (.nan false, flInvalid) else (.inf (x != y), 0)
  | .fin x m _, .inf y => if m = 0 then (.nan false, flInvalid) else (.inf (x != y), 0)
  | .fin na ma ea, .fin nb mb eb => (.fin (na != nb) (ma * mb) (ea + eb), 0)

/-- A value and its flags delivered to a format; an invalid element raises no other flag (R177). -/
def Fmt.finish (f : Fmt) (mode : Nat) (r : FVal × Nat) : Nat × Nat :=
  let (c, fl) := f.deliver mode false r.1
  (c, if r.2 != 0 then r.2 else fl)

/-- a + b, rounded once. -/
def Fmt.add (f : Fmt) (mode a b : Nat) : Nat × Nat := f.finish mode (addVal mode (f.val a) (f.val b))

/-- a − b, rounded once. -/
def Fmt.sub (f : Fmt) (mode a b : Nat) : Nat × Nat := f.finish mode (addVal mode (f.val a) (f.val b).negate)

/-- a × b, rounded once. -/
def Fmt.mul (f : Fmt) (mode a b : Nat) : Nat × Nat := f.finish mode (mulVal (f.val a) (f.val b))

/-- a × b + c, rounded once (R187); a NaN operand decides before 0 × ∞ does. -/
def fmaVal (mode : Nat) (a b c : FVal) : FVal × Nat :=
  if a.isNan || b.isNan || c.isNan then (.nan false, if a.isSig || b.isSig || c.isSig then flInvalid else 0)
  else
    match mulVal a b with
    | (p, 0) => addVal mode p c
    | r => r

/-- Order of two values that are no NaN, with −0 below +0 when `zeros` (R187). -/
def FVal.lt (zeros : Bool) : FVal → FVal → Bool
  | .nan _, _ => false
  | _, .nan _ => false
  | .inf x, .inf y => x && !y
  | .inf x, .fin _ _ _ => x
  | .fin _ _ _, .inf y => !y
  | .fin na ma ea, .fin nb mb eb =>
    let e := min ea eb
    let x : Int := (if na then -1 else 1) * (ma * 2 ^ (ea - e).toNat : Nat)
    let y : Int := (if nb then -1 else 1) * (mb * 2 ^ (eb - e).toNat : Nat)
    decide (x < y) || (zeros && x == y && ma == 0 && na && !nb)

/-- Lesser or greater of two codes of a format (R187). -/
def Fmt.minMax (f : Fmt) (greater : Bool) (a b : Nat) : Nat × Nat :=
  let x := f.val a
  let y := f.val b
  if x.isSig || y.isSig then (f.nanCode, flInvalid)
  else if x.isNan && y.isNan then (f.nanCode, 0)
  else if x.isNan then (b, 0)
  else if y.isNan then (a, 0)
  else if FVal.lt true x y then (if greater then b else a, 0) else (if greater then a else b, 0)

/-- Clears or inverts the sign; a NaN gives the device's NaN (08 R196). -/
def Fmt.signOp (f : Fmt) (invert : Bool) (a : Nat) : Nat × Nat :=
  match f.val a with
  | .nan s => (f.nanCode, if s then flInvalid else 0)
  | _ =>
    let mag := a % 2 ^ (f.width - 1)
    (f.code (invert && !bitOf a (f.width - 1)) mag, 0)

/-- A floating-point value to an integer type with range lo to hi (R179). -/
def toInteger (mode : Nat) (lo hi : Int) : FVal → Int × Nat
  | .nan _ => (0, flInvalid)
  | .inf neg => (if neg then lo else hi, flInvalid)
  | .fin neg m e =>
    let (k, lost) := roundAt mode neg m e 0 false
    let i : Int := if neg then -(k : Int) else k
    if i < lo then (lo, flInvalid) else if hi < i then (hi, flInvalid) else (i, if lost then flInexact else 0)

/-- An integer as an exact value. -/
def ofInteger (i : Int) : FVal := .fin (decide (i < 0)) i.natAbs 0

/-! Special functions. Fixed-point numbers have `p` fraction bits; every approximation below is within `p` units of its last place, and
`narrow` goes on to more fraction bits until both ends of an interval round alike (log 10). -/

/-- Sum of z^(2j+1) / (2j+1) over `n` terms, signs alternating when `alt`, for z = num / den; 1 unit of error a term. -/
def oddSeries (alt : Bool) (num den : Nat) : Nat → Nat → Nat → Bool → Int → Int
  | 0, _, _, _, acc => acc
  | n + 1, pow, j, neg, acc =>
    let t : Int := (pow / j : Nat)
    oddSeries alt num den n (pow * num * num / (den * den)) (j + 2) (alt && !neg) (if neg then acc - t else acc + t)

/-- atan (1 / k) with `p` fraction bits. -/
def atanInv (p k terms : Nat) : Int := oddSeries true 1 k terms (2 ^ p / k) 1 false 0

/-- π with `p` fraction bits, by Machin's formula. -/
def piFix (p : Nat) : Nat := (16 * atanInv (p + 16) 5 (p / 4) - 4 * atanInv (p + 16) 239 (p / 14)).toNat / 2 ^ 16

/-- ln 2 with `p` fraction bits: 2 atanh (1 / 3). -/
def ln2Fix (p : Nat) : Nat := (2 * oddSeries false 1 3 (p / 3) (2 ^ (p + 16) / 3) 1 false 0).toNat / 2 ^ 16

/-- exp of r / 2^p, 0 ≤ r < 2^p, by its series. -/
def expSeries (p r : Nat) : Nat → Nat → Nat → Nat → Nat
  | 0, _, _, acc => acc
  | n + 1, term, j, acc =>
    let t := term * r / 2 ^ p / j
    expSeries p r n t (j + 1) (acc + t)

/-- 2^(f / 2^p) for 0 ≤ f < 2^p, within p units. -/
def exp2Fix (p f : Nat) : Nat :=
  let r := f * ln2Fix (p + 384) / 2 ^ (p + 384)
  expSeries p r (p / 4) (2 ^ p) 1 (2 ^ p)

/-- Series of sin (start 1) or cos (start 0) of r / 2^p: Σ ± r^j / j!. -/
def trigSeries (p r2 : Nat) : Nat → Nat → Nat → Bool → Int → Int
  | 0, _, _, _, acc => acc
  | n + 1, term, j, neg, acc =>
    let t := term * r2 / 2 ^ p / ((j + 1) * (j + 2))
    trigSeries p r2 n t (j + 2) (!neg) (if neg then acc + (t : Int) else acc - (t : Int))

/-- sin of r / 2^p, |r| ≤ 2^p, within p units. -/
def sinFix (p : Nat) (r : Int) : Int :=
  let a := r.natAbs
  let v := trigSeries p (a * a / 2 ^ p) (p / 8) a 1 false a
  if r < 0 then -v else v

/-- cos of r / 2^p. -/
def cosFix (p : Nat) (r : Int) : Int := trigSeries p (r.natAbs * r.natAbs / 2 ^ p) (p / 8) (2 ^ p) 0 false (2 ^ p : Nat)

/-- m × 2^e in fixed point with `p` fraction bits, rounded down. -/
def fixOf (p m : Nat) (e : Int) : Nat :=
  let sh := e + p
  if 0 ≤ sh then m * 2 ^ sh.toNat else m / 2 ^ (-sh).toNat

/-- sin or cos of a nonzero m × 2^e with `p` fraction bits: reduced by the nearest multiple of π/2 (quadrant), then by series. -/
def trigFix (cosine neg : Bool) (m : Nat) (e : Int) (p : Nat) : Int :=
  let x := fixOf (p + 384) m e
  let half := piFix (p + 384) / 2
  let n := (2 * x + half) / (2 * half)
  -- |x| < 2^128 keeps the error of n × π/2 below 2^-(p + 250)
  let r : Int := ((x : Int) - (n * piFix (p + 384) / 2 : Nat)) / (2 ^ 384 : Nat)
  let q := (n + b2n cosine) % 4
  let v := if q = 0 then sinFix p r else if q = 1 then cosFix p r else if q = 2 then -(sinFix p r) else -(cosFix p r)
  if neg && !cosine then -v else v

/-- log2 of m × 2^e that is no power of two: the integer part and ln t / ln 2 of the rest. -/
def log2Fix (m : Nat) (e : Int) (p : Nat) : Int :=
  let b := Nat.log2 m
  let t := 2 ^ b
  -- z = (m − t) / (m + t) ≤ 1/3
  let s := oddSeries false (m - t) (m + t) (3 * p / 8) ((m - t) * 2 ^ p / (m + t)) 1 false 0
  ((b : Int) + e) * (2 ^ p : Nat) + (2 * s * (2 ^ (p + 384) : Nat)) / (ln2Fix (p + 384) : Int)

/-- tanh of a positive m × 2^e, strictly below 1: (1 − q) / (1 + q) with q = 2^(−2x / ln 2). -/
def tanhFix (m : Nat) (e : Int) (p : Nat) : Nat :=
  let x := fixOf (p + 384) m e
  if 2 ^ (p + 384) * p ≤ x then 2 ^ p - 1
  else
    let y := 2 * x * 2 ^ p / ln2Fix (p + 384)
    let k := y / 2 ^ p
    let f := y % 2 ^ p
    let q := if f = 0 then 2 ^ p / 2 ^ k else exp2Fix p (2 ^ p - f) / 2 ^ (k + 1)
    min (2 ^ p - 1) ((2 ^ p - q) * 2 ^ p / (2 ^ p + q))

/-- Rounds an irrational value by approximations from below and above with more and more fraction bits, until both ends round alike
(R204, log 10): `ends p` rounds the two ends of an interval of 16 p units of 2^-p that holds the value. -/
def narrow (ends : Nat → (Nat × Nat) × (Nat × Nat)) : Nat → Nat → Nat × Nat
  | 0, p => (ends p).1
  | n + 1, p =>
    let e := ends p
    if e.1 = e.2 then e.1 else narrow ends n (2 * p)

/-- The two ends of an interval about v / 2^p, 8 p units to each side, rounded; `top` bounds the upper end. -/
def Fmt.ends (f : Fmt) (mode : Nat) (neg : Bool) (scale : Int) (p low v top : Nat) : (Nat × Nat) × (Nat × Nat) :=
  (f.round mode false neg (max (v - 8 * p) low) (scale - p) true, f.round mode false neg (min (v + 8 * p) top) (scale - p) true)

/-- An irrational value rounded once, by its approximations `v p` / 2^p. -/
def Fmt.settle (f : Fmt) (mode : Nat) (v : Nat → Int) : Nat × Nat :=
  narrow (fun p => f.ends mode (decide (v p < 0)) 0 p 1 (v p).natAbs ((v p).natAbs + 8 * p)) 64 640

/-- Integer square root by bits: the largest s with s² ≤ n among those below 2^b. -/
def isqrt (n : Nat) : Nat → Nat → Nat
  | 0, acc => acc
  | b + 1, acc => isqrt n b (if (acc + 2 ^ b) * (acc + 2 ^ b) ≤ n then acc + 2 ^ b else acc)

/-- 1 / a (R187). -/
def Fmt.rcp (f : Fmt) (mode a : Nat) : Nat × Nat :=
  match f.val a with
  | .nan s => (f.nanCode, if s then flInvalid else 0)
  | .inf neg => (f.code neg 0, 0)
  | .fin neg m e =>
    if m = 0 then (f.code neg (f.inf.getD f.big), flDivZero)
    else
      let p := Nat.log2 m + 64
      f.round mode false neg (2 ^ p / m) (-(p : Int) - e) (2 ^ p % m != 0)

/-- 1 / √a (R187). -/
def Fmt.rsq (f : Fmt) (mode a : Nat) : Nat × Nat :=
  match f.val a with
  | .nan s => (f.nanCode, if s then flInvalid else 0)
  | .inf neg => if neg then (f.nanCode, flInvalid) else (0, 0)
  | .fin neg m e =>
    if m = 0 then (f.code neg (f.inf.getD f.big), flDivZero)
    else if neg then (f.nanCode, flInvalid)
    else
      let m' := if e % 2 = 0 then m else 2 * m
      let e' := if e % 2 = 0 then e else e - 1
      let p := Nat.log2 m' + 64
      let r := isqrt (2 ^ (2 * p) / m') (p + 1) 0
      f.round mode false false r (-(p : Int) - e' / 2) (r * r * m' != 2 ^ (2 * p))

/-- 2^a (R187). -/
def Fmt.exp2 (f : Fmt) (mode a : Nat) : Nat × Nat :=
  match f.val a with
  | .nan s => (f.nanCode, if s then flInvalid else 0)
  | .inf neg => if neg then (0, 0) else (f.inf.getD f.big, 0)
  | .fin neg m e =>
    if m = 0 then f.round mode false false 1 0 false
    else if 12 ≤ (Nat.log2 m : Int) + e then
      (if neg then f.round mode false false 1 (-4096) true else f.round mode false false 1 4096 false)
    else
      let x : Int := (if neg then -1 else 1) * (fixOf 1024 m e : Nat)
      let i := x / (2 ^ 1024 : Nat)
      let r := (x % (2 ^ 1024 : Nat)).toNat
      if r = 0 then f.round mode false false 1 i false
      else
        -- 2^i × 2^r, the fraction settled at its own scale
        -- 1 < 2^r < 2
        narrow (fun p => f.ends mode false i p (2 ^ p) (exp2Fix p (r * 2 ^ p / 2 ^ 1024)) (2 ^ (p + 1) - 1)) 64 640

/-- log2 a (R187). -/
def Fmt.log2 (f : Fmt) (mode a : Nat) : Nat × Nat :=
  match f.val a with
  | .nan s => (f.nanCode, if s then flInvalid else 0)
  | .inf neg => if neg then (f.nanCode, flInvalid) else (f.inf.getD f.big, 0)
  | .fin neg m e =>
    if m = 0 then (f.code true (f.inf.getD f.big), flDivZero)
    else if neg then (f.nanCode, flInvalid)
    else if 2 ^ Nat.log2 m = m then f.deliver mode false (ofInteger ((Nat.log2 m : Int) + e))
    else f.settle mode (log2Fix m e)

/-- sin a or cos a, a in radians (R187). -/
def Fmt.trig (f : Fmt) (cosine : Bool) (mode a : Nat) : Nat × Nat :=
  match f.val a with
  | .nan s => (f.nanCode, if s then flInvalid else 0)
  | .inf _ => (f.nanCode, flInvalid)
  | .fin neg m e =>
    if m = 0 then (if cosine then f.round mode false false 1 0 false else (f.code neg 0, 0))
    else f.settle mode (trigFix cosine neg m e)

/-- tanh a (R187). -/
def Fmt.tanh (f : Fmt) (mode a : Nat) : Nat × Nat :=
  match f.val a with
  | .nan s => (f.nanCode, if s then flInvalid else 0)
  | .inf neg => f.round mode false neg 1 0 false
  | .fin neg m e =>
    if m = 0 then (f.code neg 0, 0)
    else narrow (fun p => f.ends mode neg 0 p 1 (tanhFix m e p) (2 ^ p - 1)) 64 640

end Sys2Proof.Machine
end

