-- ==== Sys2Proof/Syntax.lean ====
section
/-! DEFINITION. The instructions: one constructor for each row of the opcode table (spec/opcode_table.json). First stand
the S syllables and the V syllables, with the fields of their encodings (04 R96, R98), then the steps of the house that no word
encodes, with the units and values that name the step, and last the rows that have no field. A context is named by
16 x core + slot, where core 0 to 6143 is a barrel core (192 x hall + core, 01 R11) and 6144 + p is porch core p. -/

namespace Sys2Proof

/-- Timestamps of the exchange of one Sync message (24 R414; log 29) that the time source takes: the message's origin, and when the house's delay
request was received. -/
structure SyncTimes where
  origin : Word
  response : Word
  deriving DecidableEq, Repr

inductive Instr where
  /-- ADD (R127): Writes gA plus gB, wrapping modulo 2^64, to gD. -/
  | add (d : BitVec 5) (a : BitVec 5) (b : BitVec 5)
  /-- SUB (R127): Writes gA minus gB, wrapping, to gD. -/
  | sub (d : BitVec 5) (a : BitVec 5) (b : BitVec 5)
  /-- MUL (R127): Writes the low 64 bits of gA times gB to gD. -/
  | mul (d : BitVec 5) (a : BitVec 5) (b : BitVec 5)
  /-- MULH_I (R127): Writes the high 64 bits of the signed 128-bit product to gD. -/
  | mulhI (d : BitVec 5) (a : BitVec 5) (b : BitVec 5)
  /-- MULH_N (R127): Writes the high 64 bits of the natural 128-bit product to gD. -/
  | mulhN (d : BitVec 5) (a : BitVec 5) (b : BitVec 5)
  /-- DIV_I (R129): Signed division truncating toward zero; it never faults. -/
  | divI (d : BitVec 5) (a : BitVec 5) (b : BitVec 5)
  /-- DIV_N (R129): Natural division; division by zero gives all ones. -/
  | divN (d : BitVec 5) (a : BitVec 5) (b : BitVec 5)
  /-- REM_I (R129): Signed remainder, taking the sign of the dividend. -/
  | remI (d : BitVec 5) (a : BitVec 5) (b : BitVec 5)
  /-- REM_N (R129): Natural remainder. -/
  | remN (d : BitVec 5) (a : BitVec 5) (b : BitVec 5)
  /-- AND (R127): Writes the bitwise AND of gA and gB to gD. -/
  | and (d : BitVec 5) (a : BitVec 5) (b : BitVec 5)
  /-- OR (R127): Writes the bitwise OR of gA and gB to gD. -/
  | or (d : BitVec 5) (a : BitVec 5) (b : BitVec 5)
  /-- XOR (R127): Writes the bitwise XOR of gA and gB to gD. -/
  | xor (d : BitVec 5) (a : BitVec 5) (b : BitVec 5)
  /-- ANDN (R127): Writes gA AND NOT gB to gD. -/
  | andn (d : BitVec 5) (a : BitVec 5) (b : BitVec 5)
  /-- SHL (R130): Shifts gA left by gB modulo 64. -/
  | shl (d : BitVec 5) (a : BitVec 5) (b : BitVec 5)
  /-- SHR (R130): Shifts gA right logically by gB modulo 64. -/
  | shr (d : BitVec 5) (a : BitVec 5) (b : BitVec 5)
  /-- SAR (R130): Shifts gA right arithmetically by gB modulo 64. -/
  | sar (d : BitVec 5) (a : BitVec 5) (b : BitVec 5)
  /-- ROL (R130): Rotates gA left by gB modulo 64. -/
  | rol (d : BitVec 5) (a : BitVec 5) (b : BitVec 5)
  /-- ROR (R130): Rotates gA right by gB modulo 64. -/
  | ror (d : BitVec 5) (a : BitVec 5) (b : BitVec 5)
  /-- MIN_I (R127): Writes the signed lesser of gA and gB to gD. -/
  | minI (d : BitVec 5) (a : BitVec 5) (b : BitVec 5)
  /-- MAX_I (R127): Writes the signed greater of gA and gB to gD. -/
  | maxI (d : BitVec 5) (a : BitVec 5) (b : BitVec 5)
  /-- MIN_N (R127): Writes the natural lesser of gA and gB to gD. -/
  | minN (d : BitVec 5) (a : BitVec 5) (b : BitVec 5)
  /-- MAX_N (R127): Writes the natural greater of gA and gB to gD. -/
  | maxN (d : BitVec 5) (a : BitVec 5) (b : BitVec 5)
  /-- CLZ (R131): Counts the leading zero bits of gA, giving 64 for zero. -/
  | clz (d : BitVec 5) (a : BitVec 5)
  /-- CTZ (R131): Counts the trailing zero bits of gA, giving 64 for zero. -/
  | ctz (d : BitVec 5) (a : BitVec 5)
  /-- POPC (R131): Counts the one bits of gA. -/
  | popc (d : BitVec 5) (a : BitVec 5)
  /-- BREV (R127): Reverses the bit order of gA. -/
  | brev (d : BitVec 5) (a : BitVec 5)
  /-- BSWAP (R127): Reverses the byte order of gA. -/
  | bswap (d : BitVec 5) (a : BitVec 5)
  /-- ADD_IMM (R128): Adds a sign-extended 15-bit immediate to gA. -/
  | addImm (d : BitVec 5) (a : BitVec 5) (i : BitVec 15)
  /-- MUL_IMM (R128): Multiplies gA by a sign-extended immediate. -/
  | mulImm (d : BitVec 5) (a : BitVec 5) (i : BitVec 15)
  /-- AND_IMM (R128): ANDs gA with a zero-extended immediate. -/
  | andImm (d : BitVec 5) (a : BitVec 5) (i : BitVec 15)
  /-- OR_IMM (R128): ORs gA with a zero-extended immediate. -/
  | orImm (d : BitVec 5) (a : BitVec 5) (i : BitVec 15)
  /-- XOR_IMM (R128): XORs gA with a zero-extended immediate. -/
  | xorImm (d : BitVec 5) (a : BitVec 5) (i : BitVec 15)
  /-- SHL_IMM (R128): Shifts gA left by an immediate amount. -/
  | shlImm (d : BitVec 5) (a : BitVec 5) (n : BitVec 6)
  /-- SHR_IMM (R128): Shifts gA right logically by an immediate amount. -/
  | shrImm (d : BitVec 5) (a : BitVec 5) (n : BitVec 6)
  /-- SAR_IMM (R128): Shifts gA right arithmetically by an immediate amount. -/
  | sarImm (d : BitVec 5) (a : BitVec 5) (n : BitVec 6)
  /-- ROL_IMM (R128): Rotates gA left by an immediate amount. -/
  | rolImm (d : BitVec 5) (a : BitVec 5) (n : BitVec 6)
  /-- RSUB (R128): Writes a sign-extended immediate minus gA to gD. -/
  | rsub (d : BitVec 5) (a : BitVec 5) (i : BitVec 15)
  /-- MIN_I_IMM (R128): Signed minimum of gA and a sign-extended immediate. -/
  | minIImm (d : BitVec 5) (a : BitVec 5) (i : BitVec 15)
  /-- MAX_I_IMM (R128): Signed maximum of gA and a sign-extended immediate. -/
  | maxIImm (d : BitVec 5) (a : BitVec 5) (i : BitVec 15)
  /-- MIN_N_IMM (R128): Natural minimum of gA and a zero-extended immediate. -/
  | minNImm (d : BitVec 5) (a : BitVec 5) (i : BitVec 15)
  /-- MAX_N_IMM (R128): Natural maximum of gA and a zero-extended immediate. -/
  | maxNImm (d : BitVec 5) (a : BitVec 5) (i : BitVec 15)
  /-- LI (R132): Loads a sign-extended 20-bit immediate into gD. -/
  | li (d : BitVec 5) (i : BitVec 20)
  /-- LIH (R132): Writes bits [39:20] of gD and keeps its other bits. -/
  | lih (d : BitVec 5) (i : BitVec 20)
  /-- LIX (R132): Writes bits [59:40] of gD and keeps its other bits. -/
  | lix (d : BitVec 5) (i : BitVec 20)
  /-- LIT (R132): Writes bits [63:60] of gD and keeps its other bits. -/
  | lit (d : BitVec 5) (i : BitVec 4)
  /-- EXT_N (R134): Extracts a bit field of gA, zero-extended. -/
  | extN (d : BitVec 5) (a : BitVec 5) (p : BitVec 6) (w : BitVec 6)
  /-- EXT_I (R134): Extracts a bit field of gA, sign-extended. -/
  | extI (d : BitVec 5) (a : BitVec 5) (p : BitVec 6) (w : BitVec 6)
  /-- INS (R134): Inserts the low bits of gA into a field of gD and keeps its other bits. -/
  | ins (d : BitVec 5) (a : BitVec 5) (p : BitVec 6) (w : BitVec 6)
  /-- DEP (R134): Deposits the low bits of gA at pos, with every other bit zero. -/
  | dep (d : BitVec 5) (a : BitVec 5) (p : BitVec 6) (w : BitVec 6)
  /-- SET_CC (R135): Writes 1 to gD when the condition holds of gA and gB, and 0 otherwise. -/
  | setCc (d : BitVec 5) (a : BitVec 5) (b : BitVec 5) (c : BitVec 4)
  /-- CMP_SKN (R136): Annuls the next N bundles when the condition holds of gA and gB. -/
  | cmpSkn (c : BitVec 4) (k : BitVec 2) (a : BitVec 5) (b : BitVec 5)
  /-- CMP_SKN_IMM (R136): Annuls the next N bundles when the condition holds of gA and an immediate. -/
  | cmpSknImm (c : BitVec 4) (k : BitVec 2) (a : BitVec 5) (i : BitVec 14)
  /-- BR (R137): Branches to the header at a PC-relative word offset. -/
  | br (o : BitVec 25)
  /-- CALL (R137): Writes the next header address to g23 and branches to a PC-relative header. -/
  | call (o : BitVec 25)
  /-- JR (R138): Enters gA as a header. -/
  | jr (a : BitVec 5)
  /-- CALLR (R138): Writes the return header to g23 and enters gA as a header. -/
  | callr (a : BitVec 5)
  /-- END (R144): Retires the task after its relaxed accesses complete: releases claims, fills the completion future and decrements LIVE. -/
  | endTask (a : BitVec 5)
  /-- SPAWN (R141): Starts one task of the spawner's launch with the named entry header and argument, as a release. -/
  | spawn (d : BitVec 5) (a : BitVec 5) (b : BitVec 5)
  /-- LAUNCH (R142): PUTs a launch record address into launch word gB of hall gA. -/
  | launch (d : BitVec 5) (a : BitVec 5) (b : BitVec 5)
  /-- GREPLAY (R143): Starts a replay of a task graph at its home dispatcher. -/
  | greplay (d : BitVec 5) (a : BitVec 5)
  /-- LD_I (R234): Plain or relaxed sign-extending load of 1 to 8 bytes at a displacement. -/
  | ldI (d : BitVec 5) (a : BitVec 5) (z : BitVec 2) (r : BitVec 1) (s : BitVec 4) (i : BitVec 8)
  /-- LD_N (R234): Plain or relaxed zero-extending load of 1 to 8 bytes at a displacement. -/
  | ldN (d : BitVec 5) (a : BitVec 5) (z : BitVec 2) (r : BitVec 1) (s : BitVec 4) (i : BitVec 8)
  /-- ST (R234): Plain or relaxed store of 1 to 8 bytes at a displacement. -/
  | st (d : BitVec 5) (a : BitVec 5) (z : BitVec 2) (r : BitVec 1) (s : BitVec 4) (i : BitVec 8)
  /-- LDX_I (R234): Indexed sign-extending load. -/
  | ldxI (d : BitVec 5) (a : BitVec 5) (z : BitVec 2) (r : BitVec 1) (s : BitVec 4) (x : BitVec 5)
  /-- LDX_N (R234): Indexed zero-extending load. -/
  | ldxN (d : BitVec 5) (a : BitVec 5) (z : BitVec 2) (r : BitVec 1) (s : BitVec 4) (x : BitVec 5)
  /-- STX (R234): Indexed store. -/
  | stx (d : BitVec 5) (a : BitVec 5) (z : BitVec 2) (r : BitVec 1) (s : BitVec 4) (x : BitVec 5)
  /-- LKUP (R240): Looks up a key in a tag table in the issuer's own store and returns the hit slot or all ones. -/
  | lkup (d : BitVec 5) (a : BitVec 5) (b : BitVec 5)
  /-- TAGSET (R240): Installs a key in the tag-table entry named by gD and marks it valid. -/
  | tagset (d : BitVec 5) (a : BitVec 5) (b : BitVec 5)
  /-- TAGINV (R240): Clears the valid bit of the tag-table entry named by gB. -/
  | taginv (a : BitVec 5) (b : BitVec 5)
  /-- PFX (R241): Prefetches the translation of an address into the port's TLB, without faults or data. -/
  | pfx (a : BitVec 5) (z : BitVec 2) (i : BitVec 8)
  /-- SEGLD (R243): Loads a segment register from a 16-byte image, subject to the narrowing check. -/
  | segld (d : BitVec 5) (a : BitVec 5)
  /-- SEGST (R243): Stores a segment register as a 16-byte image. -/
  | segst (d : BitVec 5) (a : BitVec 5)
  /-- SEGNAR (R244): Narrows segment sA by an offset, a limit and a rights mask into sD. -/
  | segnar (d : BitVec 5) (a : BitVec 5) (b : BitVec 5) (r : BitVec 8)
  /-- AMO (R314): Performs a returning atomic read-modify-write at the word's station. -/
  | amo (d : BitVec 5) (a : BitVec 5) (b : BitVec 5) (s : BitVec 4) (z : BitVec 1) (o : BitVec 5)
  /-- AMOCAS (R314): Compares the word with gD and swaps in gB when equal, returning the old value. -/
  | amocas (d : BitVec 5) (a : BitVec 5) (b : BitVec 5) (s : BitVec 4) (z : BitVec 1)
  /-- RED (R316): Sends a non-returning reduction to the word's station, committing at issue. -/
  | red (a : BitVec 5) (b : BitVec 5) (z : BitVec 1) (o : BitVec 5)
  /-- FENCE (R320): Waits for the context's earlier relaxed accesses within the scope, then checks the reduction log. -/
  | fence (s : BitVec 4)
  /-- QFENCE (R321): Joins the task's engine commands in the named queues and raises recorded copy or tile failures. -/
  | qfence (a : BitVec 5)
  /-- QFENCE_OWN (R321): As QFENCE, and also acts as a FENCE of its scope. -/
  | qfenceOwn (a : BitVec 5) (s : BitVec 4)
  /-- TAKE (R230): Takes a full/empty word, parking while it is empty. -/
  | take (d : BitVec 5) (a : BitVec 5) (s : BitVec 4) (i : BitVec 8)
  /-- PUT (R230): Puts a value into a full/empty word, parking while it is full. -/
  | put (d : BitVec 5) (a : BitVec 5) (s : BitVec 4) (i : BitVec 8)
  /-- FEREAD_D (R323): Reads a full/empty word without emptying it, parking while it is empty. -/
  | fereadD (d : BitVec 5) (a : BitVec 5) (s : BitVec 4) (i : BitVec 8)
  /-- FEREAD_PROBE (R323): Returns the full/empty state and the presence of parked parties without waiting. -/
  | fereadProbe (d : BitVec 5) (a : BitVec 5) (s : BitVec 4) (i : BitVec 8)
  /-- FESET_EMPTY (R323): Forces a full/empty word empty, or passes it to the oldest parked putter. -/
  | fesetEmpty (a : BitVec 5) (s : BitVec 4) (i : BitVec 8)
  /-- FESET_FULL (R323): Forces a full/empty word full with a value, serving parked readers and takers. -/
  | fesetFull (d : BitVec 5) (a : BitVec 5) (s : BitVec 4) (i : BitVec 8)
  /-- FUTNEW (R325): Allocates a future in the named hall's table and returns its handle, or 0. -/
  | futnew (d : BitVec 5) (a : BitVec 5) (s : BitVec 4)
  /-- FUTSET (R325): Fills a future and wakes every waiter. -/
  | futset (a : BitVec 5) (b : BitVec 5) (s : BitVec 4)
  /-- FUTGET (R325): Returns a future's value, parking until it is filled. -/
  | futget (d : BitVec 5) (a : BitVec 5) (s : BitVec 4)
  /-- FUTDROP (R325): Frees a future, advancing its generation and faulting any waiters. -/
  | futdrop (a : BitVec 5) (s : BitVec 4)
  /-- BARINIT (R328): Initialises a barrier word with EXPECTED and a first phase. -/
  | barinit (a : BitVec 5) (b : BitVec 5) (s : BitVec 4)
  /-- ARRIVE (R328): Counts an arrival at a barrier and completes the phase at EXPECTED, waking waiters. -/
  | arrive (d : BitVec 5) (a : BitVec 5) (b : BitVec 5) (s : BitVec 4)
  /-- WAITB (R328): Parks until the barrier's phase differs from the one named. -/
  | waitb (d : BitVec 5) (a : BitVec 5) (b : BitVec 5) (s : BitVec 4)
  /-- WAITL (R329): Parks until a landing word's generation differs from the one named. -/
  | waitl (d : BitVec 5) (a : BitVec 5) (b : BitVec 5) (s : BitVec 4)
  /-- CPY (R247): Queues a contiguous copy command on the room's copy engine. -/
  | cpy (d : BitVec 5) (a : BitVec 5) (b : BitVec 5) (e : BitVec 1) (v : BitVec 1) (q : BitVec 3)
  /-- CPYS (R246): Queues a strided copy of ROWS rows. -/
  | cpys (d : BitVec 5) (a : BitVec 5) (b : BitVec 5) (e : BitVec 1) (v : BitVec 1) (q : BitVec 3)
  /-- CPYM (R251): Queues a multicast copy to up to 64 destinations from a list. -/
  | cpym (d : BitVec 5) (a : BitVec 5) (b : BitVec 5) (v : BitVec 1) (q : BitVec 3)
  /-- LANDSET (R254): Sets a landing word's TARGET, clears COUNT and optionally GEN. -/
  | landset (a : BitVec 5) (b : BitVec 5) (n : BitVec 1)
  /-- MDEP (R347): Deposits a saturating add into a mark as a relaxed access. -/
  | mdep (a : BitVec 5) (b : BitVec 5)
  /-- MDEPX (R347): Deposits a maximum into a mark as a relaxed access. -/
  | mdepx (a : BitVec 5) (b : BitVec 5)
  /-- MSENSE (R349): Reads eight marks by pattern at one instant and returns the maximum and its index. -/
  | msense (d : BitVec 5) (a : BitVec 5) (b : BitVec 5)
  /-- MREAD (R350): Returns a mark after any pending fade. -/
  | mread (d : BitVec 5) (a : BitVec 5)
  /-- MCLR (R350): Returns a mark and clears it in one step. -/
  | mclr (d : BitVec 5) (a : BitVec 5)
  /-- MWAIT (R351): Parks until the next ebb instant and returns the ebb number. -/
  | mwait (d : BitVec 5)
  /-- MWAIT_UNTIL (R351): Parks until the ebb number is at least gA. -/
  | mwaitUntil (d : BitVec 5) (a : BitVec 5)
  /-- EBB (R352): Returns the current ebb number. -/
  | ebb (d : BitVec 5)
  /-- EBB_PERIOD (R352): Returns the ebb exponent E. -/
  | ebbPeriod (d : BitVec 5)
  /-- MFIELD (R353): Privileged write of a region descriptor, installed at the hall's next ebb instant. -/
  | mfield (a : BitVec 5) (b : BitVec 5)
  /-- MFIELD_RD (R353): Privileged read of a region descriptor. -/
  | mfieldRd (d : BitVec 5) (a : BitVec 5)
  /-- DHASH (R368): Performs one rolling-hash step modulo 2^61 - 1 in the core. -/
  | dhash (d : BitVec 5) (a : BitVec 5) (b : BitVec 5)
  /-- DLOOK (R369): Looks up the deepest matching Delta node and pins it. -/
  | dlook (d : BitVec 5) (a : BitVec 5) (b : BitVec 5) (s : BitVec 4)
  /-- DPUT (R370): Adds or finds a child snapshot of a Delta node and pins it. -/
  | dput (d : BitVec 5) (a : BitVec 5) (b : BitVec 5) (s : BitVec 4)
  /-- DREL (R371): Releases one pin of a Delta node. -/
  | drel (a : BitVec 5) (b : BitVec 5) (s : BitVec 4)
  /-- DSTAT (R371): Reads a counter of a Delta tree. -/
  | dstat (d : BitVec 5) (a : BitVec 5) (b : BitVec 5) (s : BitVec 4)
  /-- DTOUCH (R371): Refreshes a Delta node's stamp. -/
  | dtouch (a : BitVec 5) (b : BitVec 5) (s : BitVec 4)
  /-- FCFG (R387): Installs a front's configuration and discards its tuples. -/
  | fcfg (a : BitVec 5) (n : BitVec 2)
  /-- FPUT (R382): Offers a tuple to a front accumulator and returns the step's result. -/
  | fput (d : BitVec 5) (a : BitVec 5) (b : BitVec 5) (s : BitVec 4) (n : BitVec 2)
  /-- FREAD (R389): Reads one tuple of a front. -/
  | fread (d : BitVec 5) (a : BitVec 5) (s : BitVec 4) (n : BitVec 2)
  /-- FMERGE (R391): Offers every tuple of a front image to a front in one step. -/
  | fmerge (d : BitVec 5) (a : BitVec 5) (s : BitVec 4) (n : BitVec 2)
  /-- FSAVE (R390): Writes a front image to memory. -/
  | fsave (d : BitVec 5) (a : BitVec 5) (s : BitVec 4) (n : BitVec 2)
  /-- FLOAD (R390): Replaces a front with a checked front image. -/
  | fload (d : BitVec 5) (a : BitVec 5) (s : BitVec 4) (n : BitVec 2)
  /-- FCLR (R387): Clears a front's tuples and OVF and keeps its configuration. -/
  | fclr (n : BitVec 2)
  /-- FSTAT (R392): Returns a front's EPOCH, configuration state, CAP, OVF and COUNT. -/
  | fstat (d : BitVec 5) (s : BitVec 4) (n : BitVec 2)
  /-- MOVC_READ (R147): Reads a control register into gD. -/
  | movcRead (d : BitVec 5) (c : BitVec 5)
  /-- MOVC_WRITE (R147): Writes gB to a control register, with per-register checks. -/
  | movcWrite (c : BitVec 5) (b : BitVec 5)
  /-- MOVS_LO (R148): Reads the low half of a segment register. -/
  | movsLo (d : BitVec 5) (a : BitVec 5)
  /-- MOVS_HI (R148): Reads the high half of a segment register. -/
  | movsHi (d : BitVec 5) (a : BitVec 5)
  /-- MOVS_SEG (R148): Copies segment register sA to sD. -/
  | movsSeg (d : BitVec 5) (a : BitVec 5)
  /-- CLAIMV (R150): Requests a lane claim of L lanes, waiting when storage is short. -/
  | claimv (d : BitVec 5) (a : BitVec 5)
  /-- CLAIMT (R151): Requests a set of tile registers and accumulators, waiting until all are free. -/
  | claimt (d : BitVec 5) (a : BitVec 5)
  /-- RELT (R152): Releases the named members of the tile claim. -/
  | relt (a : BitVec 5)
  /-- SLOTSTART (R155): Hearth-only: starts a slot from a start cell or an image. -/
  | slotstart (a : BitVec 5)
  /-- SLOTREAP (R156): Hearth-only: vacates a slot whose task has ended. -/
  | slotreap (a : BitVec 5)
  /-- SLOTREAP_SAVE (R156): Hearth-only: writes the image of a task parked on a translation fault, vacates the slot and hands it to the dispatcher. -/
  | slotreapSave (a : BitVec 5) (b : BitVec 5)
  /-- SLOTOWN (R158): Hearth-only: reads a slot's owner queue and state. -/
  | slotown (d : BitVec 5) (a : BitVec 5)
  /-- TRAP (R160): Raises the trap fault to the handler with a code, continuing after the bundle on resume. -/
  | trap (a : BitVec 5) (c : BitVec 10)
  /-- BRK (R161): Debug-halts when the launch is armed, and raises the breakpoint fault otherwise. -/
  | brk (c : BitVec 10)
  /-- TRC (R162): Emits a software trace record when TC.SW is set. -/
  | trc (a : BitVec 5) (b : BitVec 5) (k : BitVec 6)
  /-- RDCTR (R163): Reads a counter of the issuing core. -/
  | rdctr (d : BitVec 5) (a : BitVec 5)
  /-- TASKRES (R165): Frees a fault-area entry and resumes its image through the dispatcher. -/
  | taskres (a : BitVec 5)
  /-- TASKKILL (R165): Frees a fault-area entry and ends its task. -/
  | taskkill (a : BitVec 5)
  /-- VADD_F (R196): Floating-point lane add, rounded once. -/
  | vaddF (m : BitVec 1) (t : BitVec 4) (d : BitVec 4) (a : BitVec 4) (b : BitVec 4) (r : BitVec 3)
  /-- VSUB_F (R196): Floating-point lane subtract. -/
  | vsubF (m : BitVec 1) (t : BitVec 4) (d : BitVec 4) (a : BitVec 4) (b : BitVec 4) (r : BitVec 3)
  /-- VMUL_F (R196): Floating-point lane multiply. -/
  | vmulF (m : BitVec 1) (t : BitVec 4) (d : BitVec 4) (a : BitVec 4) (b : BitVec 4) (r : BitVec 3)
  /-- VFMA (R196): Fused multiply-add into vD, rounded once. -/
  | vfma (m : BitVec 1) (t : BitVec 4) (d : BitVec 4) (a : BitVec 4) (b : BitVec 4) (r : BitVec 3)
  /-- VFMS (R196): Fused multiply-subtract of vD, rounded once. -/
  | vfms (m : BitVec 1) (t : BitVec 4) (d : BitVec 4) (a : BitVec 4) (b : BitVec 4) (r : BitVec 3)
  /-- VMIN_F (R196): Floating-point lane minimum. -/
  | vminF (m : BitVec 1) (t : BitVec 4) (d : BitVec 4) (a : BitVec 4) (b : BitVec 4)
  /-- VMAX_F (R196): Floating-point lane maximum. -/
  | vmaxF (m : BitVec 1) (t : BitVec 4) (d : BitVec 4) (a : BitVec 4) (b : BitVec 4)
  /-- VABS_F (R196): Clears the sign bit of each floating-point element. -/
  | vabsF (m : BitVec 1) (t : BitVec 4) (d : BitVec 4) (a : BitVec 4)
  /-- VNEG_F (R196): Inverts the sign bit of each floating-point element. -/
  | vnegF (m : BitVec 1) (t : BitVec 4) (d : BitVec 4) (a : BitVec 4)
  /-- VADD_I (R197): Packed integer add, wrapping or saturating. -/
  | vaddI (m : BitVec 1) (t : BitVec 4) (d : BitVec 4) (a : BitVec 4) (b : BitVec 4) (s : BitVec 1)
  /-- VSUB_I (R197): Packed integer subtract, wrapping or saturating. -/
  | vsubI (m : BitVec 1) (t : BitVec 4) (d : BitVec 4) (a : BitVec 4) (b : BitVec 4) (s : BitVec 1)
  /-- VMUL_I (R197): Packed integer multiply, low bits. -/
  | vmulI (m : BitVec 1) (t : BitVec 4) (d : BitVec 4) (a : BitVec 4) (b : BitVec 4)
  /-- VMULH (R197): Packed integer multiply, high bits. -/
  | vmulh (m : BitVec 1) (t : BitVec 4) (d : BitVec 4) (a : BitVec 4) (b : BitVec 4)
  /-- VMIN_I (R197): Packed integer minimum. -/
  | vminI (m : BitVec 1) (t : BitVec 4) (d : BitVec 4) (a : BitVec 4) (b : BitVec 4)
  /-- VMAX_I (R197): Packed integer maximum. -/
  | vmaxI (m : BitVec 1) (t : BitVec 4) (d : BitVec 4) (a : BitVec 4) (b : BitVec 4)
  /-- VABS_I (R197): Packed integer absolute value. -/
  | vabsI (m : BitVec 1) (t : BitVec 4) (d : BitVec 4) (a : BitVec 4) (s : BitVec 1)
  /-- VNEG_I (R197): Packed integer negation. -/
  | vnegI (m : BitVec 1) (t : BitVec 4) (d : BitVec 4) (a : BitVec 4) (s : BitVec 1)
  /-- VAND (R197): Packed bitwise AND. -/
  | vand (m : BitVec 1) (t : BitVec 4) (d : BitVec 4) (a : BitVec 4) (b : BitVec 4)
  /-- VOR (R197): Packed bitwise OR. -/
  | vor (m : BitVec 1) (t : BitVec 4) (d : BitVec 4) (a : BitVec 4) (b : BitVec 4)
  /-- VXOR (R197): Packed bitwise XOR. -/
  | vxor (m : BitVec 1) (t : BitVec 4) (d : BitVec 4) (a : BitVec 4) (b : BitVec 4)
  /-- VSHL (R197): Packed shift left, wrapping or saturating. -/
  | vshl (m : BitVec 1) (t : BitVec 4) (d : BitVec 4) (a : BitVec 4) (b : BitVec 4) (s : BitVec 1)
  /-- VSHR (R197): Packed shift right, arithmetic or logical by type. -/
  | vshr (m : BitVec 1) (t : BitVec 4) (d : BitVec 4) (a : BitVec 4) (b : BitVec 4)
  /-- VCMP (R199): Compares lanes and writes or narrows p. -/
  | vcmp (m : BitVec 1) (t : BitVec 4) (a : BitVec 4) (b : BitVec 4) (c : BitVec 4)
  /-- VSEL (R200): Selects each lane from vA or vB by p. -/
  | vsel (d : BitVec 4) (a : BitVec 4) (b : BitVec 4)
  /-- VCVT (R201): Converts elements between two types, using a part index. -/
  | vcvt (m : BitVec 1) (t : BitVec 4) (d : BitVec 4) (a : BitVec 4) (h : BitVec 4) (s : BitVec 4) (x : BitVec 1) (r : BitVec 3)
  /-- VQMX (R203): Quantises blocks of 32 FP32 values to an MX element format with E8M0 scales. -/
  | vqmx (t : BitVec 4) (d : BitVec 4) (a : BitVec 4) (b : BitVec 4)
  /-- VDQMX (R203): Dequantises MX blocks to FP32. -/
  | vdqmx (t : BitVec 4) (d : BitVec 4) (a : BitVec 4) (b : BitVec 4)
  /-- VRCP (R204): Correctly rounded reciprocal of each element. -/
  | vrcp (m : BitVec 1) (t : BitVec 4) (d : BitVec 4) (a : BitVec 4) (r : BitVec 3)
  /-- VRSQ (R204): Correctly rounded reciprocal square root. -/
  | vrsq (m : BitVec 1) (t : BitVec 4) (d : BitVec 4) (a : BitVec 4) (r : BitVec 3)
  /-- VEXP2 (R204): Correctly rounded 2^a. -/
  | vexp2 (m : BitVec 1) (t : BitVec 4) (d : BitVec 4) (a : BitVec 4) (r : BitVec 3)
  /-- VLOG2 (R204): Correctly rounded log2 a. -/
  | vlog2 (m : BitVec 1) (t : BitVec 4) (d : BitVec 4) (a : BitVec 4) (r : BitVec 3)
  /-- VSIN (R204): Correctly rounded sine. -/
  | vsin (m : BitVec 1) (t : BitVec 4) (d : BitVec 4) (a : BitVec 4) (r : BitVec 3)
  /-- VCOS (R204): Correctly rounded cosine. -/
  | vcos (m : BitVec 1) (t : BitVec 4) (d : BitVec 4) (a : BitVec 4) (r : BitVec 3)
  /-- VTANH (R204): Correctly rounded hyperbolic tangent. -/
  | vtanh (m : BitVec 1) (t : BitVec 4) (d : BitVec 4) (a : BitVec 4) (r : BitVec 3)
  /-- VCLZ (R198): Counts leading zeros within each element. -/
  | vclz (m : BitVec 1) (t : BitVec 4) (d : BitVec 4) (a : BitVec 4)
  /-- VCTZ (R198): Counts trailing zeros within each element. -/
  | vctz (m : BitVec 1) (t : BitVec 4) (d : BitVec 4) (a : BitVec 4)
  /-- VPOPC (R198): Counts one bits within each element. -/
  | vpopc (m : BitVec 1) (t : BitVec 4) (d : BitVec 4) (a : BitVec 4)
  /-- VSHUF (R205): Permutes lanes of vA by the indices in vB. -/
  | vshuf (m : BitVec 1) (d : BitVec 4) (a : BitVec 4) (b : BitVec 4)
  /-- VSPLAT (R206): Fills every element of vD from gA. -/
  | vsplat (m : BitVec 1) (t : BitVec 4) (v : BitVec 4) (a : BitVec 5)
  /-- VSPLAT_SEQ (R206): Fills lane i with gA + i × gB. -/
  | vsplatSeq (m : BitVec 1) (t : BitVec 4) (v : BitVec 4) (a : BitVec 5) (b : BitVec 5)
  /-- VVOTE (R208): Reduces lane votes to any, all, ballot, count or first in gA. -/
  | vvote (m : BitVec 1) (v : BitVec 4) (a : BitVec 5) (o : BitVec 6)
  /-- VMATCH (R209): For each lane, gives the first, count or rank of equal lanes. -/
  | vmatch (m : BitVec 1) (d : BitVec 4) (a : BitVec 4) (o : BitVec 8)
  /-- VRED (R210): Reduces lanes through a fixed pairwise tree to gA. -/
  | vred (m : BitVec 1) (t : BitVec 4) (v : BitVec 4) (a : BitVec 5) (o : BitVec 4)
  /-- VSCAN (R211): Inclusive or exclusive scan across lanes in increasing order. -/
  | vscan (m : BitVec 1) (t : BitVec 4) (d : BitVec 4) (a : BitVec 4) (e : BitVec 1) (o : BitVec 4)
  /-- VINS (R207): Writes gA into lane gB of vD. -/
  | vins (t : BitVec 4) (v : BitVec 4) (a : BitVec 5) (b : BitVec 5)
  /-- VEXT (R207): Reads lane gB of vD into gA. -/
  | vext (t : BitVec 4) (v : BitVec 4) (a : BitVec 5) (b : BitVec 5)
  /-- VLD (R238): Loads consecutive 32-bit words into the lanes of vV. -/
  | vld (m : BitVec 1) (v : BitVec 4) (a : BitVec 5) (s : BitVec 4) (r : BitVec 1)
  /-- VST (R238): Stores the lanes of vV to consecutive words. -/
  | vst (m : BitVec 1) (v : BitVec 4) (a : BitVec 5) (s : BitVec 4) (r : BitVec 1)
  /-- VLDS (R238): Strided vector load. -/
  | vlds (m : BitVec 1) (v : BitVec 4) (a : BitVec 5) (b : BitVec 5) (s : BitVec 4) (r : BitVec 1)
  /-- VSTS (R238): Strided vector store. -/
  | vsts (m : BitVec 1) (v : BitVec 4) (a : BitVec 5) (b : BitVec 5) (s : BitVec 4) (r : BitVec 1)
  /-- VGATH (R238): Gathers words at offsets given by an index vector. -/
  | vgath (m : BitVec 1) (t : BitVec 4) (v : BitVec 4) (a : BitVec 5) (i : BitVec 4) (s : BitVec 4) (r : BitVec 1)
  /-- VSCAT (R238): Scatters words to offsets given by an index vector. -/
  | vscat (m : BitVec 1) (t : BitVec 4) (v : BitVec 4) (a : BitVec 5) (i : BitVec 4) (s : BitVec 4) (r : BitVec 1)
  /-- TLD (R282): Queues a load of tile-register rows from memory. -/
  | tld (a : BitVec 4) (g : BitVec 5) (h : BitVec 5)
  /-- TLDX (R283): Queues a transposed tile load through the tile view of a room store. -/
  | tldx (a : BitVec 4) (g : BitVec 5) (h : BitVec 5)
  /-- TST (R282): Queues a store of tile-register rows to memory. -/
  | tst (a : BitVec 4) (g : BitVec 5) (h : BitVec 5)
  /-- TLW (R285): Queues a latch of a tile register into a weight plane's shadow. -/
  | tlw (b : BitVec 4) (c : BitVec 2)
  /-- TSCL (R284): Queues a load of a tile register's scale side-car from memory. -/
  | tscl (a : BitVec 4) (g : BitVec 5)
  /-- TSCL_ST (R284): Queues a store of a tile register's scale side-car to memory. -/
  | tsclSt (a : BitVec 4) (g : BitVec 5)
  /-- TMMA (R286): Queues one pass of activations against the latched plane into an accumulator. -/
  | tmma (a : BitVec 4) (c : BitVec 2)
  /-- TMMA_W (R286): Queues N passes, each latching a weight register before it. -/
  | tmmaW (a : BitVec 4) (b : BitVec 4) (c : BitVec 2) (n : BitVec 2)
  /-- TZERO (R287): Queues zeroing of an accumulator. -/
  | tzero (c : BitVec 2)
  /-- TZERO_T (R287): Queues zeroing of a tile register and its side-car. -/
  | tzeroT (a : BitVec 4)
  /-- TDRAIN (R288): Queues a converted drain of an accumulator to a local store, with landing arrivals. -/
  | tdrain (c : BitVec 2) (g : BitVec 5) (h : BitVec 5) (s : BitVec 1) (t : BitVec 4)
  /-- TDRAIN_BYP (R289): Queues a drain of an accumulator into tile registers. -/
  | tdrainByp (a : BitVec 4) (c : BitVec 2) (s : BitVec 1) (z : BitVec 1)
  /-- ISSUE_CYCLE (R108): Each core cycle: the first eligible context from the rotation pointer issues its bundle, or the cycle issues nothing. -/
  | issueCycle (core : Nat)
  /-- RN_TILE_GIVE_UP (R120): After the task's tile work completes, a long-held overlapping tile claim is released at an RN header. -/
  | rnTileGiveUp (ctx : Nat)
  /-- HEADER_WALK (R85): A context resumed at a bundle walks its code line to recover the block header. -/
  | headerWalk (ctx : Nat)
  /-- REPLY_ARRIVAL (R111): The reply or acknowledgement to a plain access, atomic or returning operation arrives and the context re-enters the rotation. -/
  | replyArrival (ctx : Nat)
  /-- RELAXED_LOAD_DATA (R112): Data of a relaxed load is written and its register stops pending. -/
  | relaxedLoadData (ctx : Nat) (id : Nat)
  /-- RELAXED_ACKNOWLEDGEMENT (R112): A relaxed store, RED or deposit is acknowledged and is no longer outstanding. -/
  | relaxedAcknowledgement (ctx : Nat) (id : Nat)
  /-- RELAXED_FAULT_REPLY (R236): A fault reply to a relaxed access stops the context at the next boundary and hands it to the handler. -/
  | relaxedFaultReply (ctx : Nat) (id : Nat) (kind : Nat) (reason : Nat)
  /-- REDUCTION_FAULT_REPLY (R317): A fault reply to a RED or deposit adds a reduction-log entry and sets ST.RLF. -/
  | reductionFaultReply (ctx : Nat) (id : Nat) (reason : Nat)
  /-- REMOTE_UPDATE (R316): A RED packet arrives at its station and is applied, returning an acknowledgement or fault. -/
  | remoteUpdate (ctx : Nat) (id : Nat)
  /-- STATION_WAKE (R230): A parked taker, putter, reader or waiter receives its value or wake and resumes. -/
  | stationWake (ctx : Nat) (value : Word)
  /-- CLAIM_GRANT (R118): A waiting CLAIMV or CLAIMT is granted as storage or parts free, and its bundle takes effect. -/
  | claimGrant (room : Nat)
  /-- MIGRATION_ARRIVAL (R78): A migration packet arrives at the owner and is placed in a vacant slot or held in its inbox. -/
  | migrationArrival (flight : Nat)
  /-- MIGRATION_RESEND (R78): A sender refused by a full inbox resends the packet after 256 cc. -/
  | migrationResend (flight : Nat)
  /-- SLOT_EVENT (R69): The hall dispatcher pairs a waiting task with a vacant slot and PUTs a slot event into the hearth word. -/
  | slotEvent (hall : Nat)
  /-- ROTATION_BOUNDARY (R67): Every 16 cc the hall arbiter recomputes targets and moves at most one owner field per core. -/
  | rotationBoundary (hall : Nat)
  /-- LAUNCH_INTAKE (R52): The dispatcher TAKEs a launch word, discards bad values and reads and checks the launch record. -/
  | launchIntake (hall : Nat) (word : Nat)
  /-- INTAKE_READ_RETRY (R443): After a translation wake, the dispatcher reads the launch record, group table or segment set again. -/
  | intakeReadRetry (hall : Nat) (word : Nat)
  /-- LEADER_DELTA_LOOKUP (R64): With DR set, the leader looks up the input in the Delta tree before granting any chunk. -/
  | leaderDeltaLookup (lnum : Nat)
  /-- CHUNK_REQUEST (R57): A wing with fewer than C/2 unstarted indices asks the leader for its next chunk. -/
  | chunkRequest (lnum : Nat) (wing : Nat)
  /-- GRANT_NOTICE (R58): The leader sends a grant notice for a chunk or spawn-serial block to every participant. -/
  | grantNotice (lnum : Nat) (wing : Nat) (spawn : Bool)
  /-- GRANT_ACKNOWLEDGEMENT (R58): A participant keeps a grant notice and acknowledges it. -/
  | grantAcknowledgement (lnum : Nat) (first : Nat) (wing : Nat)
  /-- GRANT_COMMIT (R58): With every acknowledgement in, the leader commits the grant to the grantee. -/
  | grantCommit (lnum : Nat) (first : Nat)
  /-- CHUNK_HANDOUT (R59): A wing that receives a commit hands the chunk's indices to its halls in proportion to vacant slots. -/
  | chunkHandout (lnum : Nat) (first : Nat)
  /-- CHUNK_COMPLETION_REPORT (R58): When a chunk's last task ends, the wing reports completion to every participant. -/
  | chunkCompletionReport (lnum : Nat) (first : Nat)
  /-- LOSS_DECLARATION (R61): A survivor adopts a loss declaration and starts or restarts the election. -/
  | lossDeclaration (wing : Nat) (lost : Nat)
  /-- LEADER_ELECTION (R61): Survivors propose the lowest surviving wing, and the new leader resets the counters, commits held notices and records lost chunks. -/
  | leaderElection (lnum : Nat)
  /-- LAUNCH_COMPLETION (R412): At LIVE 0 the leader writes STATUS and LOSTA, fills DONE, reports the graph node and frees the launch number. -/
  | launchCompletion (lnum : Nat)
  /-- GRAPH_NODE_COMPLETE (R46): A completed node decrements its successors' counts, releases them and completes the replay at the end. -/
  | graphNodeComplete (replay : Nat) (node : Nat) (status : Nat)
  /-- PATCH_APPLY (R48): The home dispatcher TAKEs a patch when a slot is unpinned, copies it and publishes the new version. -/
  | patchApply (graph : Nat)
  /-- COPY_CHUNK (R248): The copy engine performs one 4 KiB chunk of a command and applies its landing arrival. -/
  | copyChunk (room : Nat) (queue : Nat)
  /-- TILE_STEP (R277): The tile engine performs one step of a queued tile command. -/
  | tileStep (room : Nat)
  /-- SLUICE_SWITCH (R258): A sluice switch forwards packets by destination bit and combines matching requests. -/
  | sluiceSwitch (hall : Nat) (stage : Nat) (switch : Nat)
  /-- COMBINED_REPLY_SPLIT (R260): The reply to a combined request is split into one reply per constituent and the wait entry is freed. -/
  | combinedReplySplit (hall : Nat) (packet : Nat) (value : Word)
  /-- MESH_HOP (R262): A mesh router forwards a packet on its deterministic or adaptive route. -/
  | meshHop (hall : Nat) (packet : Nat)
  /-- KEEPER_STEP (R375): While free records number fewer than LOW, the station removes or demotes one victim after a committed operation. -/
  | keeperStep (tree : Nat)
  /-- FAULT_HANDOVER (R400): Once outstanding work completes, a faulting task takes fault-area entries, writes its image and record and spawns a handler. -/
  | faultHandover (ctx : Nat)
  /-- GANG_STOP (R404): A lost gang member stops the whole gang, writes member and gang records and spawns one handler. -/
  | gangStop (ctx : Nat)
  /-- IMAGE_WRITE (R408): After pre-emption or a debug halt, once replies arrive, the image and its state block are written to the state pool. -/
  | imageWrite (ctx : Nat)
  /-- CLAIM_REESTABLISH (R410): A resumed task re-establishes its saved claims, reloads its state and requeues saved commands. -/
  | claimReestablish (ctx : Nat)
  /-- TRACE_APPEND (R419): The hall's trace writer appends an arriving record, or drops and counts it when the ring is full. -/
  | traceAppend (hall : Nat) (stamp : Word) (gtid : Word) (head : Word) (payload : Word)
  /-- LEND_EVENT (R229): After 2,048 cc parked on a translation fault, the dispatcher sends a lend event for the slot. -/
  | lendEvent (ctx : Nat)
  /-- RELV (R152): Releases the lane claim. -/
  | relv
  /-- PAGE_WALK (R225): A TLB miss walks four levels and fills the least recently used way. -/
  | pageWalk (port : Nat) (addr : Nat)
  /-- WAKE_REISSUE (R227): The attic's reissue wake: the parked bundle reissues, held accesses are performed and parked queues resume. -/
  | wakeReissue (ctx : Nat)
  /-- WAKE_REFUSE (R227): The attic's refuse wake: the task receives the page-refused fault. -/
  | wakeRefuse (ctx : Nat) (code : Nat)
  /-- HOST_LAUNCH_CAS (R55): An aligned 8-byte CAS on the atomic window PUTs a launch record address into an empty launch word. -/
  | hostLaunchCas (hall : Nat) (word : Nat) (compare : Word) (swap : Word)
  /-- HOST_WINDOW_OTHER (R55): A posted write or read on the atomic window has no effect; reads return all ones. -/
  | hostWindowOther (read : Bool)
  /-- APERTURE_REQUEST (R431): A host request on BAR 4 is translated and performed in paged space. -/
  | apertureRequest (write : Bool) (offset : Nat) (size : Nat) (data : Nat)
  /-- HOST_REGISTER_WRITE (R431): A write to a host-port register without behaviour of its own. -/
  | hostRegisterWrite (offset : Nat) (value : Word)
  /-- HEARTBEAT (R60): Each wing dispatcher sends a heartbeat to every other every microsecond. -/
  | heartbeat (wing : Nat)
  /-- WING_LOST (R60): After 10 µs of heartbeat silence, a wing declares the silent wing lost and tells every participant. -/
  | wingLost (wing : Nat) (silent : Nat)
  /-- STARVATION_TOKEN (R264): After 32 passed-over cycles, a router sends a starvation token upstream to stop the next express flit. -/
  | starvationToken (hall : Nat) (output : Nat)
  /-- LINK_RETRAIN (R266): A flit error or retraining discards partial packets and replays them from their first flit. -/
  | linkRetrain (link : Nat)
  /-- LINK_RETRAIN_TIMEOUT (R266): A link not retrained within 100 µs is taken out of service and the attic reroutes. -/
  | linkRetrainTimeout (link : Nat)
  /-- ESLIA_FLIT_ERROR (R268): An Eslia flit with an uncorrectable error discards the packets it touched, which are then replayed. -/
  | esliaFlitError (link : Nat) (packet : Nat)
  /-- REQUEST_TIMEOUT (R270): A plain request or reply lost with a failed part ends after 20 µs with the unit-offline fault. -/
  | requestTimeout (ctx : Nat)
  /-- MARK_SWEEP_WORD (R343): A bank's sweep applies a pending fade to one mark word and flips its parity. -/
  | markSweepWord (hall : Nat) (word : Nat)
  /-- INC_CHANGE (R415): The attic's servo changes INC, and a time-correction record goes to every hall's ring. -/
  | incChange (inc : Nat) (holdover : Bool)
  /-- SYNC_MESSAGE (R414): An IEEE 1588 Sync message is timestamped in hardware at the active port. -/
  | syncMessage (port : Nat) (sequence : Nat) (times : SyncTimes)
  /-- DELTA_WITHDRAWAL (R366): A withdrawal at the Delta station abandons an uncommitted operation or awaits a committed one. -/
  | deltaWithdrawal (ctx : Nat)
  /-- FRONT_STORAGE_ERROR (R393): An uncorrectable error in a front unconfigures it and raises the lost reason. -/
  | frontStorageError (room : Nat) (front : Nat)
  /-- LOCAL_STORE_UNCORRECTABLE (R403): An uncorrectable error in a local store faults every occupied worker slot of its core. -/
  | localStoreUncorrectable (core : Nat) (offset : Nat)
  /-- DEBUG_RESUME (R424): The attic resumes a debug-halted task, checking and reloading its image into the same slot. -/
  | debugResume (ctx : Nat)
  /-- STOP_TABLE_WRITE (R422): The attic writes one stop-table entry into every hall as a single house-wide step. -/
  | stopTableWrite (index : Nat) (who : Word) (hdr : Word) (ctl : Word)
  /-- INVALIDATE_TRANSLATIONS (R430): House command 0x01 purges overlapping TLB entries at every port. -/
  | invalidateTranslations (addr : Nat) (size : Nat)
  /-- PREEMPT (R406): House command 0x02 halts the target set of tasks within 5 µs. -/
  | preempt (kind : Nat) (halls : Nat) (which : Word) (service : Bool)
  /-- RELEASE (R408): House command 0x03 sends KIND 2 events for pre-empted images in write order. -/
  | release (kind : Nat) (halls : Nat) (which : Word)
  /-- MOVE_IMAGES (R430): House command 0x04 copies pre-empted images and state blocks to another hall's pool. -/
  | moveImages (source : Nat) (target : Nat)
  /-- HALL_SERVICE (R433): House command 0x05 takes a hall out of service or returns it. -/
  | hallService (hall : Nat) (back : Bool)
  /-- CORE_IN_SERVICE (R430): House command 0x06 zeroes a core's store, empties its full/empty state and returns it to service. -/
  | coreInService (hall : Nat) (core : Nat)
  /-- RETIRE_STACK (R437): House command 0x07 retires an HBM stack that no page table names. -/
  | retireStack (stack : Nat)
  /-- RECALIBRATE_LINK (R435): House command 0x08 retrains a link half by half without stopping it. -/
  | recalibrateLink (link : Nat)
  /-- HALF_RETRAIN_TIMEOUT (R435): A half not retrained within 100 µs is left out and the link runs at half width. -/
  | halfRetrainTimeout (link : Nat) (half : Bool)
  /-- SET_TRACE_RING (R419): House command 0x09 sets a hall's trace ring base and size. -/
  | setTraceRing (hall : Nat) (base : Nat) (size : Nat)
  /-- ISOLATE_PEER (R436): House command 0x0A turns down every Eslia link to a peer. -/
  | isolatePeer (peer : Nat)
  /-- START_HEARTHS (R71): House command 0x0B starts the hearth program in context 0 of the named cores. -/
  | startHearths (halls : Nat) (core : Nat) (cell : Nat)
  /-- SET_STATE_POOL (R409): House command 0x0C sets a hall's state pool. -/
  | setStatePool (hall : Nat) (base : Nat) (count : Nat)
  /-- ADVANCE_TRACE_RING (R419): House command 0x0D advances a ring's read offset and returns the write offset. -/
  | advanceTraceRing (hall : Nat) (offset : Nat)
  /-- PEER_DISCOVERY (R436): A module is admitted by discovery and given a peer number. -/
  | peerDiscovery (peer : Nat) (hops : Nat)
  /-- BOOT (R438): The boot ROM fetches the attic image, checks its signature and rollback counter, and retries on failure. -/
  | boot (image : Nat) (version : Nat)
  /-- RUNTIME_UPDATE (R438): A firmware update is written to the inactive slot, checked, and the system cores change to it. -/
  | runtimeUpdate (image : Nat) (version : Nat)
  /-- ATTESTATION_REQUEST (R439): A nonce request is answered with signed measurements. -/
  | attestationRequest (nonce : Nat)
  /-- SECURITY_ALARM (R440): An alarm source logs, halts or erases the key store by the set level. -/
  | securityAlarm (source : Nat)
  /-- CRASH_DUMP (R426): After a panic the crash kernel pre-empts every task and writes the dump sections in order. -/
  | crashDump (writer : Nat)
  /-- FROZEN_CONTEXT (R427): A context faulting after the crash pre-emption is frozen and its record goes to the freeze log. -/
  | frozenContext (ctx : Nat)
  /-- DUMP_HEARTBEAT (R428): Every 10 ms the dump writer stores its progress to the heartbeat word. -/
  | dumpHeartbeat (progress : Word)
  /-- WATCHDOG_TAKEOVER (R428): After 100 ms without heartbeat, or on a writer fault report, the watchdog halts the writer and finishes the dump. -/
  | watchdogTakeover (report : Bool)
  /-- SET_EBB_EXPONENT (R341): The attic fixes the ebb exponent E once, for the whole house, at boot. -/
  | setEbbExponent (exponent : Nat)
  /-- SET_HOUSE_COUNTER (R413): The attic sets the house counter to a chosen value once, before the first launch. -/
  | setHouseCounter (value : Word)
  /-- SET_TRANSLATION_ROOT (R223): The attic writes the single translation root that every port's walks start from. -/
  | setTranslationRoot (stack : Nat) (addr : Nat)
  /-- CLEAR_CORE_COUNTERS (R421): The attic clears a core's slot-class, histogram and event counters. -/
  | clearCoreCounters (core : Nat)
  /-- NOP_S (R90): The all-zero S syllable; it has no effect but the bundle still occupies an issue. -/
  | nopS
  /-- RET (R138): Enters g23 as a header. -/
  | ret
  /-- NOP_V (R90): The all-zero V syllable; it has no effect. -/
  | nopV
  /-- HOST_WINDOW_MISUSE (R55): Any other AtomicOp on the window completes with Completer Abort and increments MISUSE. -/
  | hostWindowMisuse
  /-- MISUSE_CLEAR (R431): Any write to MISUSE clears it. -/
  | misuseClear
  /-- MBOX_GO (R431): The host sets GO to pass an attestation request in MBUF to the attic. -/
  | mboxGo
  /-- REROUTE (R270): After a wing or link is lost, the attic holds injections, installs new paths and rewrites the scope tables. -/
  | reroute
  /-- COUNTER_TICK (R413): Each cc every copy of the house counter adds INC. -/
  | counterTick
  /-- EBB_INSTANT (R342): At each ebb instant the applying regions fade, waiting descriptors install and MWAIT waiters wake. -/
  | ebbInstant
  /-- TIME_SOURCE_LOSS (R414): Losing the time source keeps INC unchanged in holdover. -/
  | timeSourceLoss
  /-- RESET (R71): At reset every context is vacant, every full/empty bit empty and the counter 0. -/
  | reset
  /-- UPDATE_CONFIRM_TIMEOUT (R438): A new image unconfirmed within 10 s makes the attic return to the old slot. -/
  | updateConfirmTimeout
  /-- SCOPE_TABLE_WRITE (R270): At boot, after discovering the mesh, fords and links, the attic writes each hall's scope table. -/
  | scopeTableWrite
  /-- OCCUPANCY_REGION_WRITE (R340): At boot the attic writes region 0 of each hall as the occupancy region. -/
  | occupancyRegionWrite
  deriving DecidableEq, Repr

end Sys2Proof
end

