-- ==== Sys2Proof/WellFormed.lean ====
section
/-! DEFINITION. Which instructions are well formed: the register, type and condition codes that 04 R92 to R95, R97 and the
decode tables of 06, 08, 10, 12, 14, 19 and 21 allow. A syllable whose fields fail this check raises the illegal-instruction fault
(04 R101). An event has no encoding, and every event is well formed. -/

namespace Sys2Proof

/-- A scalar register code (R92). -/
def gOk (r : BitVec 5) : Bool := r.toNat < 24

/-- A segment register code (R92). -/
def segOk (r : BitVec 5) : Bool := r.toNat < 8

/-- A control register code (R92, R93). -/
def ctlOk (c : BitVec 5) : Bool := c.toNat < 10 || 16 ≤ c.toNat

/-- A condition code (R95). -/
def condOk (c : BitVec 4) : Bool := c.toNat < 14

/-- An AMO operation code: 0 to 9, and fadd only with SZ 0 (14 R313). -/
def amoOk (o : BitVec 5) (z : BitVec 1) : Bool := o.toNat < 10 && (o != 9 || z == 0)

/-- A rounding code (08 R194). -/
def rndOk (r : BitVec 3) : Bool := r.toNat ≤ 5

/-- .f32, .f16 or .bf16 (08 R193). -/
def tyFloat (t : BitVec 4) : Bool := t == 6 || t == 7 || t == 8

/-- .i32, .n32 or .f32 (08 R193). -/
def ty32 (t : BitVec 4) : Bool := t == 0 || t == 3 || t == 6

/-- Width in bits of one element of a type code (08 R190). -/
def tyWidth (t : Nat) : Nat :=
  if t = 0 || t = 3 || t = 6 then 32
  else if t = 1 || t = 4 || t = 7 || t = 8 then 16
  else if t = 13 then 4
  else 8

/-- Elements of a type in one lane (08 R190). -/
def perLane (t : Nat) : Nat := 32 / tyWidth t

/-- VCVT: types 0 to 14, different, a part index within the ratio of the element counts, a rounding code (08 R193, R201). -/
def cvtOk (t s h : BitVec 4) (r : BitVec 3) : Bool :=
  t != 15 && s != 15 && s != t && rndOk r &&
    (let ns := perLane s.toNat
     let nd := perLane t.toNat
     if ns = nd then h == 0 else if nd > ns then h.toNat < nd / ns else h.toNat < ns / nd)

/-- An operation of VRED and VSCAN with its type (08 R193, R210). -/
def redOk (t o : BitVec 4) : Bool := ty32 t && o.toNat < 6 && (t != 6 || o.toNat < 3)

/-- The static legality of an instruction's fields. -/
def Instr.wf : Instr → Bool
  | .nopS => true
  | .add d a b => gOk d && gOk a && gOk b
  | .sub d a b => gOk d && gOk a && gOk b
  | .mul d a b => gOk d && gOk a && gOk b
  | .mulhI d a b => gOk d && gOk a && gOk b
  | .mulhN d a b => gOk d && gOk a && gOk b
  | .divI d a b => gOk d && gOk a && gOk b
  | .divN d a b => gOk d && gOk a && gOk b
  | .remI d a b => gOk d && gOk a && gOk b
  | .remN d a b => gOk d && gOk a && gOk b
  | .and d a b => gOk d && gOk a && gOk b
  | .or d a b => gOk d && gOk a && gOk b
  | .xor d a b => gOk d && gOk a && gOk b
  | .andn d a b => gOk d && gOk a && gOk b
  | .shl d a b => gOk d && gOk a && gOk b
  | .shr d a b => gOk d && gOk a && gOk b
  | .sar d a b => gOk d && gOk a && gOk b
  | .rol d a b => gOk d && gOk a && gOk b
  | .ror d a b => gOk d && gOk a && gOk b
  | .minI d a b => gOk d && gOk a && gOk b
  | .maxI d a b => gOk d && gOk a && gOk b
  | .minN d a b => gOk d && gOk a && gOk b
  | .maxN d a b => gOk d && gOk a && gOk b
  | .clz d a => gOk d && gOk a
  | .ctz d a => gOk d && gOk a
  | .popc d a => gOk d && gOk a
  | .brev d a => gOk d && gOk a
  | .bswap d a => gOk d && gOk a
  | .addImm d a _ => gOk d && gOk a
  | .mulImm d a _ => gOk d && gOk a
  | .andImm d a _ => gOk d && gOk a
  | .orImm d a _ => gOk d && gOk a
  | .xorImm d a _ => gOk d && gOk a
  | .shlImm d a _ => gOk d && gOk a
  | .shrImm d a _ => gOk d && gOk a
  | .sarImm d a _ => gOk d && gOk a
  | .rolImm d a _ => gOk d && gOk a
  | .rsub d a _ => gOk d && gOk a
  | .minIImm d a _ => gOk d && gOk a
  | .maxIImm d a _ => gOk d && gOk a
  | .minNImm d a _ => gOk d && gOk a
  | .maxNImm d a _ => gOk d && gOk a
  | .li d _ => gOk d
  | .lih d _ => gOk d
  | .lix d _ => gOk d
  | .lit d _ => gOk d
  | .extN d a p w => gOk d && gOk a && p.toNat + w.toNat + 1 ≤ 64
  | .extI d a p w => gOk d && gOk a && p.toNat + w.toNat + 1 ≤ 64
  | .ins d a p w => gOk d && gOk a && p.toNat + w.toNat + 1 ≤ 64
  | .dep d a p w => gOk d && gOk a && p.toNat + w.toNat + 1 ≤ 64
  | .setCc d a b c => gOk d && gOk a && gOk b && condOk c
  | .cmpSkn c k a b => gOk a && gOk b && condOk c && k != 0
  | .cmpSknImm c k a i => gOk a && condOk c && k != 0 && (c.toNat < 12 || i.toNat < 64)
  | .br _ => true
  | .call _ => true
  | .jr a => gOk a
  | .callr a => gOk a
  | .ret => true
  | .endTask a => gOk a
  | .spawn d a b => gOk d && gOk a && gOk b
  | .launch d a b => gOk d && gOk a && gOk b
  | .greplay d a => gOk d && gOk a
  | .ldI d a _ _ _ _ => gOk d && gOk a
  | .ldN d a _ _ _ _ => gOk d && gOk a
  | .st d a _ _ _ _ => gOk d && gOk a
  | .ldxI d a _ _ _ x => gOk d && gOk a && gOk x
  | .ldxN d a _ _ _ x => gOk d && gOk a && gOk x
  | .stx d a _ _ _ x => gOk d && gOk a && gOk x
  | .lkup d a b => gOk d && gOk a && gOk b
  | .tagset d a b => gOk d && gOk a && gOk b
  | .taginv a b => gOk a && gOk b
  | .pfx a _ _ => gOk a
  | .segld d a => segOk d && gOk a
  | .segst d a => segOk d && gOk a
  | .segnar d a b _ => segOk d && segOk a && gOk b && b.toNat < 23
  | .amo d a b _ z o => gOk d && gOk a && gOk b && amoOk o z
  | .amocas d a b _ _ => gOk d && gOk a && gOk b
  | .red a b z o => gOk a && gOk b && amoOk o z && o != 1
  | .fence _ => true
  | .qfence a => gOk a
  | .qfenceOwn a _ => gOk a
  | .take d a _ _ => gOk d && gOk a
  | .put d a _ _ => gOk d && gOk a
  | .fereadD d a _ _ => gOk d && gOk a
  | .fereadProbe d a _ _ => gOk d && gOk a
  | .fesetEmpty a _ _ => gOk a
  | .fesetFull d a _ _ => gOk d && gOk a
  | .futnew d a _ => gOk d && gOk a
  | .futset a b _ => gOk a && gOk b
  | .futget d a _ => gOk d && gOk a
  | .futdrop a _ => gOk a
  | .barinit a b _ => gOk a && gOk b
  | .arrive d a b _ => gOk d && gOk a && gOk b
  | .waitb d a b _ => gOk d && gOk a && gOk b
  | .waitl d a b _ => gOk d && gOk a && gOk b
  | .cpy d a b _ _ _ => gOk d && gOk a && gOk b
  | .cpys d a b _ _ _ => gOk d && gOk a && gOk b && b.toNat < 23
  | .cpym d a b _ _ => gOk d && gOk a && gOk b
  | .landset a b _ => gOk a && gOk b
  | .mdep a b => gOk a && gOk b
  | .mdepx a b => gOk a && gOk b
  | .msense d a b => gOk d && gOk a && gOk b
  | .mread d a => gOk d && gOk a
  | .mclr d a => gOk d && gOk a
  | .mwait d => gOk d
  | .mwaitUntil d a => gOk d && gOk a
  | .ebb d => gOk d
  | .ebbPeriod d => gOk d
  | .mfield a b => gOk a && gOk b
  | .mfieldRd d a => gOk d && gOk a
  | .dhash d a b => gOk d && gOk a && gOk b
  | .dlook d a b _ => gOk d && gOk a && gOk b && (1 ≤ d.toNat && d.toNat ≤ 21) && b.toNat ≤ 22
  | .dput d a b _ => gOk d && gOk a && gOk b && (1 ≤ d.toNat && d.toNat ≤ 22)
  | .drel a b _ => gOk a && gOk b
  | .dstat d a b _ => gOk d && gOk a && gOk b
  | .dtouch a b _ => gOk a && gOk b
  | .fcfg a _ => gOk a
  | .fput d a b _ _ => gOk d && gOk a && gOk b
  | .fread d a _ _ => gOk d && gOk a && (1 ≤ d.toNat && d.toNat ≤ 21)
  | .fmerge d a _ _ => gOk d && gOk a
  | .fsave d a _ _ => gOk d && gOk a
  | .fload d a _ _ => gOk d && gOk a
  | .fclr _ => true
  | .fstat d _ _ => gOk d
  | .movcRead d c => gOk d && ctlOk c
  | .movcWrite c b => gOk b && ctlOk c
  | .movsLo d a => gOk d && segOk a
  | .movsHi d a => gOk d && segOk a
  | .movsSeg d a => segOk d && segOk a
  | .claimv d a => gOk d && gOk a
  | .claimt d a => gOk d && gOk a
  | .relv => true
  | .relt a => gOk a
  | .slotstart a => gOk a
  | .slotreap a => gOk a
  | .slotreapSave a b => gOk a && gOk b
  | .slotown d a => gOk d && gOk a
  | .trap a _ => gOk a
  | .brk _ => true
  | .trc a b _ => gOk a && gOk b
  | .rdctr d a => gOk d && gOk a
  | .taskres a => gOk a
  | .taskkill a => gOk a
  | .nopV => true
  | .vaddF _ t _ _ _ r => tyFloat t && rndOk r
  | .vsubF _ t _ _ _ r => tyFloat t && rndOk r
  | .vmulF _ t _ _ _ r => tyFloat t && rndOk r
  | .vfma _ t _ _ _ r => tyFloat t && rndOk r
  | .vfms _ t _ _ _ r => tyFloat t && rndOk r
  | .vminF _ t _ _ _ => tyFloat t
  | .vmaxF _ t _ _ _ => tyFloat t
  | .vabsF _ t _ _ => tyFloat t
  | .vnegF _ t _ _ => tyFloat t
  | .vaddI _ t _ _ _ _ => t.toNat ≤ 5
  | .vsubI _ t _ _ _ _ => t.toNat ≤ 5
  | .vmulI _ t _ _ _ => t.toNat ≤ 5
  | .vmulh _ t _ _ _ => t.toNat ≤ 5
  | .vminI _ t _ _ _ => t.toNat ≤ 5
  | .vmaxI _ t _ _ _ => t.toNat ≤ 5
  | .vabsI _ t _ _ _ => t.toNat ≤ 5
  | .vnegI _ t _ _ _ => t.toNat ≤ 5
  | .vand _ t _ _ _ => t.toNat ≤ 5
  | .vor _ t _ _ _ => t.toNat ≤ 5
  | .vxor _ t _ _ _ => t.toNat ≤ 5
  | .vshl _ t _ _ _ _ => t.toNat ≤ 5
  | .vshr _ t _ _ _ => t.toNat ≤ 5
  | .vcmp _ t _ _ c => ty32 t && c.toNat < 8 && (c.toNat < 6 || t == 6)
  | .vsel _ _ _ => true
  | .vcvt _ t _ _ h s _ r => cvtOk t s h r
  | .vqmx t _ _ _ => 9 ≤ t.toNat && t.toNat ≤ 14
  | .vdqmx t _ _ _ => 9 ≤ t.toNat && t.toNat ≤ 14
  | .vrcp _ t _ _ r => tyFloat t && rndOk r
  | .vrsq _ t _ _ r => tyFloat t && rndOk r
  | .vexp2 _ t _ _ r => tyFloat t && rndOk r
  | .vlog2 _ t _ _ r => tyFloat t && rndOk r
  | .vsin _ t _ _ r => tyFloat t && rndOk r
  | .vcos _ t _ _ r => tyFloat t && rndOk r
  | .vtanh _ t _ _ r => tyFloat t && rndOk r
  | .vclz _ t _ _ => t.toNat ≤ 5
  | .vctz _ t _ _ => t.toNat ≤ 5
  | .vpopc _ t _ _ => t.toNat ≤ 5
  | .vshuf _ _ _ _ => true
  | .vsplat _ t _ a => gOk a && t != 15
  | .vsplatSeq _ t _ a b => gOk a && gOk b && (t == 0 || t == 3)
  | .vvote _ _ a o => gOk a && o.toNat ≤ 4
  | .vmatch _ _ _ o => o.toNat ≤ 2
  | .vred _ t _ a o => gOk a && redOk t o
  | .vscan _ t _ _ _ o => redOk t o
  | .vins t _ a b => gOk a && gOk b && ty32 t
  | .vext t _ a b => gOk a && gOk b && ty32 t
  | .vld _ _ a _ _ => gOk a
  | .vst _ _ a _ _ => gOk a
  | .vlds _ _ a b _ _ => gOk a && gOk b
  | .vsts _ _ a b _ _ => gOk a && gOk b
  | .vgath _ t _ a _ _ _ => gOk a && (t == 0 || t == 3)
  | .vscat _ t _ a _ _ _ => gOk a && (t == 0 || t == 3)
  | .tld _ g h => gOk g && gOk h
  | .tldx _ g h => gOk g && gOk h
  | .tst _ g h => gOk g && gOk h
  | .tlw _ _ => true
  | .tscl _ g => gOk g
  | .tsclSt _ g => gOk g
  | .tmma _ _ => true
  | .tmmaW _ _ _ _ => true
  | .tzero _ => true
  | .tzeroT _ => true
  | .tdrain _ g h _ t => gOk g && gOk h && 6 ≤ t.toNat && t.toNat ≤ 10
  | .tdrainByp _ _ _ _ => true
  | .issueCycle _ => true
  | .rnTileGiveUp _ => true
  | .headerWalk _ => true
  | .replyArrival _ => true
  | .relaxedLoadData _ _ => true
  | .relaxedAcknowledgement _ _ => true
  | .relaxedFaultReply _ _ _ _ => true
  | .reductionFaultReply _ _ _ => true
  | .remoteUpdate _ _ => true
  | .stationWake _ _ => true
  | .claimGrant _ => true
  | .pageWalk _ _ => true
  | .wakeReissue _ => true
  | .wakeRefuse _ _ => true
  | .lendEvent _ => true
  | .migrationArrival _ => true
  | .migrationResend _ => true
  | .slotEvent _ => true
  | .rotationBoundary _ => true
  | .hostLaunchCas _ _ _ _ => true
  | .hostWindowMisuse => true
  | .hostWindowOther _ => true
  | .misuseClear => true
  | .mboxGo => true
  | .apertureRequest _ _ _ _ => true
  | .hostRegisterWrite _ _ => true
  | .launchIntake _ _ => true
  | .intakeReadRetry _ _ => true
  | .leaderDeltaLookup _ => true
  | .chunkRequest _ _ => true
  | .grantNotice _ _ _ => true
  | .grantAcknowledgement _ _ _ => true
  | .grantCommit _ _ => true
  | .chunkHandout _ _ => true
  | .chunkCompletionReport _ _ => true
  | .heartbeat _ => true
  | .wingLost _ _ => true
  | .lossDeclaration _ _ => true
  | .leaderElection _ => true
  | .launchCompletion _ => true
  | .graphNodeComplete _ _ _ => true
  | .patchApply _ => true
  | .copyChunk _ _ => true
  | .tileStep _ => true
  | .sluiceSwitch _ _ _ => true
  | .combinedReplySplit _ _ _ => true
  | .meshHop _ _ => true
  | .starvationToken _ _ => true
  | .linkRetrain _ => true
  | .linkRetrainTimeout _ => true
  | .esliaFlitError _ _ => true
  | .reroute => true
  | .requestTimeout _ => true
  | .counterTick => true
  | .ebbInstant => true
  | .markSweepWord _ _ => true
  | .incChange _ _ => true
  | .syncMessage _ _ _ => true
  | .timeSourceLoss => true
  | .deltaWithdrawal _ => true
  | .keeperStep _ => true
  | .frontStorageError _ _ => true
  | .faultHandover _ => true
  | .localStoreUncorrectable _ _ => true
  | .gangStop _ => true
  | .imageWrite _ => true
  | .claimReestablish _ => true
  | .debugResume _ => true
  | .stopTableWrite _ _ _ _ => true
  | .traceAppend _ _ _ _ _ => true
  | .invalidateTranslations _ _ => true
  | .preempt _ _ _ _ => true
  | .release _ _ _ => true
  | .moveImages _ _ => true
  | .hallService _ _ => true
  | .coreInService _ _ => true
  | .retireStack _ => true
  | .recalibrateLink _ => true
  | .halfRetrainTimeout _ _ => true
  | .setTraceRing _ _ _ => true
  | .isolatePeer _ => true
  | .startHearths _ _ _ => true
  | .setStatePool _ _ _ => true
  | .advanceTraceRing _ _ => true
  | .peerDiscovery _ _ => true
  | .reset => true
  | .boot _ _ => true
  | .runtimeUpdate _ _ => true
  | .updateConfirmTimeout => true
  | .attestationRequest _ => true
  | .securityAlarm _ => true
  | .crashDump _ => true
  | .frozenContext _ => true
  | .dumpHeartbeat _ => true
  | .watchdogTakeover _ => true
  | .setEbbExponent _ => true
  | .setHouseCounter _ => true
  | .setTranslationRoot _ _ => true
  | .scopeTableWrite => true
  | .occupancyRegionWrite => true
  | .clearCoreCounters _ => true

end Sys2Proof
end

