-- ==== Sys2Proof/Decode.lean ====
section
/-! DEFINITION. Decoding of S and V syllables by the opcode maps and formats of 04 R96 to R101, total on all words and
rejecting by name, and the encoder of the same formats. `rawS` and `rawV` read the fields a major opcode's format names and check
the function codes and the reserved fields; `Instr.wf` then checks the codes in the fields. -/

namespace Sys2Proof

open Sys2Proof.Machine

/-- Why a syllable is not an instruction (R101); the machine raises the illegal-instruction fault for each. -/
inductive Reject where
  /-- The major opcode is marked illegal in R99 or R100. -/
  | majorOpcode (op : Nat)
  /-- A function code the opcode's chapter does not list, or a nonzero reserved field. -/
  | functionOrReserved (op : Nat)
  /-- A register, type, condition or other code that its table does not allow. -/
  | fieldCode (op : Nat)
  deriving DecidableEq, Repr

/-- Which slot of a bundle holds an instruction; an event stands in neither. -/
inductive Slot where
  | s
  | v
  | event
  deriving DecidableEq, Repr

/-- The `w`-bit field of `n` whose lowest bit is bit `lo`. -/
def cut (w lo n : Nat) : BitVec w := BitVec.ofNat w (n / 2 ^ lo)

/-- The S syllables of major opcode 0x01. -/
def opS01 (n : Nat) : Option Instr :=
    if bits n 9 0 = 0 then some (.add (cut 5 20 n) (cut 5 15 n) (cut 5 10 n))
    else if bits n 9 0 = 1 then some (.sub (cut 5 20 n) (cut 5 15 n) (cut 5 10 n))
    else if bits n 9 0 = 2 then some (.mul (cut 5 20 n) (cut 5 15 n) (cut 5 10 n))
    else if bits n 9 0 = 3 then some (.mulhI (cut 5 20 n) (cut 5 15 n) (cut 5 10 n))
    else if bits n 9 0 = 4 then some (.mulhN (cut 5 20 n) (cut 5 15 n) (cut 5 10 n))
    else if bits n 9 0 = 5 then some (.divI (cut 5 20 n) (cut 5 15 n) (cut 5 10 n))
    else if bits n 9 0 = 6 then some (.divN (cut 5 20 n) (cut 5 15 n) (cut 5 10 n))
    else if bits n 9 0 = 7 then some (.remI (cut 5 20 n) (cut 5 15 n) (cut 5 10 n))
    else if bits n 9 0 = 8 then some (.remN (cut 5 20 n) (cut 5 15 n) (cut 5 10 n))
    else if bits n 9 0 = 16 then some (.and (cut 5 20 n) (cut 5 15 n) (cut 5 10 n))
    else if bits n 9 0 = 17 then some (.or (cut 5 20 n) (cut 5 15 n) (cut 5 10 n))
    else if bits n 9 0 = 18 then some (.xor (cut 5 20 n) (cut 5 15 n) (cut 5 10 n))
    else if bits n 9 0 = 19 then some (.andn (cut 5 20 n) (cut 5 15 n) (cut 5 10 n))
    else if bits n 9 0 = 20 then some (.shl (cut 5 20 n) (cut 5 15 n) (cut 5 10 n))
    else if bits n 9 0 = 21 then some (.shr (cut 5 20 n) (cut 5 15 n) (cut 5 10 n))
    else if bits n 9 0 = 22 then some (.sar (cut 5 20 n) (cut 5 15 n) (cut 5 10 n))
    else if bits n 9 0 = 23 then some (.rol (cut 5 20 n) (cut 5 15 n) (cut 5 10 n))
    else if bits n 9 0 = 24 then some (.ror (cut 5 20 n) (cut 5 15 n) (cut 5 10 n))
    else if bits n 9 0 = 32 then some (.minI (cut 5 20 n) (cut 5 15 n) (cut 5 10 n))
    else if bits n 9 0 = 33 then some (.maxI (cut 5 20 n) (cut 5 15 n) (cut 5 10 n))
    else if bits n 9 0 = 34 then some (.minN (cut 5 20 n) (cut 5 15 n) (cut 5 10 n))
    else if bits n 9 0 = 35 then some (.maxN (cut 5 20 n) (cut 5 15 n) (cut 5 10 n))
    else if bits n 14 0 = 48 then some (.clz (cut 5 20 n) (cut 5 15 n))
    else if bits n 14 0 = 49 then some (.ctz (cut 5 20 n) (cut 5 15 n))
    else if bits n 14 0 = 50 then some (.popc (cut 5 20 n) (cut 5 15 n))
    else if bits n 14 0 = 51 then some (.brev (cut 5 20 n) (cut 5 15 n))
    else if bits n 14 0 = 52 then some (.bswap (cut 5 20 n) (cut 5 15 n))
    else none

/-- The S syllables of major opcode 0x14. -/
def opS14 (n : Nat) : Option Instr :=
    if bits n 2 0 = 0 then some (.extN (cut 5 20 n) (cut 5 15 n) (cut 6 9 n) (cut 6 3 n))
    else if bits n 2 0 = 1 then some (.extI (cut 5 20 n) (cut 5 15 n) (cut 6 9 n) (cut 6 3 n))
    else if bits n 2 0 = 2 then some (.ins (cut 5 20 n) (cut 5 15 n) (cut 6 9 n) (cut 6 3 n))
    else if bits n 2 0 = 3 then some (.dep (cut 5 20 n) (cut 5 15 n) (cut 6 9 n) (cut 6 3 n))
    else none

/-- The S syllables of major opcode 0x1A. -/
def opS1A (n : Nat) : Option Instr :=
    if bits n 14 0 = 0 ∧ bits n 24 20 = 0 then some (.jr (cut 5 15 n))
    else if bits n 14 0 = 1 ∧ bits n 24 20 = 0 then some (.callr (cut 5 15 n))
    else if bits n 24 0 = 2 then some .ret
    else none

/-- The S syllables of major opcode 0x33. -/
def opS33 (n : Nat) : Option Instr :=
    if bits n 24 4 = 0 then some (.fence (cut 4 0 n))
    else if bits n 14 0 = 512 ∧ bits n 24 20 = 0 then some (.qfence (cut 5 15 n))
    else if bits n 14 4 = 48 ∧ bits n 24 20 = 0 then some (.qfenceOwn (cut 5 15 n) (cut 4 0 n))
    else none

/-- The S syllables of major opcode 0x36. -/
def opS36 (n : Nat) : Option Instr :=
    if bits n 14 12 = 6 then some (.fereadD (cut 5 20 n) (cut 5 15 n) (cut 4 8 n) (cut 8 0 n))
    else if bits n 14 12 = 0 then some (.fereadProbe (cut 5 20 n) (cut 5 15 n) (cut 4 8 n) (cut 8 0 n))
    else none

/-- The S syllables of major opcode 0x37. -/
def opS37 (n : Nat) : Option Instr :=
    if bits n 14 12 = 0 ∧ bits n 24 20 = 0 then some (.fesetEmpty (cut 5 15 n) (cut 4 8 n) (cut 8 0 n))
    else if bits n 14 12 = 2 then some (.fesetFull (cut 5 20 n) (cut 5 15 n) (cut 4 8 n) (cut 8 0 n))
    else none

/-- The S syllables of major opcode 0x4D. -/
def opS4D (n : Nat) : Option Instr :=
    if bits n 19 0 = 0 then some (.mwait (cut 5 20 n))
    else if bits n 14 0 = 1 then some (.mwaitUntil (cut 5 20 n) (cut 5 15 n))
    else none

/-- The S syllables of major opcode 0x4E. -/
def opS4E (n : Nat) : Option Instr :=
    if bits n 19 0 = 0 then some (.ebb (cut 5 20 n))
    else if bits n 19 0 = 1 then some (.ebbPeriod (cut 5 20 n))
    else none

/-- The S syllables of major opcode 0x4F. -/
def opS4F (n : Nat) : Option Instr :=
    if bits n 9 0 = 0 ∧ bits n 24 20 = 0 then some (.mfield (cut 5 15 n) (cut 5 10 n))
    else if bits n 14 0 = 1 then some (.mfieldRd (cut 5 20 n) (cut 5 15 n))
    else none

/-- The S syllables of major opcode 0x60. -/
def opS60 (n : Nat) : Option Instr :=
    if bits n 14 0 = 0 then some (.movcRead (cut 5 20 n) (cut 5 15 n))
    else if bits n 9 0 = 1 ∧ bits n 24 20 = 0 then some (.movcWrite (cut 5 15 n) (cut 5 10 n))
    else none

/-- The S syllables of major opcode 0x61. -/
def opS61 (n : Nat) : Option Instr :=
    if bits n 14 0 = 0 then some (.movsLo (cut 5 20 n) (cut 5 15 n))
    else if bits n 14 0 = 1 then some (.movsHi (cut 5 20 n) (cut 5 15 n))
    else if bits n 14 0 = 2 then some (.movsSeg (cut 5 20 n) (cut 5 15 n))
    else none

/-- The S syllables of major opcode 0x67. -/
def opS67 (n : Nat) : Option Instr :=
    if bits n 14 0 = 0 ∧ bits n 24 20 = 0 then some (.slotreap (cut 5 15 n))
    else if bits n 9 0 = 1 ∧ bits n 24 20 = 0 then some (.slotreapSave (cut 5 15 n) (cut 5 10 n))
    else none

/-- The V syllables of major opcode 0x01. -/
def opV01 (n : Nat) : Option Instr :=
    if bits n 4 0 = 0 then some (.vaddF (cut 1 24 n) (cut 4 20 n) (cut 4 16 n) (cut 4 12 n) (cut 4 8 n) (cut 3 5 n))
    else if bits n 4 0 = 1 then some (.vsubF (cut 1 24 n) (cut 4 20 n) (cut 4 16 n) (cut 4 12 n) (cut 4 8 n) (cut 3 5 n))
    else if bits n 4 0 = 2 then some (.vmulF (cut 1 24 n) (cut 4 20 n) (cut 4 16 n) (cut 4 12 n) (cut 4 8 n) (cut 3 5 n))
    else if bits n 4 0 = 3 then some (.vfma (cut 1 24 n) (cut 4 20 n) (cut 4 16 n) (cut 4 12 n) (cut 4 8 n) (cut 3 5 n))
    else if bits n 4 0 = 4 then some (.vfms (cut 1 24 n) (cut 4 20 n) (cut 4 16 n) (cut 4 12 n) (cut 4 8 n) (cut 3 5 n))
    else if bits n 7 0 = 5 then some (.vminF (cut 1 24 n) (cut 4 20 n) (cut 4 16 n) (cut 4 12 n) (cut 4 8 n))
    else if bits n 7 0 = 6 then some (.vmaxF (cut 1 24 n) (cut 4 20 n) (cut 4 16 n) (cut 4 12 n) (cut 4 8 n))
    else if bits n 11 0 = 7 then some (.vabsF (cut 1 24 n) (cut 4 20 n) (cut 4 16 n) (cut 4 12 n))
    else if bits n 11 0 = 8 then some (.vnegF (cut 1 24 n) (cut 4 20 n) (cut 4 16 n) (cut 4 12 n))
    else none

/-- The V syllables of major opcode 0x02. -/
def opV02 (n : Nat) : Option Instr :=
    if bits n 6 0 = 0 then some (.vaddI (cut 1 24 n) (cut 4 20 n) (cut 4 16 n) (cut 4 12 n) (cut 4 8 n) (cut 1 7 n))
    else if bits n 6 0 = 1 then some (.vsubI (cut 1 24 n) (cut 4 20 n) (cut 4 16 n) (cut 4 12 n) (cut 4 8 n) (cut 1 7 n))
    else if bits n 7 0 = 2 then some (.vmulI (cut 1 24 n) (cut 4 20 n) (cut 4 16 n) (cut 4 12 n) (cut 4 8 n))
    else if bits n 7 0 = 3 then some (.vmulh (cut 1 24 n) (cut 4 20 n) (cut 4 16 n) (cut 4 12 n) (cut 4 8 n))
    else if bits n 7 0 = 4 then some (.vminI (cut 1 24 n) (cut 4 20 n) (cut 4 16 n) (cut 4 12 n) (cut 4 8 n))
    else if bits n 7 0 = 5 then some (.vmaxI (cut 1 24 n) (cut 4 20 n) (cut 4 16 n) (cut 4 12 n) (cut 4 8 n))
    else if bits n 6 0 = 6 ∧ bits n 11 8 = 0 then some (.vabsI (cut 1 24 n) (cut 4 20 n) (cut 4 16 n) (cut 4 12 n) (cut 1 7 n))
    else if bits n 6 0 = 7 ∧ bits n 11 8 = 0 then some (.vnegI (cut 1 24 n) (cut 4 20 n) (cut 4 16 n) (cut 4 12 n) (cut 1 7 n))
    else if bits n 7 0 = 8 then some (.vand (cut 1 24 n) (cut 4 20 n) (cut 4 16 n) (cut 4 12 n) (cut 4 8 n))
    else if bits n 7 0 = 9 then some (.vor (cut 1 24 n) (cut 4 20 n) (cut 4 16 n) (cut 4 12 n) (cut 4 8 n))
    else if bits n 7 0 = 10 then some (.vxor (cut 1 24 n) (cut 4 20 n) (cut 4 16 n) (cut 4 12 n) (cut 4 8 n))
    else if bits n 6 0 = 11 then some (.vshl (cut 1 24 n) (cut 4 20 n) (cut 4 16 n) (cut 4 12 n) (cut 4 8 n) (cut 1 7 n))
    else if bits n 7 0 = 12 then some (.vshr (cut 1 24 n) (cut 4 20 n) (cut 4 16 n) (cut 4 12 n) (cut 4 8 n))
    else none

/-- The V syllables of major opcode 0x06. -/
def opV06 (n : Nat) : Option Instr :=
    if bits n 7 0 = 0 ∧ bits n 24 24 = 0 then some (.vqmx (cut 4 20 n) (cut 4 16 n) (cut 4 12 n) (cut 4 8 n))
    else if bits n 7 0 = 1 ∧ bits n 24 24 = 0 then some (.vdqmx (cut 4 20 n) (cut 4 16 n) (cut 4 12 n) (cut 4 8 n))
    else none

/-- The V syllables of major opcode 0x07. -/
def opV07 (n : Nat) : Option Instr :=
    if bits n 4 0 = 0 ∧ bits n 11 8 = 0 then some (.vrcp (cut 1 24 n) (cut 4 20 n) (cut 4 16 n) (cut 4 12 n) (cut 3 5 n))
    else if bits n 4 0 = 1 ∧ bits n 11 8 = 0 then some (.vrsq (cut 1 24 n) (cut 4 20 n) (cut 4 16 n) (cut 4 12 n) (cut 3 5 n))
    else if bits n 4 0 = 2 ∧ bits n 11 8 = 0 then some (.vexp2 (cut 1 24 n) (cut 4 20 n) (cut 4 16 n) (cut 4 12 n) (cut 3 5 n))
    else if bits n 4 0 = 3 ∧ bits n 11 8 = 0 then some (.vlog2 (cut 1 24 n) (cut 4 20 n) (cut 4 16 n) (cut 4 12 n) (cut 3 5 n))
    else if bits n 4 0 = 4 ∧ bits n 11 8 = 0 then some (.vsin (cut 1 24 n) (cut 4 20 n) (cut 4 16 n) (cut 4 12 n) (cut 3 5 n))
    else if bits n 4 0 = 5 ∧ bits n 11 8 = 0 then some (.vcos (cut 1 24 n) (cut 4 20 n) (cut 4 16 n) (cut 4 12 n) (cut 3 5 n))
    else if bits n 4 0 = 6 ∧ bits n 11 8 = 0 then some (.vtanh (cut 1 24 n) (cut 4 20 n) (cut 4 16 n) (cut 4 12 n) (cut 3 5 n))
    else none

/-- The V syllables of major opcode 0x08. -/
def opV08 (n : Nat) : Option Instr :=
    if bits n 11 0 = 0 then some (.vclz (cut 1 24 n) (cut 4 20 n) (cut 4 16 n) (cut 4 12 n))
    else if bits n 11 0 = 1 then some (.vctz (cut 1 24 n) (cut 4 20 n) (cut 4 16 n) (cut 4 12 n))
    else if bits n 11 0 = 2 then some (.vpopc (cut 1 24 n) (cut 4 20 n) (cut 4 16 n) (cut 4 12 n))
    else none

/-- The V syllables of major opcode 0x0A. -/
def opV0A (n : Nat) : Option Instr :=
    if bits n 10 0 = 0 then some (.vsplat (cut 1 24 n) (cut 4 20 n) (cut 4 16 n) (cut 5 11 n))
    else if bits n 5 0 = 1 then some (.vsplatSeq (cut 1 24 n) (cut 4 20 n) (cut 4 16 n) (cut 5 11 n) (cut 5 6 n))
    else none

/-- The V syllables of major opcode 0x0F. -/
def opV0F (n : Nat) : Option Instr :=
    if bits n 5 0 = 0 ∧ bits n 24 24 = 0 then some (.vins (cut 4 20 n) (cut 4 16 n) (cut 5 11 n) (cut 5 6 n))
    else if bits n 5 0 = 1 ∧ bits n 24 24 = 0 then some (.vext (cut 4 20 n) (cut 4 16 n) (cut 5 11 n) (cut 5 6 n))
    else none

/-- The V syllables of major opcode 0x24. -/
def opV24 (n : Nat) : Option Instr :=
    if bits n 9 0 = 0 ∧ bits n 20 15 = 0 then some (.tscl (cut 4 21 n) (cut 5 10 n))
    else if bits n 9 0 = 1 ∧ bits n 20 15 = 0 then some (.tsclSt (cut 4 21 n) (cut 5 10 n))
    else none

/-- The V syllables of major opcode 0x25. -/
def opV25 (n : Nat) : Option Instr :=
    if bits n 14 0 = 0 ∧ bits n 20 17 = 0 then some (.tmma (cut 4 21 n) (cut 2 15 n))
    else if bits n 14 2 = 1 then some (.tmmaW (cut 4 21 n) (cut 4 17 n) (cut 2 15 n) (cut 2 0 n))
    else none

/-- The V syllables of major opcode 0x26. -/
def opV26 (n : Nat) : Option Instr :=
    if bits n 14 0 = 0 ∧ bits n 24 17 = 0 then some (.tzero (cut 2 15 n))
    else if bits n 20 0 = 1 then some (.tzeroT (cut 4 21 n))
    else none

/-- The S syllable with bits `n`, by its major opcode (R99), function code and reserved fields. -/
def rawS (n : Nat) : Option Instr :=
  match n / 2 ^ 25 with
  | 0 =>
    if bits n 24 0 = 0 then some .nopS
    else none
  | 1 => opS01 n
  | 2 => some (.addImm (cut 5 20 n) (cut 5 15 n) (cut 15 0 n))
  | 3 => some (.mulImm (cut 5 20 n) (cut 5 15 n) (cut 15 0 n))
  | 4 => some (.andImm (cut 5 20 n) (cut 5 15 n) (cut 15 0 n))
  | 5 => some (.orImm (cut 5 20 n) (cut 5 15 n) (cut 15 0 n))
  | 6 => some (.xorImm (cut 5 20 n) (cut 5 15 n) (cut 15 0 n))
  | 7 =>
    if bits n 14 6 = 0 then some (.shlImm (cut 5 20 n) (cut 5 15 n) (cut 6 0 n))
    else none
  | 8 =>
    if bits n 14 6 = 0 then some (.shrImm (cut 5 20 n) (cut 5 15 n) (cut 6 0 n))
    else none
  | 9 =>
    if bits n 14 6 = 0 then some (.sarImm (cut 5 20 n) (cut 5 15 n) (cut 6 0 n))
    else none
  | 10 =>
    if bits n 14 6 = 0 then some (.rolImm (cut 5 20 n) (cut 5 15 n) (cut 6 0 n))
    else none
  | 11 => some (.rsub (cut 5 20 n) (cut 5 15 n) (cut 15 0 n))
  | 12 => some (.minIImm (cut 5 20 n) (cut 5 15 n) (cut 15 0 n))
  | 13 => some (.maxIImm (cut 5 20 n) (cut 5 15 n) (cut 15 0 n))
  | 14 => some (.minNImm (cut 5 20 n) (cut 5 15 n) (cut 15 0 n))
  | 15 => some (.maxNImm (cut 5 20 n) (cut 5 15 n) (cut 15 0 n))
  | 16 => some (.li (cut 5 20 n) (cut 20 0 n))
  | 17 => some (.lih (cut 5 20 n) (cut 20 0 n))
  | 18 => some (.lix (cut 5 20 n) (cut 20 0 n))
  | 19 =>
    if bits n 19 4 = 0 then some (.lit (cut 5 20 n) (cut 4 0 n))
    else none
  | 20 => opS14 n
  | 21 =>
    if bits n 5 0 = 0 then some (.setCc (cut 5 20 n) (cut 5 15 n) (cut 5 10 n) (cut 4 6 n))
    else none
  | 22 =>
    if bits n 8 0 = 0 then some (.cmpSkn (cut 4 21 n) (cut 2 19 n) (cut 5 14 n) (cut 5 9 n))
    else none
  | 23 => some (.cmpSknImm (cut 4 21 n) (cut 2 19 n) (cut 5 14 n) (cut 14 0 n))
  | 24 => some (.br (cut 25 0 n))
  | 25 => some (.call (cut 25 0 n))
  | 26 => opS1A n
  | 27 =>
    if bits n 14 0 = 0 ∧ bits n 24 20 = 0 then some (.endTask (cut 5 15 n))
    else none
  | 28 =>
    if bits n 9 0 = 0 then some (.spawn (cut 5 20 n) (cut 5 15 n) (cut 5 10 n))
    else none
  | 29 =>
    if bits n 9 0 = 0 then some (.launch (cut 5 20 n) (cut 5 15 n) (cut 5 10 n))
    else none
  | 30 =>
    if bits n 14 0 = 0 then some (.greplay (cut 5 20 n) (cut 5 15 n))
    else none
  | 32 => some (.ldI (cut 5 20 n) (cut 5 15 n) (cut 2 13 n) (cut 1 12 n) (cut 4 8 n) (cut 8 0 n))
  | 33 => some (.ldN (cut 5 20 n) (cut 5 15 n) (cut 2 13 n) (cut 1 12 n) (cut 4 8 n) (cut 8 0 n))
  | 34 => some (.st (cut 5 20 n) (cut 5 15 n) (cut 2 13 n) (cut 1 12 n) (cut 4 8 n) (cut 8 0 n))
  | 35 =>
    if bits n 2 0 = 0 then some (.ldxI (cut 5 20 n) (cut 5 15 n) (cut 2 13 n) (cut 1 12 n) (cut 4 8 n) (cut 5 3 n))
    else none
  | 36 =>
    if bits n 2 0 = 0 then some (.ldxN (cut 5 20 n) (cut 5 15 n) (cut 2 13 n) (cut 1 12 n) (cut 4 8 n) (cut 5 3 n))
    else none
  | 37 =>
    if bits n 2 0 = 0 then some (.stx (cut 5 20 n) (cut 5 15 n) (cut 2 13 n) (cut 1 12 n) (cut 4 8 n) (cut 5 3 n))
    else none
  | 38 =>
    if bits n 9 0 = 0 then some (.lkup (cut 5 20 n) (cut 5 15 n) (cut 5 10 n))
    else none
  | 39 =>
    if bits n 9 0 = 0 then some (.tagset (cut 5 20 n) (cut 5 15 n) (cut 5 10 n))
    else none
  | 40 =>
    if bits n 9 0 = 0 ∧ bits n 24 20 = 0 then some (.taginv (cut 5 15 n) (cut 5 10 n))
    else none
  | 41 =>
    if bits n 12 8 = 0 ∧ bits n 24 20 = 0 then some (.pfx (cut 5 15 n) (cut 2 13 n) (cut 8 0 n))
    else none
  | 42 =>
    if bits n 14 0 = 0 then some (.segld (cut 5 20 n) (cut 5 15 n))
    else none
  | 43 =>
    if bits n 14 0 = 0 then some (.segst (cut 5 20 n) (cut 5 15 n))
    else none
  | 44 =>
    if bits n 9 8 = 0 then some (.segnar (cut 5 20 n) (cut 5 15 n) (cut 5 10 n) (cut 8 0 n))
    else none
  | 48 => some (.amo (cut 5 20 n) (cut 5 15 n) (cut 5 10 n) (cut 4 6 n) (cut 1 5 n) (cut 5 0 n))
  | 49 =>
    if bits n 4 0 = 0 then some (.amocas (cut 5 20 n) (cut 5 15 n) (cut 5 10 n) (cut 4 6 n) (cut 1 5 n))
    else none
  | 50 =>
    if bits n 9 6 = 0 ∧ bits n 24 20 = 0 then some (.red (cut 5 15 n) (cut 5 10 n) (cut 1 5 n) (cut 5 0 n))
    else none
  | 51 => opS33 n
  | 52 =>
    if bits n 14 12 = 6 then some (.take (cut 5 20 n) (cut 5 15 n) (cut 4 8 n) (cut 8 0 n))
    else none
  | 53 =>
    if bits n 14 12 = 6 then some (.put (cut 5 20 n) (cut 5 15 n) (cut 4 8 n) (cut 8 0 n))
    else none
  | 54 => opS36 n
  | 55 => opS37 n
  | 56 =>
    if bits n 5 0 = 0 ∧ bits n 14 10 = 0 then some (.futnew (cut 5 20 n) (cut 5 15 n) (cut 4 6 n))
    else none
  | 57 =>
    if bits n 5 0 = 0 ∧ bits n 24 20 = 0 then some (.futset (cut 5 15 n) (cut 5 10 n) (cut 4 6 n))
    else none
  | 58 =>
    if bits n 5 0 = 0 ∧ bits n 14 10 = 0 then some (.futget (cut 5 20 n) (cut 5 15 n) (cut 4 6 n))
    else none
  | 59 =>
    if bits n 5 0 = 0 ∧ bits n 14 10 = 0 ∧ bits n 24 20 = 0 then some (.futdrop (cut 5 15 n) (cut 4 6 n))
    else none
  | 60 =>
    if bits n 5 0 = 0 ∧ bits n 24 20 = 0 then some (.barinit (cut 5 15 n) (cut 5 10 n) (cut 4 6 n))
    else none
  | 61 =>
    if bits n 5 0 = 0 then some (.arrive (cut 5 20 n) (cut 5 15 n) (cut 5 10 n) (cut 4 6 n))
    else none
  | 62 =>
    if bits n 5 0 = 0 then some (.waitb (cut 5 20 n) (cut 5 15 n) (cut 5 10 n) (cut 4 6 n))
    else none
  | 63 =>
    if bits n 5 0 = 0 then some (.waitl (cut 5 20 n) (cut 5 15 n) (cut 5 10 n) (cut 4 6 n))
    else none
  | 64 =>
    if bits n 9 5 = 0 then some (.cpy (cut 5 20 n) (cut 5 15 n) (cut 5 10 n) (cut 1 4 n) (cut 1 3 n) (cut 3 0 n))
    else none
  | 65 =>
    if bits n 9 5 = 0 then some (.cpys (cut 5 20 n) (cut 5 15 n) (cut 5 10 n) (cut 1 4 n) (cut 1 3 n) (cut 3 0 n))
    else none
  | 66 =>
    if bits n 9 4 = 0 then some (.cpym (cut 5 20 n) (cut 5 15 n) (cut 5 10 n) (cut 1 3 n) (cut 3 0 n))
    else none
  | 67 =>
    if bits n 9 1 = 0 ∧ bits n 24 20 = 0 then some (.landset (cut 5 15 n) (cut 5 10 n) (cut 1 0 n))
    else none
  | 72 =>
    if bits n 9 0 = 0 ∧ bits n 24 20 = 0 then some (.mdep (cut 5 15 n) (cut 5 10 n))
    else none
  | 73 =>
    if bits n 9 0 = 0 ∧ bits n 24 20 = 0 then some (.mdepx (cut 5 15 n) (cut 5 10 n))
    else none
  | 74 =>
    if bits n 9 0 = 0 then some (.msense (cut 5 20 n) (cut 5 15 n) (cut 5 10 n))
    else none
  | 75 =>
    if bits n 14 0 = 0 then some (.mread (cut 5 20 n) (cut 5 15 n))
    else none
  | 76 =>
    if bits n 14 0 = 0 then some (.mclr (cut 5 20 n) (cut 5 15 n))
    else none
  | 77 => opS4D n
  | 78 => opS4E n
  | 79 => opS4F n
  | 80 =>
    if bits n 9 0 = 0 then some (.dhash (cut 5 20 n) (cut 5 15 n) (cut 5 10 n))
    else none
  | 81 =>
    if bits n 5 0 = 0 then some (.dlook (cut 5 20 n) (cut 5 15 n) (cut 5 10 n) (cut 4 6 n))
    else none
  | 82 =>
    if bits n 5 0 = 0 then some (.dput (cut 5 20 n) (cut 5 15 n) (cut 5 10 n) (cut 4 6 n))
    else none
  | 83 =>
    if bits n 5 0 = 0 ∧ bits n 24 20 = 0 then some (.drel (cut 5 15 n) (cut 5 10 n) (cut 4 6 n))
    else none
  | 84 =>
    if bits n 5 0 = 0 then some (.dstat (cut 5 20 n) (cut 5 15 n) (cut 5 10 n) (cut 4 6 n))
    else none
  | 85 =>
    if bits n 5 0 = 0 ∧ bits n 24 20 = 0 then some (.dtouch (cut 5 15 n) (cut 5 10 n) (cut 4 6 n))
    else none
  | 88 =>
    if bits n 14 2 = 0 ∧ bits n 24 20 = 0 then some (.fcfg (cut 5 15 n) (cut 2 0 n))
    else none
  | 89 =>
    if bits n 5 2 = 0 then some (.fput (cut 5 20 n) (cut 5 15 n) (cut 5 10 n) (cut 4 6 n) (cut 2 0 n))
    else none
  | 90 =>
    if bits n 5 2 = 0 ∧ bits n 14 10 = 0 then some (.fread (cut 5 20 n) (cut 5 15 n) (cut 4 6 n) (cut 2 0 n))
    else none
  | 91 =>
    if bits n 5 2 = 0 ∧ bits n 14 10 = 0 then some (.fmerge (cut 5 20 n) (cut 5 15 n) (cut 4 6 n) (cut 2 0 n))
    else none
  | 92 =>
    if bits n 5 2 = 0 ∧ bits n 14 10 = 0 then some (.fsave (cut 5 20 n) (cut 5 15 n) (cut 4 6 n) (cut 2 0 n))
    else none
  | 93 =>
    if bits n 5 2 = 0 ∧ bits n 14 10 = 0 then some (.fload (cut 5 20 n) (cut 5 15 n) (cut 4 6 n) (cut 2 0 n))
    else none
  | 94 =>
    if bits n 24 2 = 0 then some (.fclr (cut 2 0 n))
    else none
  | 95 =>
    if bits n 5 2 = 0 ∧ bits n 19 10 = 0 then some (.fstat (cut 5 20 n) (cut 4 6 n) (cut 2 0 n))
    else none
  | 96 => opS60 n
  | 97 => opS61 n
  | 98 =>
    if bits n 14 0 = 0 then some (.claimv (cut 5 20 n) (cut 5 15 n))
    else none
  | 99 =>
    if bits n 14 0 = 0 then some (.claimt (cut 5 20 n) (cut 5 15 n))
    else none
  | 100 =>
    if bits n 24 0 = 0 then some .relv
    else none
  | 101 =>
    if bits n 14 0 = 0 ∧ bits n 24 20 = 0 then some (.relt (cut 5 15 n))
    else none
  | 102 =>
    if bits n 14 0 = 0 ∧ bits n 24 20 = 0 then some (.slotstart (cut 5 15 n))
    else none
  | 103 => opS67 n
  | 104 =>
    if bits n 14 0 = 0 then some (.slotown (cut 5 20 n) (cut 5 15 n))
    else none
  | 105 =>
    if bits n 14 10 = 0 ∧ bits n 24 20 = 0 then some (.trap (cut 5 15 n) (cut 10 0 n))
    else none
  | 106 =>
    if bits n 24 10 = 0 then some (.brk (cut 10 0 n))
    else none
  | 107 =>
    if bits n 9 6 = 0 ∧ bits n 24 20 = 0 then some (.trc (cut 5 15 n) (cut 5 10 n) (cut 6 0 n))
    else none
  | 108 =>
    if bits n 14 0 = 0 then some (.rdctr (cut 5 20 n) (cut 5 15 n))
    else none
  | 109 =>
    if bits n 14 0 = 0 ∧ bits n 24 20 = 0 then some (.taskres (cut 5 15 n))
    else none
  | 110 =>
    if bits n 14 0 = 0 ∧ bits n 24 20 = 0 then some (.taskkill (cut 5 15 n))
    else none
  | _ => none

/-- The V syllable with bits `n`, by its major opcode (R100), function code and reserved fields. -/
def rawV (n : Nat) : Option Instr :=
  match n / 2 ^ 25 with
  | 0 =>
    if bits n 24 0 = 0 then some .nopV
    else none
  | 1 => opV01 n
  | 2 => opV02 n
  | 3 =>
    if bits n 7 4 = 0 ∧ bits n 19 16 = 0 then some (.vcmp (cut 1 24 n) (cut 4 20 n) (cut 4 12 n) (cut 4 8 n) (cut 4 0 n))
    else none
  | 4 =>
    if bits n 7 0 = 0 ∧ bits n 24 20 = 0 then some (.vsel (cut 4 16 n) (cut 4 12 n) (cut 4 8 n))
    else none
  | 5 => some (.vcvt (cut 1 24 n) (cut 4 20 n) (cut 4 16 n) (cut 4 12 n) (cut 4 8 n) (cut 4 4 n) (cut 1 3 n) (cut 3 0 n))
  | 6 => opV06 n
  | 7 => opV07 n
  | 8 => opV08 n
  | 9 =>
    if bits n 7 0 = 0 ∧ bits n 23 20 = 0 then some (.vshuf (cut 1 24 n) (cut 4 16 n) (cut 4 12 n) (cut 4 8 n))
    else none
  | 10 => opV0A n
  | 11 =>
    if bits n 10 6 = 0 ∧ bits n 23 20 = 0 then some (.vvote (cut 1 24 n) (cut 4 16 n) (cut 5 11 n) (cut 6 0 n))
    else none
  | 12 =>
    if bits n 11 8 = 0 ∧ bits n 23 20 = 0 then some (.vmatch (cut 1 24 n) (cut 4 16 n) (cut 4 12 n) (cut 8 0 n))
    else none
  | 13 =>
    if bits n 10 4 = 0 then some (.vred (cut 1 24 n) (cut 4 20 n) (cut 4 16 n) (cut 5 11 n) (cut 4 0 n))
    else none
  | 14 =>
    if bits n 11 5 = 0 then some (.vscan (cut 1 24 n) (cut 4 20 n) (cut 4 16 n) (cut 4 12 n) (cut 1 4 n) (cut 4 0 n))
    else none
  | 15 => opV0F n
  | 16 =>
    if bits n 0 0 = 0 ∧ bits n 10 6 = 0 ∧ bits n 23 20 = 0 then some (.vld (cut 1 24 n) (cut 4 16 n) (cut 5 11 n) (cut 4 2 n) (cut 1 1 n))
    else none
  | 17 =>
    if bits n 0 0 = 0 ∧ bits n 10 6 = 0 ∧ bits n 23 20 = 0 then some (.vst (cut 1 24 n) (cut 4 16 n) (cut 5 11 n) (cut 4 2 n) (cut 1 1 n))
    else none
  | 18 =>
    if bits n 0 0 = 0 ∧ bits n 23 20 = 0 then some (.vlds (cut 1 24 n) (cut 4 16 n) (cut 5 11 n) (cut 5 6 n) (cut 4 2 n) (cut 1 1 n))
    else none
  | 19 =>
    if bits n 0 0 = 0 ∧ bits n 23 20 = 0 then some (.vsts (cut 1 24 n) (cut 4 16 n) (cut 5 11 n) (cut 5 6 n) (cut 4 2 n) (cut 1 1 n))
    else none
  | 20 =>
    if bits n 0 0 = 0 ∧ bits n 6 6 = 0 then some (.vgath (cut 1 24 n) (cut 4 20 n) (cut 4 16 n) (cut 5 11 n) (cut 4 7 n) (cut 4 2 n) (cut 1 1 n))
    else none
  | 21 =>
    if bits n 0 0 = 0 ∧ bits n 6 6 = 0 then some (.vscat (cut 1 24 n) (cut 4 20 n) (cut 4 16 n) (cut 5 11 n) (cut 4 7 n) (cut 4 2 n) (cut 1 1 n))
    else none
  | 32 =>
    if bits n 4 0 = 0 ∧ bits n 20 15 = 0 then some (.tld (cut 4 21 n) (cut 5 10 n) (cut 5 5 n))
    else none
  | 33 =>
    if bits n 4 0 = 0 ∧ bits n 20 15 = 0 then some (.tldx (cut 4 21 n) (cut 5 10 n) (cut 5 5 n))
    else none
  | 34 =>
    if bits n 4 0 = 0 ∧ bits n 20 15 = 0 then some (.tst (cut 4 21 n) (cut 5 10 n) (cut 5 5 n))
    else none
  | 35 =>
    if bits n 14 0 = 0 ∧ bits n 24 21 = 0 then some (.tlw (cut 4 17 n) (cut 2 15 n))
    else none
  | 36 => opV24 n
  | 37 => opV25 n
  | 38 => opV26 n
  | 39 =>
    if bits n 24 17 = 0 then some (.tdrain (cut 2 15 n) (cut 5 10 n) (cut 5 5 n) (cut 1 4 n) (cut 4 0 n))
    else none
  | 40 =>
    if bits n 3 1 = 0 ∧ bits n 14 5 = 0 ∧ bits n 20 17 = 0 then some (.tdrainByp (cut 4 21 n) (cut 2 15 n) (cut 1 4 n) (cut 1 0 n))
    else none
  | _ => none

/-- The S major opcodes of R99 that have an instruction. -/
def opcodeS (op : Nat) : Bool := op = 0 || op = 1 || op = 2 || op = 3 || op = 4 || op = 5 || op = 6 || op = 7 || op = 8 || op = 9 || op = 10 || op = 11 || op = 12 || op = 13 || op = 14 || op = 15 || op = 16 || op = 17 || op = 18 || op = 19 || op = 20 || op = 21 || op = 22 || op = 23 || op = 24 || op = 25 || op = 26 || op = 27 || op = 28 || op = 29 || op = 30 || op = 32 || op = 33 || op = 34 || op = 35 || op = 36 || op = 37 || op = 38 || op = 39 || op = 40 || op = 41 || op = 42 || op = 43 || op = 44 || op = 48 || op = 49 || op = 50 || op = 51 || op = 52 || op = 53 || op = 54 || op = 55 || op = 56 || op = 57 || op = 58 || op = 59 || op = 60 || op = 61 || op = 62 || op = 63 || op = 64 || op = 65 || op = 66 || op = 67 || op = 72 || op = 73 || op = 74 || op = 75 || op = 76 || op = 77 || op = 78 || op = 79 || op = 80 || op = 81 || op = 82 || op = 83 || op = 84 || op = 85 || op = 88 || op = 89 || op = 90 || op = 91 || op = 92 || op = 93 || op = 94 || op = 95 || op = 96 || op = 97 || op = 98 || op = 99 || op = 100 || op = 101 || op = 102 || op = 103 || op = 104 || op = 105 || op = 106 || op = 107 || op = 108 || op = 109 || op = 110

/-- The V major opcodes of R100 that have an instruction. -/
def opcodeV (op : Nat) : Bool := op = 0 || op = 1 || op = 2 || op = 3 || op = 4 || op = 5 || op = 6 || op = 7 || op = 8 || op = 9 || op = 10 || op = 11 || op = 12 || op = 13 || op = 14 || op = 15 || op = 16 || op = 17 || op = 18 || op = 19 || op = 20 || op = 21 || op = 32 || op = 33 || op = 34 || op = 35 || op = 36 || op = 37 || op = 38 || op = 39 || op = 40

/-- The check of the codes in a read syllable's fields. -/
def checked (op : Nat) (known : Bool) : Option Instr → Except Reject Instr
  | some i => if i.wf then .ok i else .error (.fieldCode op)
  | none => .error (if known then .functionOrReserved op else .majorOpcode op)

/-- The instruction an S syllable holds, or why it holds none. -/
def decodeS (w : Lane) : Except Reject Instr := checked (w.toNat / 2 ^ 25) (opcodeS (w.toNat / 2 ^ 25)) (rawS w.toNat)

/-- The instruction a V syllable holds, or why it holds none. -/
def decodeV (w : Lane) : Except Reject Instr := checked (w.toNat / 2 ^ 25) (opcodeV (w.toNat / 2 ^ 25)) (rawV w.toNat)

/-- Both syllables of a bundle (R88, R101): S is bits 31 to 0, V bits 63 to 32. -/
def decodeBundle (w : Word) : Except Reject (Instr × Instr) :=
  match decodeS (w.extractLsb' 0 32), decodeV (w.extractLsb' 32 32) with
  | .ok i, .ok j => .ok (i, j)
  | .error e, _ => .error e
  | _, .error e => .error e

/-- The slot an instruction stands in. -/
def Instr.slot : Instr → Slot
  | .nopS => .s
  | .add _ _ _ => .s
  | .sub _ _ _ => .s
  | .mul _ _ _ => .s
  | .mulhI _ _ _ => .s
  | .mulhN _ _ _ => .s
  | .divI _ _ _ => .s
  | .divN _ _ _ => .s
  | .remI _ _ _ => .s
  | .remN _ _ _ => .s
  | .and _ _ _ => .s
  | .or _ _ _ => .s
  | .xor _ _ _ => .s
  | .andn _ _ _ => .s
  | .shl _ _ _ => .s
  | .shr _ _ _ => .s
  | .sar _ _ _ => .s
  | .rol _ _ _ => .s
  | .ror _ _ _ => .s
  | .minI _ _ _ => .s
  | .maxI _ _ _ => .s
  | .minN _ _ _ => .s
  | .maxN _ _ _ => .s
  | .clz _ _ => .s
  | .ctz _ _ => .s
  | .popc _ _ => .s
  | .brev _ _ => .s
  | .bswap _ _ => .s
  | .addImm _ _ _ => .s
  | .mulImm _ _ _ => .s
  | .andImm _ _ _ => .s
  | .orImm _ _ _ => .s
  | .xorImm _ _ _ => .s
  | .shlImm _ _ _ => .s
  | .shrImm _ _ _ => .s
  | .sarImm _ _ _ => .s
  | .rolImm _ _ _ => .s
  | .rsub _ _ _ => .s
  | .minIImm _ _ _ => .s
  | .maxIImm _ _ _ => .s
  | .minNImm _ _ _ => .s
  | .maxNImm _ _ _ => .s
  | .li _ _ => .s
  | .lih _ _ => .s
  | .lix _ _ => .s
  | .lit _ _ => .s
  | .extN _ _ _ _ => .s
  | .extI _ _ _ _ => .s
  | .ins _ _ _ _ => .s
  | .dep _ _ _ _ => .s
  | .setCc _ _ _ _ => .s
  | .cmpSkn _ _ _ _ => .s
  | .cmpSknImm _ _ _ _ => .s
  | .br _ => .s
  | .call _ => .s
  | .jr _ => .s
  | .callr _ => .s
  | .ret => .s
  | .endTask _ => .s
  | .spawn _ _ _ => .s
  | .launch _ _ _ => .s
  | .greplay _ _ => .s
  | .ldI _ _ _ _ _ _ => .s
  | .ldN _ _ _ _ _ _ => .s
  | .st _ _ _ _ _ _ => .s
  | .ldxI _ _ _ _ _ _ => .s
  | .ldxN _ _ _ _ _ _ => .s
  | .stx _ _ _ _ _ _ => .s
  | .lkup _ _ _ => .s
  | .tagset _ _ _ => .s
  | .taginv _ _ => .s
  | .pfx _ _ _ => .s
  | .segld _ _ => .s
  | .segst _ _ => .s
  | .segnar _ _ _ _ => .s
  | .amo _ _ _ _ _ _ => .s
  | .amocas _ _ _ _ _ => .s
  | .red _ _ _ _ => .s
  | .fence _ => .s
  | .qfence _ => .s
  | .qfenceOwn _ _ => .s
  | .take _ _ _ _ => .s
  | .put _ _ _ _ => .s
  | .fereadD _ _ _ _ => .s
  | .fereadProbe _ _ _ _ => .s
  | .fesetEmpty _ _ _ => .s
  | .fesetFull _ _ _ _ => .s
  | .futnew _ _ _ => .s
  | .futset _ _ _ => .s
  | .futget _ _ _ => .s
  | .futdrop _ _ => .s
  | .barinit _ _ _ => .s
  | .arrive _ _ _ _ => .s
  | .waitb _ _ _ _ => .s
  | .waitl _ _ _ _ => .s
  | .cpy _ _ _ _ _ _ => .s
  | .cpys _ _ _ _ _ _ => .s
  | .cpym _ _ _ _ _ => .s
  | .landset _ _ _ => .s
  | .mdep _ _ => .s
  | .mdepx _ _ => .s
  | .msense _ _ _ => .s
  | .mread _ _ => .s
  | .mclr _ _ => .s
  | .mwait _ => .s
  | .mwaitUntil _ _ => .s
  | .ebb _ => .s
  | .ebbPeriod _ => .s
  | .mfield _ _ => .s
  | .mfieldRd _ _ => .s
  | .dhash _ _ _ => .s
  | .dlook _ _ _ _ => .s
  | .dput _ _ _ _ => .s
  | .drel _ _ _ => .s
  | .dstat _ _ _ _ => .s
  | .dtouch _ _ _ => .s
  | .fcfg _ _ => .s
  | .fput _ _ _ _ _ => .s
  | .fread _ _ _ _ => .s
  | .fmerge _ _ _ _ => .s
  | .fsave _ _ _ _ => .s
  | .fload _ _ _ _ => .s
  | .fclr _ => .s
  | .fstat _ _ _ => .s
  | .movcRead _ _ => .s
  | .movcWrite _ _ => .s
  | .movsLo _ _ => .s
  | .movsHi _ _ => .s
  | .movsSeg _ _ => .s
  | .claimv _ _ => .s
  | .claimt _ _ => .s
  | .relv => .s
  | .relt _ => .s
  | .slotstart _ => .s
  | .slotreap _ => .s
  | .slotreapSave _ _ => .s
  | .slotown _ _ => .s
  | .trap _ _ => .s
  | .brk _ => .s
  | .trc _ _ _ => .s
  | .rdctr _ _ => .s
  | .taskres _ => .s
  | .taskkill _ => .s
  | .nopV => .v
  | .vaddF _ _ _ _ _ _ => .v
  | .vsubF _ _ _ _ _ _ => .v
  | .vmulF _ _ _ _ _ _ => .v
  | .vfma _ _ _ _ _ _ => .v
  | .vfms _ _ _ _ _ _ => .v
  | .vminF _ _ _ _ _ => .v
  | .vmaxF _ _ _ _ _ => .v
  | .vabsF _ _ _ _ => .v
  | .vnegF _ _ _ _ => .v
  | .vaddI _ _ _ _ _ _ => .v
  | .vsubI _ _ _ _ _ _ => .v
  | .vmulI _ _ _ _ _ => .v
  | .vmulh _ _ _ _ _ => .v
  | .vminI _ _ _ _ _ => .v
  | .vmaxI _ _ _ _ _ => .v
  | .vabsI _ _ _ _ _ => .v
  | .vnegI _ _ _ _ _ => .v
  | .vand _ _ _ _ _ => .v
  | .vor _ _ _ _ _ => .v
  | .vxor _ _ _ _ _ => .v
  | .vshl _ _ _ _ _ _ => .v
  | .vshr _ _ _ _ _ => .v
  | .vcmp _ _ _ _ _ => .v
  | .vsel _ _ _ => .v
  | .vcvt _ _ _ _ _ _ _ _ => .v
  | .vqmx _ _ _ _ => .v
  | .vdqmx _ _ _ _ => .v
  | .vrcp _ _ _ _ _ => .v
  | .vrsq _ _ _ _ _ => .v
  | .vexp2 _ _ _ _ _ => .v
  | .vlog2 _ _ _ _ _ => .v
  | .vsin _ _ _ _ _ => .v
  | .vcos _ _ _ _ _ => .v
  | .vtanh _ _ _ _ _ => .v
  | .vclz _ _ _ _ => .v
  | .vctz _ _ _ _ => .v
  | .vpopc _ _ _ _ => .v
  | .vshuf _ _ _ _ => .v
  | .vsplat _ _ _ _ => .v
  | .vsplatSeq _ _ _ _ _ => .v
  | .vvote _ _ _ _ => .v
  | .vmatch _ _ _ _ => .v
  | .vred _ _ _ _ _ => .v
  | .vscan _ _ _ _ _ _ => .v
  | .vins _ _ _ _ => .v
  | .vext _ _ _ _ => .v
  | .vld _ _ _ _ _ => .v
  | .vst _ _ _ _ _ => .v
  | .vlds _ _ _ _ _ _ => .v
  | .vsts _ _ _ _ _ _ => .v
  | .vgath _ _ _ _ _ _ _ => .v
  | .vscat _ _ _ _ _ _ _ => .v
  | .tld _ _ _ => .v
  | .tldx _ _ _ => .v
  | .tst _ _ _ => .v
  | .tlw _ _ => .v
  | .tscl _ _ => .v
  | .tsclSt _ _ => .v
  | .tmma _ _ => .v
  | .tmmaW _ _ _ _ => .v
  | .tzero _ => .v
  | .tzeroT _ => .v
  | .tdrain _ _ _ _ _ => .v
  | .tdrainByp _ _ _ _ => .v
  | .issueCycle _ => .event
  | .rnTileGiveUp _ => .event
  | .headerWalk _ => .event
  | .replyArrival _ => .event
  | .relaxedLoadData _ _ => .event
  | .relaxedAcknowledgement _ _ => .event
  | .relaxedFaultReply _ _ _ _ => .event
  | .reductionFaultReply _ _ _ => .event
  | .remoteUpdate _ _ => .event
  | .stationWake _ _ => .event
  | .claimGrant _ => .event
  | .pageWalk _ _ => .event
  | .wakeReissue _ => .event
  | .wakeRefuse _ _ => .event
  | .lendEvent _ => .event
  | .migrationArrival _ => .event
  | .migrationResend _ => .event
  | .slotEvent _ => .event
  | .rotationBoundary _ => .event
  | .hostLaunchCas _ _ _ _ => .event
  | .hostWindowMisuse => .event
  | .hostWindowOther _ => .event
  | .misuseClear => .event
  | .mboxGo => .event
  | .apertureRequest _ _ _ _ => .event
  | .hostRegisterWrite _ _ => .event
  | .launchIntake _ _ => .event
  | .intakeReadRetry _ _ => .event
  | .leaderDeltaLookup _ => .event
  | .chunkRequest _ _ => .event
  | .grantNotice _ _ _ => .event
  | .grantAcknowledgement _ _ _ => .event
  | .grantCommit _ _ => .event
  | .chunkHandout _ _ => .event
  | .chunkCompletionReport _ _ => .event
  | .heartbeat _ => .event
  | .wingLost _ _ => .event
  | .lossDeclaration _ _ => .event
  | .leaderElection _ => .event
  | .launchCompletion _ => .event
  | .graphNodeComplete _ _ _ => .event
  | .patchApply _ => .event
  | .copyChunk _ _ => .event
  | .tileStep _ => .event
  | .sluiceSwitch _ _ _ => .event
  | .combinedReplySplit _ _ _ => .event
  | .meshHop _ _ => .event
  | .starvationToken _ _ => .event
  | .linkRetrain _ => .event
  | .linkRetrainTimeout _ => .event
  | .esliaFlitError _ _ => .event
  | .reroute => .event
  | .requestTimeout _ => .event
  | .counterTick => .event
  | .ebbInstant => .event
  | .markSweepWord _ _ => .event
  | .incChange _ _ => .event
  | .syncMessage _ _ _ => .event
  | .timeSourceLoss => .event
  | .deltaWithdrawal _ => .event
  | .keeperStep _ => .event
  | .frontStorageError _ _ => .event
  | .faultHandover _ => .event
  | .localStoreUncorrectable _ _ => .event
  | .gangStop _ => .event
  | .imageWrite _ => .event
  | .claimReestablish _ => .event
  | .debugResume _ => .event
  | .stopTableWrite _ _ _ _ => .event
  | .traceAppend _ _ _ _ _ => .event
  | .invalidateTranslations _ _ => .event
  | .preempt _ _ _ _ => .event
  | .release _ _ _ => .event
  | .moveImages _ _ => .event
  | .hallService _ _ => .event
  | .coreInService _ _ => .event
  | .retireStack _ => .event
  | .recalibrateLink _ => .event
  | .halfRetrainTimeout _ _ => .event
  | .setTraceRing _ _ _ => .event
  | .isolatePeer _ => .event
  | .startHearths _ _ _ => .event
  | .setStatePool _ _ _ => .event
  | .advanceTraceRing _ _ => .event
  | .peerDiscovery _ _ => .event
  | .reset => .event
  | .boot _ _ => .event
  | .runtimeUpdate _ _ => .event
  | .updateConfirmTimeout => .event
  | .attestationRequest _ => .event
  | .securityAlarm _ => .event
  | .crashDump _ => .event
  | .frozenContext _ => .event
  | .dumpHeartbeat _ => .event
  | .watchdogTakeover _ => .event
  | .setEbbExponent _ => .event
  | .setHouseCounter _ => .event
  | .setTranslationRoot _ _ => .event
  | .scopeTableWrite => .event
  | .occupancyRegionWrite => .event
  | .clearCoreCounters _ => .event

/-- The bits of an S syllable (R96). -/
def encodeS : Instr → Option Nat
  | .nopS => some (0x00000000)
  | .add d a b => some (0x02000000 + d.toNat * 0x100000 + a.toNat * 0x8000 + b.toNat * 0x400)
  | .sub d a b => some (0x02000001 + d.toNat * 0x100000 + a.toNat * 0x8000 + b.toNat * 0x400)
  | .mul d a b => some (0x02000002 + d.toNat * 0x100000 + a.toNat * 0x8000 + b.toNat * 0x400)
  | .mulhI d a b => some (0x02000003 + d.toNat * 0x100000 + a.toNat * 0x8000 + b.toNat * 0x400)
  | .mulhN d a b => some (0x02000004 + d.toNat * 0x100000 + a.toNat * 0x8000 + b.toNat * 0x400)
  | .divI d a b => some (0x02000005 + d.toNat * 0x100000 + a.toNat * 0x8000 + b.toNat * 0x400)
  | .divN d a b => some (0x02000006 + d.toNat * 0x100000 + a.toNat * 0x8000 + b.toNat * 0x400)
  | .remI d a b => some (0x02000007 + d.toNat * 0x100000 + a.toNat * 0x8000 + b.toNat * 0x400)
  | .remN d a b => some (0x02000008 + d.toNat * 0x100000 + a.toNat * 0x8000 + b.toNat * 0x400)
  | .and d a b => some (0x02000010 + d.toNat * 0x100000 + a.toNat * 0x8000 + b.toNat * 0x400)
  | .or d a b => some (0x02000011 + d.toNat * 0x100000 + a.toNat * 0x8000 + b.toNat * 0x400)
  | .xor d a b => some (0x02000012 + d.toNat * 0x100000 + a.toNat * 0x8000 + b.toNat * 0x400)
  | .andn d a b => some (0x02000013 + d.toNat * 0x100000 + a.toNat * 0x8000 + b.toNat * 0x400)
  | .shl d a b => some (0x02000014 + d.toNat * 0x100000 + a.toNat * 0x8000 + b.toNat * 0x400)
  | .shr d a b => some (0x02000015 + d.toNat * 0x100000 + a.toNat * 0x8000 + b.toNat * 0x400)
  | .sar d a b => some (0x02000016 + d.toNat * 0x100000 + a.toNat * 0x8000 + b.toNat * 0x400)
  | .rol d a b => some (0x02000017 + d.toNat * 0x100000 + a.toNat * 0x8000 + b.toNat * 0x400)
  | .ror d a b => some (0x02000018 + d.toNat * 0x100000 + a.toNat * 0x8000 + b.toNat * 0x400)
  | .minI d a b => some (0x02000020 + d.toNat * 0x100000 + a.toNat * 0x8000 + b.toNat * 0x400)
  | .maxI d a b => some (0x02000021 + d.toNat * 0x100000 + a.toNat * 0x8000 + b.toNat * 0x400)
  | .minN d a b => some (0x02000022 + d.toNat * 0x100000 + a.toNat * 0x8000 + b.toNat * 0x400)
  | .maxN d a b => some (0x02000023 + d.toNat * 0x100000 + a.toNat * 0x8000 + b.toNat * 0x400)
  | .clz d a => some (0x02000030 + d.toNat * 0x100000 + a.toNat * 0x8000)
  | .ctz d a => some (0x02000031 + d.toNat * 0x100000 + a.toNat * 0x8000)
  | .popc d a => some (0x02000032 + d.toNat * 0x100000 + a.toNat * 0x8000)
  | .brev d a => some (0x02000033 + d.toNat * 0x100000 + a.toNat * 0x8000)
  | .bswap d a => some (0x02000034 + d.toNat * 0x100000 + a.toNat * 0x8000)
  | .addImm d a i => some (0x04000000 + d.toNat * 0x100000 + a.toNat * 0x8000 + i.toNat)
  | .mulImm d a i => some (0x06000000 + d.toNat * 0x100000 + a.toNat * 0x8000 + i.toNat)
  | .andImm d a i => some (0x08000000 + d.toNat * 0x100000 + a.toNat * 0x8000 + i.toNat)
  | .orImm d a i => some (0x0A000000 + d.toNat * 0x100000 + a.toNat * 0x8000 + i.toNat)
  | .xorImm d a i => some (0x0C000000 + d.toNat * 0x100000 + a.toNat * 0x8000 + i.toNat)
  | .shlImm d a n => some (0x0E000000 + d.toNat * 0x100000 + a.toNat * 0x8000 + n.toNat)
  | .shrImm d a n => some (0x10000000 + d.toNat * 0x100000 + a.toNat * 0x8000 + n.toNat)
  | .sarImm d a n => some (0x12000000 + d.toNat * 0x100000 + a.toNat * 0x8000 + n.toNat)
  | .rolImm d a n => some (0x14000000 + d.toNat * 0x100000 + a.toNat * 0x8000 + n.toNat)
  | .rsub d a i => some (0x16000000 + d.toNat * 0x100000 + a.toNat * 0x8000 + i.toNat)
  | .minIImm d a i => some (0x18000000 + d.toNat * 0x100000 + a.toNat * 0x8000 + i.toNat)
  | .maxIImm d a i => some (0x1A000000 + d.toNat * 0x100000 + a.toNat * 0x8000 + i.toNat)
  | .minNImm d a i => some (0x1C000000 + d.toNat * 0x100000 + a.toNat * 0x8000 + i.toNat)
  | .maxNImm d a i => some (0x1E000000 + d.toNat * 0x100000 + a.toNat * 0x8000 + i.toNat)
  | .li d i => some (0x20000000 + d.toNat * 0x100000 + i.toNat)
  | .lih d i => some (0x22000000 + d.toNat * 0x100000 + i.toNat)
  | .lix d i => some (0x24000000 + d.toNat * 0x100000 + i.toNat)
  | .lit d i => some (0x26000000 + d.toNat * 0x100000 + i.toNat)
  | .extN d a p w => some (0x28000000 + d.toNat * 0x100000 + a.toNat * 0x8000 + p.toNat * 0x200 + w.toNat * 0x8)
  | .extI d a p w => some (0x28000001 + d.toNat * 0x100000 + a.toNat * 0x8000 + p.toNat * 0x200 + w.toNat * 0x8)
  | .ins d a p w => some (0x28000002 + d.toNat * 0x100000 + a.toNat * 0x8000 + p.toNat * 0x200 + w.toNat * 0x8)
  | .dep d a p w => some (0x28000003 + d.toNat * 0x100000 + a.toNat * 0x8000 + p.toNat * 0x200 + w.toNat * 0x8)
  | .setCc d a b c => some (0x2A000000 + d.toNat * 0x100000 + a.toNat * 0x8000 + b.toNat * 0x400 + c.toNat * 0x40)
  | .cmpSkn c k a b => some (0x2C000000 + c.toNat * 0x200000 + k.toNat * 0x80000 + a.toNat * 0x4000 + b.toNat * 0x200)
  | .cmpSknImm c k a i => some (0x2E000000 + c.toNat * 0x200000 + k.toNat * 0x80000 + a.toNat * 0x4000 + i.toNat)
  | .br o => some (0x30000000 + o.toNat)
  | .call o => some (0x32000000 + o.toNat)
  | .jr a => some (0x34000000 + a.toNat * 0x8000)
  | .callr a => some (0x34000001 + a.toNat * 0x8000)
  | .ret => some (0x34000002)
  | .endTask a => some (0x36000000 + a.toNat * 0x8000)
  | .spawn d a b => some (0x38000000 + d.toNat * 0x100000 + a.toNat * 0x8000 + b.toNat * 0x400)
  | .launch d a b => some (0x3A000000 + d.toNat * 0x100000 + a.toNat * 0x8000 + b.toNat * 0x400)
  | .greplay d a => some (0x3C000000 + d.toNat * 0x100000 + a.toNat * 0x8000)
  | .ldI d a z r s i => some (0x40000000 + d.toNat * 0x100000 + a.toNat * 0x8000 + z.toNat * 0x2000 + r.toNat * 0x1000 + s.toNat * 0x100 + i.toNat)
  | .ldN d a z r s i => some (0x42000000 + d.toNat * 0x100000 + a.toNat * 0x8000 + z.toNat * 0x2000 + r.toNat * 0x1000 + s.toNat * 0x100 + i.toNat)
  | .st d a z r s i => some (0x44000000 + d.toNat * 0x100000 + a.toNat * 0x8000 + z.toNat * 0x2000 + r.toNat * 0x1000 + s.toNat * 0x100 + i.toNat)
  | .ldxI d a z r s x => some (0x46000000 + d.toNat * 0x100000 + a.toNat * 0x8000 + z.toNat * 0x2000 + r.toNat * 0x1000 + s.toNat * 0x100 + x.toNat * 0x8)
  | .ldxN d a z r s x => some (0x48000000 + d.toNat * 0x100000 + a.toNat * 0x8000 + z.toNat * 0x2000 + r.toNat * 0x1000 + s.toNat * 0x100 + x.toNat * 0x8)
  | .stx d a z r s x => some (0x4A000000 + d.toNat * 0x100000 + a.toNat * 0x8000 + z.toNat * 0x2000 + r.toNat * 0x1000 + s.toNat * 0x100 + x.toNat * 0x8)
  | .lkup d a b => some (0x4C000000 + d.toNat * 0x100000 + a.toNat * 0x8000 + b.toNat * 0x400)
  | .tagset d a b => some (0x4E000000 + d.toNat * 0x100000 + a.toNat * 0x8000 + b.toNat * 0x400)
  | .taginv a b => some (0x50000000 + a.toNat * 0x8000 + b.toNat * 0x400)
  | .pfx a z i => some (0x52000000 + a.toNat * 0x8000 + z.toNat * 0x2000 + i.toNat)
  | .segld d a => some (0x54000000 + d.toNat * 0x100000 + a.toNat * 0x8000)
  | .segst d a => some (0x56000000 + d.toNat * 0x100000 + a.toNat * 0x8000)
  | .segnar d a b r => some (0x58000000 + d.toNat * 0x100000 + a.toNat * 0x8000 + b.toNat * 0x400 + r.toNat)
  | .amo d a b s z o => some (0x60000000 + d.toNat * 0x100000 + a.toNat * 0x8000 + b.toNat * 0x400 + s.toNat * 0x40 + z.toNat * 0x20 + o.toNat)
  | .amocas d a b s z => some (0x62000000 + d.toNat * 0x100000 + a.toNat * 0x8000 + b.toNat * 0x400 + s.toNat * 0x40 + z.toNat * 0x20)
  | .red a b z o => some (0x64000000 + a.toNat * 0x8000 + b.toNat * 0x400 + z.toNat * 0x20 + o.toNat)
  | .fence s => some (0x66000000 + s.toNat)
  | .qfence a => some (0x66000200 + a.toNat * 0x8000)
  | .qfenceOwn a s => some (0x66000300 + a.toNat * 0x8000 + s.toNat)
  | .take d a s i => some (0x68006000 + d.toNat * 0x100000 + a.toNat * 0x8000 + s.toNat * 0x100 + i.toNat)
  | .put d a s i => some (0x6A006000 + d.toNat * 0x100000 + a.toNat * 0x8000 + s.toNat * 0x100 + i.toNat)
  | .fereadD d a s i => some (0x6C006000 + d.toNat * 0x100000 + a.toNat * 0x8000 + s.toNat * 0x100 + i.toNat)
  | .fereadProbe d a s i => some (0x6C000000 + d.toNat * 0x100000 + a.toNat * 0x8000 + s.toNat * 0x100 + i.toNat)
  | .fesetEmpty a s i => some (0x6E000000 + a.toNat * 0x8000 + s.toNat * 0x100 + i.toNat)
  | .fesetFull d a s i => some (0x6E002000 + d.toNat * 0x100000 + a.toNat * 0x8000 + s.toNat * 0x100 + i.toNat)
  | .futnew d a s => some (0x70000000 + d.toNat * 0x100000 + a.toNat * 0x8000 + s.toNat * 0x40)
  | .futset a b s => some (0x72000000 + a.toNat * 0x8000 + b.toNat * 0x400 + s.toNat * 0x40)
  | .futget d a s => some (0x74000000 + d.toNat * 0x100000 + a.toNat * 0x8000 + s.toNat * 0x40)
  | .futdrop a s => some (0x76000000 + a.toNat * 0x8000 + s.toNat * 0x40)
  | .barinit a b s => some (0x78000000 + a.toNat * 0x8000 + b.toNat * 0x400 + s.toNat * 0x40)
  | .arrive d a b s => some (0x7A000000 + d.toNat * 0x100000 + a.toNat * 0x8000 + b.toNat * 0x400 + s.toNat * 0x40)
  | .waitb d a b s => some (0x7C000000 + d.toNat * 0x100000 + a.toNat * 0x8000 + b.toNat * 0x400 + s.toNat * 0x40)
  | .waitl d a b s => some (0x7E000000 + d.toNat * 0x100000 + a.toNat * 0x8000 + b.toNat * 0x400 + s.toNat * 0x40)
  | .cpy d a b e v q => some (0x80000000 + d.toNat * 0x100000 + a.toNat * 0x8000 + b.toNat * 0x400 + e.toNat * 0x10 + v.toNat * 0x8 + q.toNat)
  | .cpys d a b e v q => some (0x82000000 + d.toNat * 0x100000 + a.toNat * 0x8000 + b.toNat * 0x400 + e.toNat * 0x10 + v.toNat * 0x8 + q.toNat)
  | .cpym d a b v q => some (0x84000000 + d.toNat * 0x100000 + a.toNat * 0x8000 + b.toNat * 0x400 + v.toNat * 0x8 + q.toNat)
  | .landset a b n => some (0x86000000 + a.toNat * 0x8000 + b.toNat * 0x400 + n.toNat)
  | .mdep a b => some (0x90000000 + a.toNat * 0x8000 + b.toNat * 0x400)
  | .mdepx a b => some (0x92000000 + a.toNat * 0x8000 + b.toNat * 0x400)
  | .msense d a b => some (0x94000000 + d.toNat * 0x100000 + a.toNat * 0x8000 + b.toNat * 0x400)
  | .mread d a => some (0x96000000 + d.toNat * 0x100000 + a.toNat * 0x8000)
  | .mclr d a => some (0x98000000 + d.toNat * 0x100000 + a.toNat * 0x8000)
  | .mwait d => some (0x9A000000 + d.toNat * 0x100000)
  | .mwaitUntil d a => some (0x9A000001 + d.toNat * 0x100000 + a.toNat * 0x8000)
  | .ebb d => some (0x9C000000 + d.toNat * 0x100000)
  | .ebbPeriod d => some (0x9C000001 + d.toNat * 0x100000)
  | .mfield a b => some (0x9E000000 + a.toNat * 0x8000 + b.toNat * 0x400)
  | .mfieldRd d a => some (0x9E000001 + d.toNat * 0x100000 + a.toNat * 0x8000)
  | .dhash d a b => some (0xA0000000 + d.toNat * 0x100000 + a.toNat * 0x8000 + b.toNat * 0x400)
  | .dlook d a b s => some (0xA2000000 + d.toNat * 0x100000 + a.toNat * 0x8000 + b.toNat * 0x400 + s.toNat * 0x40)
  | .dput d a b s => some (0xA4000000 + d.toNat * 0x100000 + a.toNat * 0x8000 + b.toNat * 0x400 + s.toNat * 0x40)
  | .drel a b s => some (0xA6000000 + a.toNat * 0x8000 + b.toNat * 0x400 + s.toNat * 0x40)
  | .dstat d a b s => some (0xA8000000 + d.toNat * 0x100000 + a.toNat * 0x8000 + b.toNat * 0x400 + s.toNat * 0x40)
  | .dtouch a b s => some (0xAA000000 + a.toNat * 0x8000 + b.toNat * 0x400 + s.toNat * 0x40)
  | .fcfg a n => some (0xB0000000 + a.toNat * 0x8000 + n.toNat)
  | .fput d a b s n => some (0xB2000000 + d.toNat * 0x100000 + a.toNat * 0x8000 + b.toNat * 0x400 + s.toNat * 0x40 + n.toNat)
  | .fread d a s n => some (0xB4000000 + d.toNat * 0x100000 + a.toNat * 0x8000 + s.toNat * 0x40 + n.toNat)
  | .fmerge d a s n => some (0xB6000000 + d.toNat * 0x100000 + a.toNat * 0x8000 + s.toNat * 0x40 + n.toNat)
  | .fsave d a s n => some (0xB8000000 + d.toNat * 0x100000 + a.toNat * 0x8000 + s.toNat * 0x40 + n.toNat)
  | .fload d a s n => some (0xBA000000 + d.toNat * 0x100000 + a.toNat * 0x8000 + s.toNat * 0x40 + n.toNat)
  | .fclr n => some (0xBC000000 + n.toNat)
  | .fstat d s n => some (0xBE000000 + d.toNat * 0x100000 + s.toNat * 0x40 + n.toNat)
  | .movcRead d c => some (0xC0000000 + d.toNat * 0x100000 + c.toNat * 0x8000)
  | .movcWrite c b => some (0xC0000001 + c.toNat * 0x8000 + b.toNat * 0x400)
  | .movsLo d a => some (0xC2000000 + d.toNat * 0x100000 + a.toNat * 0x8000)
  | .movsHi d a => some (0xC2000001 + d.toNat * 0x100000 + a.toNat * 0x8000)
  | .movsSeg d a => some (0xC2000002 + d.toNat * 0x100000 + a.toNat * 0x8000)
  | .claimv d a => some (0xC4000000 + d.toNat * 0x100000 + a.toNat * 0x8000)
  | .claimt d a => some (0xC6000000 + d.toNat * 0x100000 + a.toNat * 0x8000)
  | .relv => some (0xC8000000)
  | .relt a => some (0xCA000000 + a.toNat * 0x8000)
  | .slotstart a => some (0xCC000000 + a.toNat * 0x8000)
  | .slotreap a => some (0xCE000000 + a.toNat * 0x8000)
  | .slotreapSave a b => some (0xCE000001 + a.toNat * 0x8000 + b.toNat * 0x400)
  | .slotown d a => some (0xD0000000 + d.toNat * 0x100000 + a.toNat * 0x8000)
  | .trap a c => some (0xD2000000 + a.toNat * 0x8000 + c.toNat)
  | .brk c => some (0xD4000000 + c.toNat)
  | .trc a b k => some (0xD6000000 + a.toNat * 0x8000 + b.toNat * 0x400 + k.toNat)
  | .rdctr d a => some (0xD8000000 + d.toNat * 0x100000 + a.toNat * 0x8000)
  | .taskres a => some (0xDA000000 + a.toNat * 0x8000)
  | .taskkill a => some (0xDC000000 + a.toNat * 0x8000)
  | _ => none

/-- The bits of a V syllable (R98). -/
def encodeV : Instr → Option Nat
  | .nopV => some (0x00000000)
  | .vaddF m t d a b r => some (0x02000000 + m.toNat * 0x1000000 + t.toNat * 0x100000 + d.toNat * 0x10000 + a.toNat * 0x1000 + b.toNat * 0x100 + r.toNat * 0x20)
  | .vsubF m t d a b r => some (0x02000001 + m.toNat * 0x1000000 + t.toNat * 0x100000 + d.toNat * 0x10000 + a.toNat * 0x1000 + b.toNat * 0x100 + r.toNat * 0x20)
  | .vmulF m t d a b r => some (0x02000002 + m.toNat * 0x1000000 + t.toNat * 0x100000 + d.toNat * 0x10000 + a.toNat * 0x1000 + b.toNat * 0x100 + r.toNat * 0x20)
  | .vfma m t d a b r => some (0x02000003 + m.toNat * 0x1000000 + t.toNat * 0x100000 + d.toNat * 0x10000 + a.toNat * 0x1000 + b.toNat * 0x100 + r.toNat * 0x20)
  | .vfms m t d a b r => some (0x02000004 + m.toNat * 0x1000000 + t.toNat * 0x100000 + d.toNat * 0x10000 + a.toNat * 0x1000 + b.toNat * 0x100 + r.toNat * 0x20)
  | .vminF m t d a b => some (0x02000005 + m.toNat * 0x1000000 + t.toNat * 0x100000 + d.toNat * 0x10000 + a.toNat * 0x1000 + b.toNat * 0x100)
  | .vmaxF m t d a b => some (0x02000006 + m.toNat * 0x1000000 + t.toNat * 0x100000 + d.toNat * 0x10000 + a.toNat * 0x1000 + b.toNat * 0x100)
  | .vabsF m t d a => some (0x02000007 + m.toNat * 0x1000000 + t.toNat * 0x100000 + d.toNat * 0x10000 + a.toNat * 0x1000)
  | .vnegF m t d a => some (0x02000008 + m.toNat * 0x1000000 + t.toNat * 0x100000 + d.toNat * 0x10000 + a.toNat * 0x1000)
  | .vaddI m t d a b s => some (0x04000000 + m.toNat * 0x1000000 + t.toNat * 0x100000 + d.toNat * 0x10000 + a.toNat * 0x1000 + b.toNat * 0x100 + s.toNat * 0x80)
  | .vsubI m t d a b s => some (0x04000001 + m.toNat * 0x1000000 + t.toNat * 0x100000 + d.toNat * 0x10000 + a.toNat * 0x1000 + b.toNat * 0x100 + s.toNat * 0x80)
  | .vmulI m t d a b => some (0x04000002 + m.toNat * 0x1000000 + t.toNat * 0x100000 + d.toNat * 0x10000 + a.toNat * 0x1000 + b.toNat * 0x100)
  | .vmulh m t d a b => some (0x04000003 + m.toNat * 0x1000000 + t.toNat * 0x100000 + d.toNat * 0x10000 + a.toNat * 0x1000 + b.toNat * 0x100)
  | .vminI m t d a b => some (0x04000004 + m.toNat * 0x1000000 + t.toNat * 0x100000 + d.toNat * 0x10000 + a.toNat * 0x1000 + b.toNat * 0x100)
  | .vmaxI m t d a b => some (0x04000005 + m.toNat * 0x1000000 + t.toNat * 0x100000 + d.toNat * 0x10000 + a.toNat * 0x1000 + b.toNat * 0x100)
  | .vabsI m t d a s => some (0x04000006 + m.toNat * 0x1000000 + t.toNat * 0x100000 + d.toNat * 0x10000 + a.toNat * 0x1000 + s.toNat * 0x80)
  | .vnegI m t d a s => some (0x04000007 + m.toNat * 0x1000000 + t.toNat * 0x100000 + d.toNat * 0x10000 + a.toNat * 0x1000 + s.toNat * 0x80)
  | .vand m t d a b => some (0x04000008 + m.toNat * 0x1000000 + t.toNat * 0x100000 + d.toNat * 0x10000 + a.toNat * 0x1000 + b.toNat * 0x100)
  | .vor m t d a b => some (0x04000009 + m.toNat * 0x1000000 + t.toNat * 0x100000 + d.toNat * 0x10000 + a.toNat * 0x1000 + b.toNat * 0x100)
  | .vxor m t d a b => some (0x0400000A + m.toNat * 0x1000000 + t.toNat * 0x100000 + d.toNat * 0x10000 + a.toNat * 0x1000 + b.toNat * 0x100)
  | .vshl m t d a b s => some (0x0400000B + m.toNat * 0x1000000 + t.toNat * 0x100000 + d.toNat * 0x10000 + a.toNat * 0x1000 + b.toNat * 0x100 + s.toNat * 0x80)
  | .vshr m t d a b => some (0x0400000C + m.toNat * 0x1000000 + t.toNat * 0x100000 + d.toNat * 0x10000 + a.toNat * 0x1000 + b.toNat * 0x100)
  | .vcmp m t a b c => some (0x06000000 + m.toNat * 0x1000000 + t.toNat * 0x100000 + a.toNat * 0x1000 + b.toNat * 0x100 + c.toNat)
  | .vsel d a b => some (0x08000000 + d.toNat * 0x10000 + a.toNat * 0x1000 + b.toNat * 0x100)
  | .vcvt m t d a h s x r => some (0x0A000000 + m.toNat * 0x1000000 + t.toNat * 0x100000 + d.toNat * 0x10000 + a.toNat * 0x1000 + h.toNat * 0x100 + s.toNat * 0x10 + x.toNat * 0x8 + r.toNat)
  | .vqmx t d a b => some (0x0C000000 + t.toNat * 0x100000 + d.toNat * 0x10000 + a.toNat * 0x1000 + b.toNat * 0x100)
  | .vdqmx t d a b => some (0x0C000001 + t.toNat * 0x100000 + d.toNat * 0x10000 + a.toNat * 0x1000 + b.toNat * 0x100)
  | .vrcp m t d a r => some (0x0E000000 + m.toNat * 0x1000000 + t.toNat * 0x100000 + d.toNat * 0x10000 + a.toNat * 0x1000 + r.toNat * 0x20)
  | .vrsq m t d a r => some (0x0E000001 + m.toNat * 0x1000000 + t.toNat * 0x100000 + d.toNat * 0x10000 + a.toNat * 0x1000 + r.toNat * 0x20)
  | .vexp2 m t d a r => some (0x0E000002 + m.toNat * 0x1000000 + t.toNat * 0x100000 + d.toNat * 0x10000 + a.toNat * 0x1000 + r.toNat * 0x20)
  | .vlog2 m t d a r => some (0x0E000003 + m.toNat * 0x1000000 + t.toNat * 0x100000 + d.toNat * 0x10000 + a.toNat * 0x1000 + r.toNat * 0x20)
  | .vsin m t d a r => some (0x0E000004 + m.toNat * 0x1000000 + t.toNat * 0x100000 + d.toNat * 0x10000 + a.toNat * 0x1000 + r.toNat * 0x20)
  | .vcos m t d a r => some (0x0E000005 + m.toNat * 0x1000000 + t.toNat * 0x100000 + d.toNat * 0x10000 + a.toNat * 0x1000 + r.toNat * 0x20)
  | .vtanh m t d a r => some (0x0E000006 + m.toNat * 0x1000000 + t.toNat * 0x100000 + d.toNat * 0x10000 + a.toNat * 0x1000 + r.toNat * 0x20)
  | .vclz m t d a => some (0x10000000 + m.toNat * 0x1000000 + t.toNat * 0x100000 + d.toNat * 0x10000 + a.toNat * 0x1000)
  | .vctz m t d a => some (0x10000001 + m.toNat * 0x1000000 + t.toNat * 0x100000 + d.toNat * 0x10000 + a.toNat * 0x1000)
  | .vpopc m t d a => some (0x10000002 + m.toNat * 0x1000000 + t.toNat * 0x100000 + d.toNat * 0x10000 + a.toNat * 0x1000)
  | .vshuf m d a b => some (0x12000000 + m.toNat * 0x1000000 + d.toNat * 0x10000 + a.toNat * 0x1000 + b.toNat * 0x100)
  | .vsplat m t v a => some (0x14000000 + m.toNat * 0x1000000 + t.toNat * 0x100000 + v.toNat * 0x10000 + a.toNat * 0x800)
  | .vsplatSeq m t v a b => some (0x14000001 + m.toNat * 0x1000000 + t.toNat * 0x100000 + v.toNat * 0x10000 + a.toNat * 0x800 + b.toNat * 0x40)
  | .vvote m v a o => some (0x16000000 + m.toNat * 0x1000000 + v.toNat * 0x10000 + a.toNat * 0x800 + o.toNat)
  | .vmatch m d a o => some (0x18000000 + m.toNat * 0x1000000 + d.toNat * 0x10000 + a.toNat * 0x1000 + o.toNat)
  | .vred m t v a o => some (0x1A000000 + m.toNat * 0x1000000 + t.toNat * 0x100000 + v.toNat * 0x10000 + a.toNat * 0x800 + o.toNat)
  | .vscan m t d a e o => some (0x1C000000 + m.toNat * 0x1000000 + t.toNat * 0x100000 + d.toNat * 0x10000 + a.toNat * 0x1000 + e.toNat * 0x10 + o.toNat)
  | .vins t v a b => some (0x1E000000 + t.toNat * 0x100000 + v.toNat * 0x10000 + a.toNat * 0x800 + b.toNat * 0x40)
  | .vext t v a b => some (0x1E000001 + t.toNat * 0x100000 + v.toNat * 0x10000 + a.toNat * 0x800 + b.toNat * 0x40)
  | .vld m v a s r => some (0x20000000 + m.toNat * 0x1000000 + v.toNat * 0x10000 + a.toNat * 0x800 + s.toNat * 0x4 + r.toNat * 0x2)
  | .vst m v a s r => some (0x22000000 + m.toNat * 0x1000000 + v.toNat * 0x10000 + a.toNat * 0x800 + s.toNat * 0x4 + r.toNat * 0x2)
  | .vlds m v a b s r => some (0x24000000 + m.toNat * 0x1000000 + v.toNat * 0x10000 + a.toNat * 0x800 + b.toNat * 0x40 + s.toNat * 0x4 + r.toNat * 0x2)
  | .vsts m v a b s r => some (0x26000000 + m.toNat * 0x1000000 + v.toNat * 0x10000 + a.toNat * 0x800 + b.toNat * 0x40 + s.toNat * 0x4 + r.toNat * 0x2)
  | .vgath m t v a i s r => some (0x28000000 + m.toNat * 0x1000000 + t.toNat * 0x100000 + v.toNat * 0x10000 + a.toNat * 0x800 + i.toNat * 0x80 + s.toNat * 0x4 + r.toNat * 0x2)
  | .vscat m t v a i s r => some (0x2A000000 + m.toNat * 0x1000000 + t.toNat * 0x100000 + v.toNat * 0x10000 + a.toNat * 0x800 + i.toNat * 0x80 + s.toNat * 0x4 + r.toNat * 0x2)
  | .tld a g h => some (0x40000000 + a.toNat * 0x200000 + g.toNat * 0x400 + h.toNat * 0x20)
  | .tldx a g h => some (0x42000000 + a.toNat * 0x200000 + g.toNat * 0x400 + h.toNat * 0x20)
  | .tst a g h => some (0x44000000 + a.toNat * 0x200000 + g.toNat * 0x400 + h.toNat * 0x20)
  | .tlw b c => some (0x46000000 + b.toNat * 0x20000 + c.toNat * 0x8000)
  | .tscl a g => some (0x48000000 + a.toNat * 0x200000 + g.toNat * 0x400)
  | .tsclSt a g => some (0x48000001 + a.toNat * 0x200000 + g.toNat * 0x400)
  | .tmma a c => some (0x4A000000 + a.toNat * 0x200000 + c.toNat * 0x8000)
  | .tmmaW a b c n => some (0x4A000004 + a.toNat * 0x200000 + b.toNat * 0x20000 + c.toNat * 0x8000 + n.toNat)
  | .tzero c => some (0x4C000000 + c.toNat * 0x8000)
  | .tzeroT a => some (0x4C000001 + a.toNat * 0x200000)
  | .tdrain c g h s t => some (0x4E000000 + c.toNat * 0x8000 + g.toNat * 0x400 + h.toNat * 0x20 + s.toNat * 0x10 + t.toNat)
  | .tdrainByp a c s z => some (0x50000000 + a.toNat * 0x200000 + c.toNat * 0x8000 + s.toNat * 0x10 + z.toNat)
  | _ => none

/-- The bits of an instruction's syllable; none for an event. -/
def encodeBits (i : Instr) : Option Nat :=
  match i.slot with
  | .s => encodeS i
  | .v => encodeV i
  | .event => none

/-- The syllable of an instruction. -/
def encode (i : Instr) : Option Lane := (encodeBits i).map (BitVec.ofNat 32)

/-- The bundle that holds one instruction in its own slot and NOP in the other (R88, R90). -/
def bundleOf (i : Instr) : Option Word :=
  match i.slot, encode i with
  | .s, some w => some (w.setWidth 64)
  | .v, some w => some (w.setWidth 64 <<< 32)
  | _, _ => none

/-- The decoder on bits numbered as the opcode table numbers them. The table gives both S and V syllables 32 bits; the word is
read in the S slot, the lower four bytes of a bundle (00 R4), and in the V slot when it is no S syllable (log 6). -/
def decodeTableWord (nbits w : Nat) : Option Instr :=
  let x : Lane := BitVec.ofNat 32 (w % 2 ^ nbits)
  match decodeS x with
  | .ok i => some i
  | .error _ =>
    match decodeV x with
    | .ok i => some i
    | .error _ => none

end Sys2Proof
end

