-- ==== Sys2Proof/Machine/State.lean ====
section
/-! DEFINITION. The state of the house as plain data (INVENTORY.md lists each piece with its rule), the reasons a step can stop,
and the state after reset (03 R71, 09 R230, 24 R413). Contexts are named by 16 x core + slot, cores by 192 x hall + core (porch
core p by 6144 + p), rooms by 24 x hall + room. -/

namespace Sys2Proof.Machine

/-- A 128-bit segment register (09 R213). -/
abbrev Seg := BitVec 128

/-- The kinds of access a page-refused record names, in the order of its INFO0 codes (23 R399). -/
inductive AccKind where
  | load
  | store
  | atomic
  | fetch
  | vector
  | delta
  deriving DecidableEq, Repr

/-- The reasons of a translation fault (09 R227). -/
inductive XReason where
  | invalid
  | malformed
  | rights
  | absent
  deriving DecidableEq, Repr

/-- What a fault record says of a fault (23 R397, R399). `completed` is the table's "next": the bundle stands. -/
structure FaultRec where
  kind : Nat
  reason : Nat := 0
  pc : Word := 0
  addr : Word := 0
  info0 : Word := 0
  info1 : Word := 0
  late : Bool := false
  completed : Bool := false
  /-- House counter when the fault was raised. -/
  stamp : Word := 0
  deriving DecidableEq, Repr

/-- Why a context is out of the rotation (05 R111, R112, R123). -/
inductive Wait where
  /-- A plain access, returning atomic, Delta or front reply. -/
  | reply
  /-- Parked on a translation fault (09 R227), with the house address, the access and the reason. -/
  | translation (h : Nat) (acc : AccKind) (why : XReason)
  /-- A relaxed access is held at its port until the attic's wake (09 R228). -/
  | held
  /-- Parked at a full/empty, barrier or landing word, or a future (09 R230, R231; 14 R323, R325, R328, R329). -/
  | parked (word : Nat)
  /-- MWAIT until an ebb number is reached (17 R351). -/
  | ebb (wanted : Nat)
  /-- CLAIMV or CLAIMT waiting for a grant (05 R118, R120). -/
  | claim
  /-- Acknowledgements awaited at a fence point (13 R299, 14 R318), or commands awaited by QFENCE (14 R321). -/
  | fence
  /-- A pending register or a fifth relaxed access (05 R112). -/
  | register
  /-- The bundle did not issue because a copy or tile queue is full (10 R247, 12 R276). -/
  | retry
  /-- The bundle lost a bank of its own store (05 R115). -/
  | forfeit
  /-- The header walk of 04 R85. -/
  | walk
  /-- Outstanding accesses or copy commands before a migration (03 R76, 10 R253). -/
  | migrate
  /-- The tile claim is given up once the task's tile work is complete (05 R120). -/
  | giveUp
  /-- Saved claims are being re-established (23 R410). -/
  | reestablish
  /-- MFIELD waits for the ebb that installs its descriptor (17 R353). -/
  | mfield
  /-- A migration in flight, the last wait of the slot that its task has left (05 R123); no context stands in it. -/
  | flight
  deriving DecidableEq, Repr

/-- What occupies a slot. -/
inductive CStatus where
  | vacant
  | ready
  | waiting (w : Wait)
  | faulted (f : FaultRec)
  /-- Stopped with the PARK reason (02 R31): 2 pre-empted, 4 debug halt, 5 gang stop. -/
  | halted (park : Nat)
  /-- Ended, not yet reaped (06 R144). -/
  | ended
  deriving DecidableEq, Repr

/-- Where the PC stands (04 R84, R85): at a header, at a bundle whose header is still to be found, or in a block. -/
inductive Place where
  | header
  | walk
  | block (hdr : Word) (bits : Word)
  deriving DecidableEq, Repr

/-- A relaxed operation (10 R236, R239; 14 R316; 17 R347). -/
inductive RelOp where
  | load (d : Nat) (size : Nat) (signed : Bool)
  | store (size : Nat) (value : Nat)
  | vload (v : Nat) (lanes : List (Nat × Nat))
  | vstore (lanes : List (Nat × Nat))
  | red (op : Nat) (size : Nat) (operand : Word)
  | mdep (amount : Nat)
  | mdepx (amount : Nat)
  deriving DecidableEq, Repr

/-- An outstanding relaxed access (05 R112). -/
structure Relaxed where
  id : Nat
  op : RelOp
  h : Nat
  pc : Word
  /-- Performed at its memory, the acknowledgement still to come. -/
  done : Bool := false
  /-- Held by its core, which has not sent it yet (13 R296, R304). -/
  unsent : Bool := false
  /-- Held at its port by a translation fault (09 R228). -/
  held : Bool := false
  /-- The house address at which it failed or is held: of a vector access, that of the failing lane (10 R236, R238). -/
  badAt : Option Nat := none
  /-- Reason of the fault reply that its station has sent (14 R317); 0 for none. -/
  bad : Nat := 0
  /-- Number of the message by which its port has asked the attic: wakes answer a task's messages in the order in which they were sent (log 33). -/
  ask : Nat := 0
  deriving DecidableEq, Repr

/-- One entry of the reduction log (14 R317). -/
structure LogEntry where
  h : Nat
  operand : Word
  op : Nat
  sz : Nat
  reason : Nat
  pc : Word
  deriving DecidableEq, Repr

/-- A copy command in a queue (10 R245 to R252). -/
structure CopyCmd where
  ctx : Nat
  gid : Word
  lrec : Word
  pc : Word
  syl : Lane
  /-- 0 CPY, 1 CPYS, 2 CPYM. -/
  form : Nat
  sv : Bool
  dv : Bool
  lenWord : Word
  stride : Word
  src : Nat
  dst : Nat
  segs : Tab Seg := []
  /-- Address register value of the list of a CPYM (10 R247). -/
  list : Word := 0
  /-- Destinations of a CPYM in order, once its list has been read; none for one that has failed (10 R251). -/
  dests : List (Option Nat) := []
  /-- The destination whose page the engine has asked the attic for, and those whose page it has refused (10 R249, R251). -/
  asking : Option Nat := none
  refused : List Nat := []
  chunk : Nat := 0
  failed : Word := 0
  bad : Bool := false
  /-- Waits for the attic at this house address (10 R249), and the number of its message (log 33). -/
  parked : Option Nat := none
  ask : Nat := 0
  deriving DecidableEq, Repr

/-- A tile command in a queue (12 R275). -/
structure TileCmd where
  ctx : Nat
  gid : Word
  lrec : Word
  pc : Word
  syl : Lane
  instr : Instr
  rm : Nat
  span : Nat
  stride : Nat
  control : Word := 0
  descs : List Word := []
  step : Nat := 0
  parked : Option Nat := none
  ask : Nat := 0
  /-- Its issuer has stored to its source since it was accepted (12 R278). -/
  spoilt : Bool := false
  deriving DecidableEq, Repr

/-- A non-returning front operation on its way to its accumulator (13 R310, 21 R394): FCFG with its word, or FCLR. -/
structure FrontReq where
  id : Nat
  front : Nat
  cfg : Option Word
  deriving DecidableEq, Repr

/-- Where a house address is kept once translated (09 R221). -/
inductive Phys where
  | house (h : Nat)
  | hbm (stack a : Nat)
  | cellar (port a : Nat)
  | host (a : Nat)
  | peer (p a : Nat)
  deriving DecidableEq, Repr

/-- A fetch-and-add on its way to its station (11 R259): its number, the register that receives the old value, the word, and its place in memory. -/
structure AmoWait where
  id : Nat
  d : Nat
  h : Nat
  place : Phys
  /-- The fault, kind and reason, that its station has answered with (11 R261). -/
  bad : Option (Nat × Nat) := none
  /-- Performed at its station, its reply on the way. -/
  done : Bool := false
  deriving DecidableEq, Repr

/-- A task's state in a slot (02 R26, R31) and what the device keeps of it. -/
structure Ctx where
  status : CStatus := .vacant
  pc : Word := 0
  p : Word := 0
  g : Tab Word := []
  segs : Tab Seg := []
  st : Word := 0
  fpc : Word := 0
  gid : Word := 0
  grp : Word := 0
  hnd : Word := 0
  tc : Word := 0
  lrec : Word := 0
  lanes : Nat := 0
  vregs : Tab Lane := []
  tile : Nat := 0
  tileAt : Nat := 0
  /-- Descriptors TD0 to TD15 of the tile registers claimed (12 R272). -/
  td : Tab Word := []
  place : Place := .header
  relaxed : List Relaxed := []
  rlog : List LogEntry := []
  rovf : Bool := false
  lastIssue : Option Nat := none
  given : Option Word := none
  raised : Nat := 0
  written : Nat := 0
  parkedAt : Nat := 0
  queue : Nat := 0
  doneFuture : Nat := 0
  isHandler : Bool := false
  xsave : Nat := 0
  stopSkip : Bool := false
  lent : Bool := false
  heldWake : Option Nat := none
  image : Nat := 0
  /-- The bundle that issued last, or that is waiting to complete. -/
  bits : Word := 0
  /-- A halt to be made at the next bundle boundary, by its PARK reason; 0 none (23 R406). -/
  haltReq : Nat := 0
  /-- The house address at which a hand-over or an image write waits for the attic (23 R398, R409). -/
  asked : Option Nat := none
  /-- Fault replies that came after the first (10 R236). -/
  others : List FaultRec := []
  /-- The task parked on a translation fault before its debug halt: its PC and its wait (24 R425). -/
  parkedPc : Option (Word × Wait) := none
  /-- Number of the message that the context's own wait has sent to the attic (log 33). -/
  ask : Nat := 0
  /-- A fault reply that stops the context at its next bundle boundary (10 R236). -/
  lateFault : Option FaultRec := none
  /-- Address that the parked access or wait named when the context was halted (02 R31). -/
  parkA : Nat := 0
  /-- CLAIM word still to be re-established (23 R410). -/
  want : Word := 0
  /-- Tile and copy commands saved with the halted task (12 R290, 23 R409); each copy command with its queue. -/
  heldT : List TileCmd := []
  heldC : List (Nat × CopyCmd) := []
  /-- Saved tile commands that have failed meanwhile, and what they leave undefined is so once the claims are re-established (12 R279, R290). -/
  lostT : List TileCmd := []
  /-- The cc at which the task was lost, which orders the lost members of a gang (23 R404). -/
  lostAt : Nat := 0
  /-- A SLOTREAP.save waits for its held accesses, and it stays parked meanwhile (06 R156, 09 R228). -/
  saving : Bool := false
  /-- Number of the message for the translation fault on which the task was parked as it was halted (24 R425). -/
  parkedAsk : Nat := 0
  /-- Numbers of the messages for accesses that a debugger has abandoned, whose wakes are discarded (24 R425). -/
  staleAsks : List Nat := []
  /-- The context has entered its block with TB set, and the record is written as its first bundle issues (24 R417, R420). -/
  entered : Bool := false
  /-- Front operations that are still to be acknowledged, oldest first. -/
  frontQ : List FrontReq := []
  /-- The fetch-and-add that the context awaits. -/
  amo : Option AmoWait := none
  /-- The house address to which the request of the context's bundle travels: the bundle executes as its reply comes (log 4). -/
  flying : Option Nat := none
  /-- What the S syllable of such a bundle has read at issue, and the register that it is for. -/
  early : Option (Nat × Word) := none
  deriving DecidableEq, Repr

/-- What parks at a word (09 R231, 14 R323, R325). -/
inductive ParkKind where
  | taker
  | putter (value : Word)
  | reader
  | barrier (phase : Nat)
  | landing (gen : Nat)
  | future
  deriving DecidableEq, Repr

/-- An entry of a deferred list or of a waiter list, oldest first in the list that holds it. -/
structure Parked where
  word : Nat
  ctx : Nat
  kind : ParkKind
  deriving DecidableEq, Repr

/-- A barrel core's or porch core's own state. -/
structure Core where
  ptr : Nat := 0
  owners : Tab Nat := []
  forfeit : Nat := 0
  busy : Nat := 0
  counters : Tab Nat := []
  /-- What each slot did in the current rotation: 1 issued, 2 waited on memory, 3 waited on a message (05 R123). -/
  seen : Tab Nat := []
  inbox : List Nat := []
  closed : Bool := false
  badWords : List Nat := []
  /-- The cc up to which the ready histogram has been counted. -/
  counted : Nat := 0
  /-- Slots for which a start or resume event is on its way (03 R69). -/
  promised : List Nat := []
  /-- Slots whose reap event the hearth has still to carry out (03 R69, R76; log 34). -/
  reaping : List Nat := []
  deriving DecidableEq, Repr

/-- A recorded failure of a copy or tile command (10 R252, 12 R279). Queue 8 is the tile queue. -/
structure Failure where
  gid : Word
  lrec : Word
  queue : Nat
  pc : Word
  reason : Nat
  failed : Word
  /-- Its place among the failures recorded, which 14 R321 reports earliest first. -/
  num : Nat := 0
  deriving DecidableEq, Repr

/-- A held tuple of a front: keys 0 to 3 and a payload (21 R379). -/
structure FTuple where
  k0 : Lane
  k1 : Lane
  k2 : Lane
  k3 : Lane
  payload : Lane
  deriving DecidableEq, Repr

/-- A front accumulator (21 R379). -/
structure Front where
  cfg : Word := 0
  ovf : Bool := false
  epoch : Lane := 0
  tuples : List FTuple := []
  lost : Bool := false
  deriving DecidableEq, Repr

/-- The tile engine's storage (12 R271): tile registers (16384 n + byte), side-cars (1024 n + byte), accumulators (16384 c + 128 m + n),
weight planes and their shadows with latched descriptors. The descriptors TD0 to TD15 stand in the context that holds the claim. -/
structure Tile where
  rows : Tab Byte := []
  scale : Tab Byte := []
  acc : Tab Lane := []
  prow : Tab Byte := []
  pscale : Tab Byte := []
  pdesc : Tab Word := []
  srow : Tab Byte := []
  sscale : Tab Byte := []
  sdesc : Tab Word := []
  svalid : Tab Bool := []
  /-- Accumulators with a pass under way. -/
  passing : List Nat := []
  deriving DecidableEq, Repr

/-- A room's shared state. -/
structure Room where
  vwait : List (Nat × Nat) := []
  twait : List (Nat × Nat) := []
  copyQ : Tab (List CopyCmd) := []
  tileQ : List TileCmd := []
  fails : List Failure := []
  tile : Tile := {}
  fronts : Tab Front := []
  stopped : Bool := false
  deriving DecidableEq, Repr

/-- A task waiting to start or to resume (03 R69, 02 R40, 23 R401, R405). -/
structure Start where
  lnum : Nat
  gid : Word
  entry : Word
  regs : Tab Word
  segs : Tab Seg
  hnd : Word
  grp : Word
  lrec : Word
  queue : Nat
  doneFuture : Nat := 0
  handler : Bool := false
  /-- House address of the image of a KIND 2 start. -/
  image : Option Nat := none
  /-- The gang whose members must start together, and how many they are (02 R43, 23 R405). -/
  gang : Option (Nat × Nat) := none
  /-- STOP number of the gang stop that the resumed task waits for (23 R405). -/
  stop : Option Nat := none
  /-- GTID of the task that a handler serves (23 R408). -/
  serves : Word := 0
  /-- The migration packet of an inbox whose task takes the slot's start event (15 R331). -/
  flight : Option Nat := none
  deriving DecidableEq, Repr

/-- What the device keeps of an image (02 R33, 06 R165, 23 R409): the values it wrote, the hall that wrote it, and the commands saved. -/
structure ImgRec where
  gid : Word
  lrec : Word
  queue : Nat
  doneFuture : Nat := 0
  handler : Bool := false
  hall : Nat
  /-- STOP number when the image belongs to a gang stop, with the gang and its size (23 R404). -/
  stop : Option Nat := none
  /-- A lent task whose slot's context has been vacated (06 R156). -/
  lent : Bool := false
  /-- Refuse code of the wake that a lent task received (09 R227). -/
  refused : Option (Nat × Nat × AccKind) := none
  /-- Why and where a lent task was parked. -/
  parked : Option Wait := none
  tiles : List TileCmd := []
  /-- Tile commands of it that have failed since (12 R279, R290). -/
  lost : List TileCmd := []
  copies : List (Nat × CopyCmd) := []
  /-- GRP of the task, by which a pre-empted gang goes on together (02 R43). -/
  grp : Word := 0
  /-- The words of an image whose fault-area entry has been taken again before it was loaded, and its house address (23 R398; log 25). -/
  words : List Word := []
  home : Nat := 0
  /-- Room of the core that held the task. -/
  room : Nat := 0
  /-- PC of the first bundle of a block whose block-entry record is still to be written (24 R420). -/
  entered : Option Word := none
  deriving DecidableEq, Repr

/-- One queue-table entry (03 R50, R66). -/
structure QEntry where
  queue : Nat
  weight : Nat
  deriving DecidableEq, Repr

/-- A trace record (24 R416): the stamp, GTID, the word of KIND, SOURCE and PAYLOAD[31:0], and PAYLOAD[95:32]. -/
structure TraceRec where
  stamp : Word
  gtid : Word
  head : Word
  payload : Word
  deriving DecidableEq, Repr

/-- A trace ring (24 R419). -/
structure Ring where
  base : Nat := 0
  size : Nat := 0
  wr : Nat := 0
  rd : Nat := 0
  dropped : Nat := 0
  deriving DecidableEq, Repr

/-- Whether a unit is in service (01 R12, 25 R433). -/
inductive Service where
  | inService
  | leaving
  | offline
  deriving DecidableEq, Repr

/-- A stop-table entry (24 R422): WHO, HDR and the word of V, LM, HITS and BIDX. -/
structure StopEntry where
  who : Word := 0
  hdr : Word := 0
  ctl : Word := 0
  deriving DecidableEq, Repr

/-- A hall's state. -/
structure Hall where
  service : Service := .inService
  regions : Tab Word := []
  /-- Accepted MFIELDs waiting for the next ebb: context, region, descriptor (17 R353). -/
  regionQ : List (Nat × Nat × Word) := []
  /-- Mark words with a pending fade and its k (17 R343). -/
  pendFade : List (Nat × Nat) := []
  queues : Tab QEntry := []
  /-- Runnable queues, in the order in which they became so (03 R66). -/
  order : List Nat := []
  waiting : List Start := []
  /-- Slot events for full hearth words: core and event word (03 R69). -/
  events : List (Nat × Word) := []
  /-- Handler and member starts held until a pre-emption or a gang stop lets them go (23 R405, R408). -/
  heldStarts : List Start := []
  /-- Launch values taken whose reads wait for the attic, by launch word, with the record where it has been read (02 R443). -/
  intakes : Tab (Nat × List Word) := []
  /-- Graph nodes whose record has been PUT into launch word 0: the record, the replay and the node (03 R54). -/
  nodesIn : List (Nat × Nat × Nat) := []
  poolBase : Nat := 0
  poolCount : Nat := 0
  poolUsed : List Nat := []
  images : List Nat := []
  ring : Ring := {}
  freeze : List (Nat × FaultRec) := []
  freezeOver : Nat := 0
  scope : Tab Nat := []
  /-- The stop table (24 R422). -/
  stops : Tab StopEntry := []
  deriving DecidableEq, Repr

/-- A wing dispatcher (03 R60). -/
structure Wing where
  heard : Tab Nat := []
  lost : List Nat := []
  up : Bool := true
  deriving DecidableEq, Repr

/-- A grant of indices, or of spawn serials, with what the participants hold of it (03 R58). -/
structure Notice where
  first : Nat
  last : Nat
  grantee : Nat
  spawn : Bool
  holders : List Nat
  committed : Bool := false
  handed : Bool := false
  /-- Tasks of the chunk that have not ended. -/
  left : Nat := 0
  reported : Bool := false
  deriving DecidableEq, Repr

/-- A group-table entry (02 R41). -/
structure Group where
  first : Nat
  gang : Bool
  count : Nat
  stride : Nat
  bar : Nat
  deriving DecidableEq, Repr

/-- A live launch (02 R37, 03 R56 to R65). -/
structure Launch where
  record : Nat := 0
  entry : Word := 0
  args : Word := 0
  n : Nat := 0
  queue : Nat := 0
  weight : Nat := 0
  segset : Tab Seg := []
  handler : Word := 0
  farea : Nat := 0
  fcap : Nat := 0
  used : Nat := 0
  done : Option Nat := none
  groups : List Group := []
  dr : Bool := false
  pv : Bool := false
  dtree : Nat := 0
  din : Word := 0
  dlen : Nat := 0
  dmin : Nat := 0
  gnode : Word := 0
  /-- The replay and node that the launch stands for. -/
  node : Option (Nat × Nat) := none
  losta : Nat := 0
  lostn : Nat := 0
  wings : List Nat := []
  leader : Nat := 0
  hall : Option Nat := none
  chunk : Nat := 1
  next : Nat := 0
  notices : List Notice := []
  spawnNext : Nat := 0x8000_0000_0000
  spawnBlk : Tab (Nat × Nat) := []
  live : Nat := 0
  started : Nat := 0
  status : Nat := 0
  lost : List (Nat × Nat) := []
  stopNo : Nat := 0
  looked : Bool := false
  found : Option (Word × Word × Word) := none
  /-- SPAWNs whose serial waits for a block, with their wings (03 R58). -/
  spawnQ : List (Nat × Start) := []
  /-- Fault-area entries that cannot be used (23 R398). -/
  badEntries : List Nat := []
  /-- Records without an image that wait for the attic: the fault, the GTID and the source (10 R252, 23 R398). -/
  lateQ : List (FaultRec × Word × Nat) := []
  /-- Writes of the dispatcher that wait for the attic: house address, bytes and value (02 R37). -/
  heldW : List (Nat × Nat × Nat) := []
  /-- Index tasks in more than four groups whose record waits for the attic: the hall and the task (02 R42). -/
  overQ : List (Nat × Start) := []
  /-- Hall in which the members of a gang come together, by the lowest group of its component (02 R43). -/
  gangHall : Tab Nat := []
  /-- The STATUS word that the first step of completion has written (23 R412). -/
  closing : Option Nat := none
  /-- The launch has completed and its number is free; its fault area is kept for the failures of commands that its tasks left (10 R252). -/
  outlived : Bool := false
  /-- The lookup's pin has passed to a task. -/
  pinPassed : Bool := false
  /-- The release of the lookup's pin waits for the attic's wake (19 R376). -/
  pinHeld : Bool := false
  /-- Address at which the lookup waits for the attic's wake (03 R65). -/
  lookHeld : Option Nat := none
  /-- The lookup raised a fault: task 0 starts with it (03 R65). -/
  lookFault : Option FaultRec := none
  deriving DecidableEq, Repr

/-- A replay in flight (02 R46, R47). -/
structure Replay where
  graph : Nat
  future : Nat
  slot : Nat
  remain : Tab Nat := []
  /-- Nodes that have completed. -/
  ended : List Nat := []
  status : Nat := 0
  /-- Launch record and successors of each node. -/
  nodes : List (Nat × List Nat) := []
  deriving DecidableEq, Repr

/-- The software fields a Delta station keeps of a tree (19 R358). -/
structure Tree where
  demote : Bool
  g : Nat
  station : Nat
  home : Nat
  base : Nat
  seed : Nat
  npool : Nat
  ncap : Nat
  low : Nat
  ppool : Nat
  pcap : Nat
  psize : Nat
  cpool : Nat
  ccap : Nat
  /-- Its fields, records and slots are as a station left them; otherwise they are undefined values (19 R358; log 51). -/
  sound : Bool := true
  /-- Memory that the slot of each live node takes up, by the node's index, as keys and lengths (19 R363). A tree that is not sound lists all
  of it, under the index NCAP (log 51). -/
  slots : Tab (List (Nat × Nat)) := []
  /-- Nodes into whose slot something other than the station has written: their comparison and their snapshot are undefined (19 R363). -/
  spoilt : List Nat := []
  deriving DecidableEq, Repr

/-- One TLB entry of a port: page base, log2 of its size, the leaf (09 R225). The first of a set is the most recently used. -/
structure TlbEntry where
  base : Nat
  size : Nat
  leaf : Word
  deriving DecidableEq, Repr

/-- A packet (11 R255, R256, R259): class 0 plain request, 1 relaxed request, 2 reply, 3 system; operation 0 to 8 as an integer
RED of that code, 16 MDEP, 17 MDEPX, 32 integer fetch-and-add, 64 anything that never combines. -/
structure Packet where
  id : Nat := 0
  cls : Nat := 0
  op : Nat := 64
  h : Nat := 0
  width : Nat := 0
  value : Nat := 0
  /-- The constituents of a request that may combine, first to last: context and access number. -/
  who : List (Nat × Nat) := []
  srcHall : Nat := 0
  srcPort : Nat := 0
  dstHall : Nat := 0
  dstPort : Nat := 0
  /-- Where it goes on to from its destination, a memory port that has translated it (09 R223). -/
  on : Option (Nat × Nat) := none
  /-- Bytes of its payload (11 R255). -/
  bytes : Nat := 8
  /-- What it brings about where it arrives. -/
  cargo : List Instr := []
  /-- A request whose reply carries its cargo, and the bytes of that reply. -/
  back : Option Nat := none
  /-- The output of its router that it has chosen. -/
  dir : Option Nat := none
  /-- Hops that it has made on the present leg along one dimension (11 R263). -/
  leg : Nat := 0
  deriving DecidableEq, Repr

/-- A packet at a sluice switch: the line it stands on before the stage, the port that it leaves the sluice by, and the cc at which it came to the
switch (11 R258). -/
structure SwEntry where
  hall : Nat
  stage : Nat
  line : Nat
  pkt : Packet
  exit : Nat := 0
  came : Nat := 0
  deriving DecidableEq, Repr

/-- A wait entry of a combining switch (11 R260): the first constituent's operand, and the return lines and constituents of both. -/
structure WaitEntry where
  hall : Nat
  stage : Nat
  switch : Nat
  packet : Nat
  op : Nat
  width : Nat
  a : Nat
  lines : Nat × Nat := (0, 0)
  first : List (Nat × Nat)
  second : List (Nat × Nat)
  deriving DecidableEq, Repr

/-- A link (11 R265 to R268, 25 R434): 0 to 51 mesh, 52 to 55 gable fords, 56 to 71 Eslia (log 15). -/
structure Link where
  up : Bool := true
  halfA : Bool := true
  halfB : Bool := true
  retraining : Bool := false
  /-- The cc at which the retraining began, and that at which it ends. -/
  begun : Nat := 0
  ends : Nat := 0
  /-- The same of the half that a recalibration retrains (25 R435). -/
  halfBegun : Nat := 0
  halfEnds : Nat := 0
  /-- Bytes of packets that an Eslia link has carried, outward and inward: they are packed back to back across its flits (11 R268). -/
  bytesOut : Nat := 0
  bytesIn : Nat := 0
  /-- Where among those bytes each packet begins that its sender keeps, by the packet's number, as last sent. -/
  places : Tab Nat := []
  /-- How many of those bytes stand in flits that have come to the far end good, outward and inward. -/
  goodOut : Nat := 0
  goodIn : Nat := 0
  /-- Packets on the link, oldest first, each with the hall that has sent it, or 32 more than the hall where it comes from beyond a gable ford or an Eslia link: their
  sender keeps them until the far end has acknowledged every flit. -/
  retry : List (Nat × Packet) := []
  /-- A recalibration under way (25 R435): 1 half B retrains, 2 half A. -/
  recal : Nat := 0
  sent : Nat := 0
  corrected : Nat := 0
  replayed : Nat := 0
  retrains : Nat := 0
  deriving DecidableEq, Repr

/-- The fabric. -/
structure Net where
  sluice : List SwEntry := []
  waits : List WaitEntry := []
  /-- Packets that wait at a router, each with its hall; with 32 more than the hall, at the far end of a gable ford or an Eslia link. -/
  mesh : List (Nat × Packet) := []
  arrived : List Packet := []
  /-- The class that an output of a switch serves next, by 2048 x hall + 256 x stage + line (11 R258). -/
  robin : Tab Nat := []
  passed : Tab Nat := []
  token : Tab Bool := []
  links : Tab Link := []
  /-- Injections of the deterministic classes are held (11 R270). -/
  holding : Bool := false
  /-- Next hall toward a destination, 32 x hall + destination, once R270 has rewritten the paths. -/
  routes : Tab Nat := []
  deriving DecidableEq, Repr

/-- Messages to the attic (09 R227, 23 R400, R409). -/
inductive AtticMsg where
  | translation (gid : Word) (ctx : Nat) (h : Nat) (acc : AccKind) (why : XReason)
  | unit (h : Nat) (why : XReason)
  | fault (gid : Word) (ctx : Nat) (f : FaultRec)
  | poolEmpty (hall : Nat)
  deriving DecidableEq, Repr

/-- The crash dump (24 R426 to R428): status 0 none, 1 complete, 2 partial, 3 in progress. -/
structure Dump where
  status : Nat := 0
  /-- The crash kernel has requested its pre-emption, since the last reset (24 R427). -/
  requested : Bool := false
  /-- When it did, in cc, and the contexts whose fault had been raised by then: their hand-over goes on (24 R427, 23 R408). -/
  askedAt : Nat := 0
  before : List Nat := []
  /-- The watchdog has halted the writer (24 R428). -/
  taken : Bool := false
  begun : Nat := 0
  ended : Nat := 0
  writer : Nat := 0
  watchdog : Nat := 0
  /-- Sections written: kind and record count. -/
  sections : List (Nat × Nat) := []
  /-- Byte offset and length of each section written. -/
  spans : List (Nat × Nat) := []
  /-- Words of the sections, which follow the header in the dump area. -/
  area : List Word := []
  progress : Word := 0
  beatAt : Nat := 0
  /-- Records of frozen contexts: context and fault. -/
  late : List (Nat × FaultRec) := []
  images : List (Nat × FaultRec) := []
  deriving DecidableEq, Repr

/-- A request of the host (25 R431, R432). -/
inductive HostReq
  | aperture (write : Bool) (offset size : Nat) (data : Nat)
  | launchCas (hall wd : Nat) (compare swap : Word)
  | misuse
  | otherRead
  | misuseClear
  | registerWrite (offset : Nat) (value : Word)
  | mboxGo
  deriving DecidableEq, Repr

/-- The house commands 0x01 to 0x0D with their operands (25 R430), each the event of the same name. -/
inductive Command where
  | invalidateTranslations (addr : Nat) (size : Nat)
  | preempt (kind : Nat) (halls : Nat) (which : Word) (service : Bool)
  | release (kind : Nat) (halls : Nat) (which : Word)
  | moveImages (source : Nat) (target : Nat)
  | hallService (hall : Nat) (back : Bool)
  | coreInService (hall : Nat) (core : Nat)
  | retireStack (stack : Nat)
  | recalibrateLink (link : Nat)
  | setTraceRing (hall : Nat) (base : Nat) (size : Nat)
  | isolatePeer (peer : Nat)
  | startHearths (halls : Nat) (core : Nat) (cell : Nat)
  | setStatePool (hall : Nat) (base : Nat) (count : Nat)
  | advanceTraceRing (hall : Nat) (offset : Nat)
  deriving DecidableEq, Repr

/-- A house command as a system core has written it to its command register (25 R429): the core, the physical address of the descriptor, and, once it
has begun, what it is. -/
structure Cmd where
  core : Nat
  desc : Nat
  event : Option Command := none
  deriving DecidableEq, Repr

/-- The attic, the host port and the boot state (25 R429 to R440). The command registers and the descriptors are empty at reset (DESIGN CHOICE, log 110). -/
structure Attic where
  msgs : List AtticMsg := []
  /-- How many of them have gone out as packets (11 R256). -/
  carried : Nat := 0
  /-- DONE words of the commands that are complete, in the order of their completion. -/
  results : List Nat := []
  /-- What the 16 command registers hold: the commands that are not complete, each core's in the order written. -/
  cmds : List Cmd := []
  /-- The words of the system cores' memory in which descriptors stand, by physical address / 8. -/
  memory : Tab Word := []
  /-- Invalidations whose accesses are still to be performed: the range, and the accesses with their contexts (25 R430). -/
  purges : List (Nat × Nat × List (Nat × Nat)) := []
  /-- Releases that are not complete, and the images whose start events are still to be sent (23 R408). -/
  releases : List Command := []
  releasing : List Nat := []
  misuse : Nat := 0
  go : Bool := false
  mbuf : Nat := 0
  completions : List Nat := []
  running : Bool := false
  bootFailed : Bool := false
  bootTries : Nat := 0
  slotB : Bool := false
  slots : Tab Nat := []
  rollback : Nat := 0
  unconfirmed : Bool := false
  /-- The cc at which the update was applied, and how many system cores run the new image (25 R438). -/
  updated : Nat := 0
  changed : Nat := 16
  alarm : Nat := 0
  alarmLevel : Nat := 0
  keyErased : Bool := false
  holding : Bool := false
  reply : List Nat := []
  /-- Host requests that wait: an aperture request for the attic's wake, and what stands behind a waiting write (25 R431, R432). -/
  hostQ : List HostReq := []
  dump : Dump := {}
  deriving DecidableEq, Repr

/-- The time base (24 R413 to R415, 17 R341). -/
structure Clock where
  acc : Nat := 0
  inc : Nat := 0xCCCC_CCCD
  cc : Nat := 0
  ebbE : Nat := 30
  ebbFixed : Bool := false
  counterSet : Bool := false
  launched : Bool := false
  ebbSeen : Nat := 0
  /-- The network port whose time source the servo follows; the other stands by (24 R414). -/
  active : Option Nat := none
  /-- Hardware timestamp of the last Sync message at each network port, from the house counter (24 R414). -/
  syncAt : Tab Nat := []
  /-- For each network port, the house counter as its last delay request left (R414; log 29). -/
  askAt : Tab Nat := []
  port : Nat := 0
  sequence : Nat := 0
  offset : Lane := 0
  timeState : Nat := 3
  deriving DecidableEq, Repr

/-- A migration packet on its way (03 R77): where it goes, who sent it, the task it carries. -/
structure Flight where
  target : Nat
  origin : Nat
  task : Ctx
  /-- The cc at which a packet that a full inbox refused is sent again (03 R78). -/
  resendAt : Option Nat := none
  /-- Bytes of its packet (03 R77). -/
  bytes : Nat := 208
  deriving DecidableEq, Repr

/-- A pre-emption that has not been released (23 R406, R408): its target kind (25 R430), hall mask, queue, launch or GTID, and whether it stops
the rooms' service; `also` holds the gang members that it brings in. -/
structure Preempt where
  kind : Nat
  halls : Nat
  which : Word
  service : Bool
  also : List Word := []
  /-- GTIDs of the tasks that it affects: those that were resident, in migration or being started as it was requested, and their gangs (23 R406). -/
  who : List Word := []
  /-- Every affected context has halted, and the command's result has been given (23 R407). -/
  told : Bool := false
  /-- It stands for command 0x02, which a result answers; a hall command or an alarm answers otherwise. -/
  command : Bool := false
  deriving DecidableEq, Repr

/-- Why a step cannot be taken. -/
inductive Fault where
  /-- Raised by an event that names a unit beyond the counts of 01 R8: no such unit is present, so no house takes the step. Safe:
  the model stops where the hardware has nothing that could go on. -/
  | noSuchUnit (number : Nat)
  deriving DecidableEq, Repr

/-- Why an instruction has no meaning. -/
inductive Refusal where
  /-- Raised by an arm of `exec` whose instruction has no meaning yet. Safe: the model stops. -/
  | notModelled (mnemonic : String)
  deriving DecidableEq, Repr

/-- A bundle whose reply is awaited, for the case that it takes no effect after all (04 R89, 11 R270, 23 R403): the context as it found it, the
bytes and the full/empty bits that it changed, each with its old and its new value, the first number given to an access that it issued, and the
house address of its access. -/
structure Undo where
  ctx : Ctx
  ids : Nat := 0
  at' : Nat := 0
  deriving DecidableEq, Repr

/-- What the makers of the module and of the system have fitted (00, 01 R19, R20; log 13): the form that the ID register shows, and the capacity
in bytes of host memory, of each cellar port and of each peer's memory. -/
structure Fit where
  form : Nat := 2
  host : Nat := 2 ^ 48
  cellar : Tab Nat := (List.range 8).map fun u => (u, 2 ^ 40)
  peer : Tab Nat := (List.range 32).map fun u => (u, 2 ^ 48)
  deriving DecidableEq, Repr

/-- The house. -/
structure State where
  clock : Clock
  mem : List Host.Cell
  full : Tab Bool
  parked : List Parked
  ctxs : Tab Ctx
  cores : Tab Core
  rooms : Tab Room
  halls : Tab Hall
  wings : Tab Wing
  launches : Tab Launch
  replays : Tab Replay
  graphs : List Nat
  trees : Tab Tree
  tlbs : Tab (List TlbEntry)
  root : Nat × Nat
  retired : List Nat
  peers : Tab Nat
  flights : Tab Flight
  cells : Tab Start
  /-- Images by house address. -/
  images : Tab ImgRec
  /-- Device copies of images whose entries have been taken again, by house address, oldest first (log 25). -/
  shadow : Tab (List Nat)
  /-- Pre-emptions not yet released. -/
  preempts : List Preempt
  net : Net
  attic : Attic
  agenda : List Instr
  /-- Events that a bank has kept from taking effect in this cycle, for the next (05 R115). -/
  later : List Instr
  /-- Cores that have looked for a bundle in this cc (05 R108). -/
  looked : List Nat
  /-- By context, the bundles whose replies are awaited. -/
  before : Tab Undo
  /-- House address of the access that the executing bundle has made, and the bytes that its request and its reply carry. -/
  dest : Option (Nat × Nat × Nat)
  cur : Nat
  view : Option Ctx
  latch : Option Nat
  /-- The latched bundle issues in this cycle of its core, and is not one that was held back (05 R108). -/
  issuing : Bool
  fresh : Nat
  nextId : Nat
  fit : Fit
  deriving DecidableEq, Repr

/-- The house right after reset (03 R71, 09 R230, 17 R336, 24 R413): nothing is listed, every context is vacant. -/
def State.reset : State :=
  { clock := {}, mem := [], full := [], parked := [], ctxs := [], cores := [], rooms := [], halls := [], wings := [],
    launches := [], replays := [], graphs := [], trees := [], tlbs := [], root := (0, 0), retired := [], peers := [], flights := [],
    cells := [], images := [], shadow := [], preempts := [], net := {}, attic := {}, agenda := [], later := [], looked := [],
    before := [], dest := none, cur := 0, view := none, latch := none, issuing := false,
    fresh := 0, nextId := 0, fit := {} }

end Sys2Proof.Machine
end

