-- ==== Sys2Proof/Machine/Table.lean ====
section
/-! DEFINITION. Sparse tables: reading, writing and removing an entry. An entry that equals the default is not kept by `tput`,
so that equal tables are equal lists. -/

namespace Sys2Proof.Machine

/-- The entry at `k`, if it is listed. -/
def tfind {α : Type} : Tab α → Nat → Option α
  | [], _ => none
  | (k', v) :: t, k => if k = k' then some v else tfind t k

/-- The value at `k`; `d` where nothing is listed. -/
def tget {α : Type} (d : α) (t : Tab α) (k : Nat) : α := (tfind t k).getD d

/-- The table with `v` at `k`, keys kept rising. -/
def tset {α : Type} : Tab α → Nat → α → Tab α
  | [], k, v => [(k, v)]
  | (k', v') :: t, k, v =>
    if k < k' then (k, v) :: (k', v') :: t
    else if k = k' then (k, v) :: t
    else (k', v') :: tset t k v

/-- The table without an entry at `k`. -/
def tdel {α : Type} : Tab α → Nat → Tab α
  | [], _ => []
  | (k', v) :: t, k => if k = k' then tdel t k else (k', v) :: tdel t k

/-- The table with `v` at `k`, where `d` is what an unlisted key holds. -/
def tput {α : Type} [DecidableEq α] (d : α) (t : Tab α) (k : Nat) (v : α) : Tab α :=
  if v = d then tdel t k else tset t k v

/-- The table without the entries whose keys lie in `[lo, hi)`. -/
def tclear {α : Type} (t : Tab α) (lo hi : Nat) : Tab α := t.filter fun e => e.1 < lo || hi ≤ e.1

/-- Puts an element into a list that rises by `f`, behind those that equal it. -/
def insertUp {α : Type} (f : α → Nat) (x : α) : List α → List α
  | [] => [x]
  | y :: t => if f y ≤ f x then y :: insertUp f x t else x :: y :: t

/-- A list in the rising order of `f`; equal elements keep their order. -/
def sortUp {α : Type} (f : α → Nat) (xs : List α) : List α := xs.foldl (fun t x => insertUp f x t) []

/-- The lowest of the numbers `k, k+1, …, k+n-1` that satisfies `f`. -/
def lowest (f : Nat → Bool) : Nat → Nat → Option Nat
  | _, 0 => none
  | k, n + 1 => if f k then some k else lowest f (k + 1) n

end Sys2Proof.Machine
end

