-- ==== Sys2Proof/Machine/Geometry.lean ====
section
/-! DEFINITION. Numbers, coordinates and addresses of the house: 01 R8 to R12 and R21, 03 R50, 09 R219 and R220, and the
distances of 11 R269, R270 and R441. Barrel core c of hall h is core 192 h + c, porch core p is core 6144 + p, and slot t of core k
is context 16 k + t. -/

namespace Sys2Proof.Machine

/-- Barrel cores in the house (R8). -/
def barrelCores : Nat := 6144

/-- Barrel and porch cores (R8). -/
def allCores : Nat := 6240

/-- Core of a context. -/
def coreOf (ctx : Nat) : Nat := ctx / 16

/-- Slot of a context. -/
def slotOf (ctx : Nat) : Nat := ctx % 16

/-- Whether a core is a porch core. -/
def isPorch (core : Nat) : Bool := barrelCores ≤ core

/-- Mesh column of a hall (R10). -/
def hallX (h : Nat) : Nat := 2 * (h / 4 % 2) + h % 2

/-- Mesh row of a hall (R10). -/
def hallY (h : Nat) : Nat := 2 * (h / 8) + h / 2 % 2

/-- Hall at mesh coordinates (R10). -/
def hallAt (x y : Nat) : Nat := 4 * (2 * (y / 2) + x / 2) + 2 * (y % 2) + x % 2

/-- Distance of two naturals. -/
def gap (a b : Nat) : Nat := (a - b) + (b - a)

/-- Mesh hops between two halls while every link is in service (R269). -/
def meshHops (a b : Nat) : Nat := gap (hallX a) (hallX b) + gap (hallY a) (hallY b)

/-- State of hall `h`. -/
def State.hall (s : State) (h : Nat) : Hall := tget {} s.halls h

/-- State of room `r`. -/
def State.room (s : State) (r : Nat) : Room := tget {} s.rooms r

/-- State of core `k`. -/
def State.core (s : State) (k : Nat) : Core := tget {} s.cores k

/-- State of context `c`. -/
def State.ctx (s : State) (c : Nat) : Ctx := tget {} s.ctxs c

/-- Launch with number `n`, when live. -/
def State.launch? (s : State) (n : Nat) : Option Launch := tfind s.launches n

/-- The hall with a changed state. -/
def State.setHall (s : State) (h : Nat) (f : Hall → Hall) : State := { s with halls := tset s.halls h (f (s.hall h)) }

/-- The room with a changed state. -/
def State.setRoom (s : State) (r : Nat) (f : Room → Room) : State := { s with rooms := tset s.rooms r (f (s.room r)) }

/-- The core with a changed state. -/
def State.setCore (s : State) (k : Nat) (f : Core → Core) : State := { s with cores := tset s.cores k (f (s.core k)) }

/-- The context with a changed state. -/
def State.setCtx (s : State) (c : Nat) (f : Ctx → Ctx) : State := { s with ctxs := tset s.ctxs c (f (s.ctx c)) }

/-- A live launch with a changed state; nothing changes where the number is free. -/
def State.setLaunch (s : State) (n : Nat) (f : Launch → Launch) : State :=
  match s.launch? n with
  | some l => { s with launches := tset s.launches n (f l) }
  | none => s

/-- Whether a wing is in service (R12). -/
def State.wingUp (s : State) (w : Nat) : Bool := (tget {} s.wings w).up

/-- Whether a hall's units accept accesses (R12, 25 R433 step 4). -/
def State.hallUp (s : State) (h : Nat) : Bool := (s.hall h).service != .offline && s.wingUp (h / 4)

/-- Whether a hall takes new work: in service and not being taken out (25 R433). -/
def State.hallOpen (s : State) (h : Nat) : Bool := (s.hall h).service == .inService && s.wingUp (h / 4)

/-- Whether a stack is in service (R12, 25 R437). -/
def State.stackUp (s : State) (n : Nat) : Bool := !s.retired.contains n && s.wingUp (n / 3)

/-- Reference hall of a wing's porch contexts: the lowest-numbered hall in service (R441). -/
def State.referenceHall (s : State) (w : Nat) : Nat := (lowest s.hallUp (4 * w) 4).getD (4 * w)

/-- The hall a core issues from: its own, or a porch core's reference hall (R441). -/
def State.hallOf (s : State) (core : Nat) : Nat :=
  if isPorch core then s.referenceHall ((core - barrelCores) / 12) else core / 192

/-- Room of a barrel core (R11), counted through the house. -/
def roomOf (core : Nat) : Nat := core / 8

/-- The unit that a house address outside paged space names, with an offset or index within it (R21, R50, R220). -/
inductive AUnit where
  | localStore (core off : Nat)
  | porch (stack off : Nat)
  | mark (hall off : Nat)
  | future (hall off : Nat)
  | launchWord (hall word : Nat)
  | queueTable (hall off : Nat)
  | hearthWord (hall core : Nat)
  | paged
  | unassigned
  deriving DecidableEq, Repr

/-- Offset of a hall-service word within its window (R50). -/
def serviceUnit (hall o : Nat) : AUnit :=
  if o < 0x800 then .launchWord hall (o / 8)
  else if 0x1000 ≤ o ∧ o < 0x1800 then .queueTable hall (o - 0x1000)
  else if 0x2000 ≤ o ∧ o < 0x2600 then .hearthWord hall ((o - 0x2000) / 8)
  else .unassigned

/-- The unit at house address `h` (R21, R22). -/
def unitOf (h : Nat) : AUnit :=
  if 0x100_0000_0000 ≤ h then (if h < 0x400_0000_0000_0000 then .paged else .unassigned)
  else if 0x1_0000_0000 ≤ h ∧ h < 0x1_8000_0000 then
    let o := h - 0x1_0000_0000
    let c := o % 0x400_0000 / 0x4_0000
    if c < 192 then .localStore (192 * (o / 0x400_0000) + c) (o % 0x4_0000) else .unassigned
  else if 0x2_0000_0000 ≤ h ∧ h < 0x2_0018_0000 then .porch ((h - 0x2_0000_0000) / 0x1_0000) (h % 0x1_0000)
  else if 0x3_0000_0000 ≤ h ∧ h < 0x3_0400_0000 then .mark ((h - 0x3_0000_0000) / 0x20_0000) (h % 0x20_0000)
  else if 0x4_0000_0000 ≤ h ∧ h < 0x4_0200_0000 then .future ((h - 0x4_0000_0000) / 0x10_0000) (h % 0x10_0000)
  else if 0xF_0000_0000 ≤ h ∧ h < 0xF_2000_0000 then serviceUnit ((h - 0xF_0000_0000) / 0x100_0000) (h % 0x100_0000)
  else .unassigned

/-- House address of a byte of a core's local store (R21). -/
def localAddr (core off : Nat) : Nat := 0x1_0000_0000 + core / 192 * 0x400_0000 + core % 192 * 0x4_0000 + off

/-- House address of a hall's launch word (R50). -/
def launchAddr (hall word : Nat) : Nat := 0xF_0000_0000 + hall * 0x100_0000 + word * 8

/-- House address of a core's hearth word (R50). -/
def hearthAddr (core : Nat) : Nat := 0xF_0000_0000 + core / 192 * 0x100_0000 + 0x2000 + core % 192 * 8

/-- House address of a mark word of a hall (17 R336). -/
def markAddr (hall word : Nat) : Nat := 0x3_0000_0000 + hall * 0x20_0000 + word * 8

/-- House address of a future entry (14 R324). -/
def futureAddr (hall index : Nat) : Nat := 0x4_0000_0000 + hall * 0x10_0000 + index * 16

/-- Whether the unit at a house address outside paged space refuses accesses as out of service (R12). -/
def State.offline (s : State) : AUnit → Bool
  | .localStore core _ => !s.hallUp (core / 192)
  | .porch stack _ => !s.stackUp stack
  | .mark hall _ | .future hall _ | .launchWord hall _ | .queueTable hall _ | .hearthWord hall _ => !s.hallUp hall
  | .paged => false
  | .unassigned => false

/-- Where an access is performed, for its distance (13 R298). -/
inductive Site where
  | core (k : Nat)
  | hall (h : Nat)
  | stack (n : Nat)
  | cellar (u : Nat)
  | gable
  | peer (p : Nat)
  deriving DecidableEq, Repr

/-- Lowest of the four hall entries of a wing in a scope table (R269). -/
def wingDistance (t : Tab Nat) (w : Nat) : Nat :=
  min (min (tget 0 t (4 * w)) (tget 0 t (4 * w + 1))) (min (tget 0 t (4 * w + 2)) (tget 0 t (4 * w + 3)))

/-- Distance entry of a site in a scope table: entries 0 to 31 are the halls, 32 to 39 the cellar ports, 40 the gable and 41 to 72
the peers (R270, log 16). -/
def tableDistance (t : Tab Nat) : Site → Nat
  | .core k => tget 0 t (k / 192)
  | .hall h => tget 0 t h
  | .stack n => wingDistance t (n / 3)
  | .cellar u => tget 0 t (32 + u)
  | .gable => tget 0 t 40
  | .peer p => tget 0 t (41 + p)

/-- Distance of a site from an issuing core (R269, R441). -/
def State.distance (s : State) (core : Nat) (site : Site) : Nat :=
  let t := (s.hall (s.hallOf core)).scope
  if isPorch core then
    match site with
    | .core k =>
      if k = core then 0
      else if isPorch k then (if (k - barrelCores) / 4 = (core - barrelCores) / 4 then 1 else wingDistance t ((k - barrelCores) / 12))
      else tableDistance t site
    | .stack n => if n = (core - barrelCores) / 4 then 1 else tableDistance t site
    | _ => tableDistance t site
  else
    match site with
    | .core k =>
      if k = core then 0
      else if isPorch k then wingDistance t ((k - barrelCores) / 12)
      else if roomOf k = roomOf core then 1
      else tableDistance t site
    | _ => tableDistance t site

end Sys2Proof.Machine
end

