-- ==== Sys2Proof/Machine/Memory.lean ====
section
/-! DEFINITION. Memory: one list of bytes for every storage of the house (09 R212, R220, R221). A byte outside paged space has its
house address as its key; the bytes of the tiers follow above 2^60. -/

namespace Sys2Proof.Machine

/-- What an unlisted byte reads as: 0 (09 R230, 17 R336; log 2), but the generation of a future entry is 1 (14 R324). -/
def blank (a : Nat) : Byte := if 0x4_0000_0000 ≤ a ∧ a < 0x4_0200_0000 ∧ a % 16 = 8 then 1 else 0

/-- The byte at key `a`. -/
def memGet (m : List Host.Cell) (a : Nat) : Byte := tget (blank a) m a

/-- Memory with byte `v` at key `a`. -/
def memPut (m : List Host.Cell) (a : Nat) (v : Byte) : List Host.Cell := if v = blank a then tdel m a else tset m a v

/-- The `n`-byte value at key `a`, little-endian (00 R4). -/
def memLoad (m : List Host.Cell) (a : Nat) : Nat → Nat
  | 0 => 0
  | n + 1 => (memGet m a).toNat + 256 * memLoad m (a + 1) n

/-- Memory with the low `n` bytes of `v` at key `a`, little-endian (00 R4). -/
def memStore (m : List Host.Cell) (a v : Nat) : Nat → List Host.Cell
  | 0 => m
  | n + 1 => memStore (memPut m a (BitVec.ofNat 8 v)) (a + 1) (v / 256) n

/-- Keys strictly rising. -/
def rising : List Host.Cell → Bool
  | [] => true
  | [_] => true
  | a :: b :: t => a.1 < b.1 && rising (b :: t)

/-- The canonical form of memory: keys rising, and no entry equal to what an unlisted byte reads as. -/
def Memory.wf (m : List Host.Cell) : Bool := rising m && m.all fun c => c.2 != blank c.1

/-- Key of byte `a` of HBM stack `n`. -/
def hbmKey (n a : Nat) : Nat := 0x1000_0000_0000_0000 + n * 0x1_0000_0000_0000 + a

/-- Key of byte `a` behind cellar port `u`. -/
def cellarKey (u a : Nat) : Nat := 0x2000_0000_0000_0000 + u * 0x1_0000_0000_0000 + a

/-- Key of byte `a` of host memory. -/
def hostKey (a : Nat) : Nat := 0x4000_0000_0000_0000 + a

/-- Key of byte `a` of peer `p`. -/
def peerKey (p a : Nat) : Nat := 0x6000_0000_0000_0000 + p * 0x1_0000_0000_0000 + a

/-- The `n`-byte value at a key. -/
def State.load (s : State) (key n : Nat) : Nat := memLoad s.mem key n

/-- A state with the low `n` bytes of `v` stored at a key. -/
def State.store (s : State) (key n v : Nat) : State := { s with mem := memStore s.mem key v n }

/-- The 64-bit word at a key. -/
def State.loadW (s : State) (key : Nat) : Word := word (s.load key 8)

/-- Stores a list of 64-bit words. -/
def State.storeWs (s : State) (key : Nat) : List Word → State
  | [] => s
  | w :: t => (s.store key 8 w.toNat).storeWs (key + 8) t

/-- Stores a list of bytes. -/
def State.storeBytes (s : State) (key : Nat) : List Byte → State
  | [] => s
  | b :: t => (s.store key 1 b.toNat).storeBytes (key + 1) t

/-- Whether the full/empty word at house address `h` is full (09 R230). -/
def State.isFull (s : State) (h : Nat) : Bool := tget false s.full h

/-- Sets a full/empty bit. -/
def State.setFull (s : State) (h : Nat) (b : Bool) : State := { s with full := tput false s.full h b }

/-- Memory key of a translated address. -/
def Phys.key : Phys → Nat
  | .house h => h
  | .hbm n a => hbmKey n a
  | .cellar u a => cellarKey u a
  | .host a => hostKey a
  | .peer p a => peerKey p a

/-- The unit that performs an access, for its distance (13 R298). -/
def Phys.site : Phys → Site
  | .house h =>
    match unitOf h with
    | .localStore core _ => .core core
    | .porch stack _ => .stack stack
    | .mark hall _ | .future hall _ | .launchWord hall _ | .queueTable hall _ | .hearthWord hall _ => .hall hall
    | .paged | .unassigned => .gable
  | .hbm n _ => .stack n
  | .cellar u _ => .cellar u
  | .host _ => .gable
  | .peer p _ => .peer p

/-- The core that owns a word, for migration (03 R75). -/
def Phys.owner (h : Nat) : Phys → Option Nat
  | .house a =>
    match unitOf a with
    | .localStore core _ => some core
    | _ => none
  | .hbm n _ => some (barrelCores + 4 * n + bits h 13 12)
  | _ => none

/-- Whether the unit behind a translated address is out of service (R12, R437). -/
def State.physOffline (s : State) : Phys → Bool
  | .house h => s.offline (unitOf h)
  | .hbm n _ => !s.stackUp n
  | .cellar u _ => !s.wingUp u
  | .host _ => false
  | .peer _ _ => false

end Sys2Proof.Machine
end

