-- ==== Sys2Proof/Machine/Translate.lean ====
section
/-! DEFINITION. Paging (09 R222 to R226): the four-level walk, the leaf checks and the TLB of each port. Memory ports are numbered
16 x hall + port, porch ports 512 + porch core, and the host port's own TLB is port 608 (25 R431). -/

namespace Sys2Proof.Machine

/-- Index of `h` at a level (R224). -/
def levelIndex (h : Nat) : Nat → Nat
  | 0 => bits h 57 39
  | 1 => bits h 38 30
  | 2 => bits h 29 21
  | _ => bits h 20 16

/-- Log2 of the page a leaf at a level maps (R224). -/
def levelShift : Nat → Nat
  | 0 => 39
  | 1 => 30
  | 2 => 21
  | _ => 16

/-- Whether a leaf's fields keep the rules of R224 at a level. -/
def leafOk (e : Word) (level : Nat) : Bool :=
  level != 0 && fld e 7 2 == 0 && bits e.toNat 47 0 / 256 * 256 % 2 ^ levelShift level == 0 &&
    (let tier := fld e 63 62
     if tier = 0 then fld e 61 57 < 24 && fld e 56 52 == 0
     else if tier = 1 then fld e 61 57 == 0 && fld e 56 52 < 8
     else if tier = 2 then fld e 61 57 == 0 && fld e 56 52 == 0
     else fld e 61 57 == 0)

/-- Whether a pointer's fields keep the rules of R224 at a level: its next table lies at a 4 KiB or, at level 3, 256-byte boundary. -/
def pointerOk (e : Word) (level : Nat) : Bool :=
  level < 3 && fld e 7 2 == 0 && fld e 63 62 == 0 && fld e 56 48 == 0 && fld e 61 57 < 24 &&
    (level == 2 || fld e 11 8 == 0)

/-- A walk from a table at `addr` of a stack through the remaining levels: the leaf and the log2 of its page (R224). A table
beyond its stack's capacity reads as zeros (DEDUCED, log 109), and one in a stack out of service reads as ever (DESIGN CHOICE, log 120). -/
def walkFrom (m : List Host.Cell) (h : Nat) : List Nat → Nat → Nat → Except XReason (Word × Nat)
  | [], _, _ => .error .malformed
  | l :: ls, stack, addr =>
    let e := word (memLoad m (hbmKey stack (addr + 8 * levelIndex h l)) 8)
    if fld e 1 0 = 0 then .error .invalid
    else if fld e 1 0 = 1 then
      (if pointerOk e l then walkFrom m h ls (fld e 61 57) (bits e.toNat 47 8 * 256) else .error .malformed)
    else if fld e 1 0 = 2 then (if leafOk e l then .ok (e, levelShift l) else .error .malformed)
    else .error .malformed

/-- The walk of R224 from the translation root. -/
def State.walk (s : State) (h : Nat) : Except XReason (Word × Nat) := walkFrom s.mem h [0, 1, 2, 3] s.root.1 s.root.2

/-- Key of a TLB set: for a page of 2^n bytes, set (h >> n) mod 2,048 of the port (R225). -/
def tlbSet (port h n : Nat) : Nat := port * 2048 + h / 2 ^ n % 2048

/-- The entries of a set that map `h` with pages of 2^n bytes. -/
def State.tlbMatches (s : State) (port h n : Nat) : List TlbEntry :=
  (tget [] s.tlbs (tlbSet port h n)).filter fun e => e.size == n && e.base == h / 2 ^ n

/-- All entries of a port that map `h`, for the three page sizes. -/
def State.tlbHits (s : State) (port h : Nat) : List TlbEntry :=
  s.tlbMatches port h 30 ++ s.tlbMatches port h 21 ++ s.tlbMatches port h 16

/-- A port's TLB without the entries that map `h`. -/
def State.tlbPurge (s : State) (port h : Nat) : State :=
  let drop := fun (t : Tab (List TlbEntry)) (n : Nat) =>
    tput [] t (tlbSet port h n) ((tget [] t (tlbSet port h n)).filter fun e => !(e.size == n && e.base == h / 2 ^ n))
  { s with tlbs := drop (drop (drop s.tlbs 30) 21) 16 }

/-- A port's TLB with an entry made the most recently used of its set; the least recently used of four leaves (R225). -/
def State.tlbUse (s : State) (port h : Nat) (e : TlbEntry) : State :=
  let k := tlbSet port h e.size
  let old := (tget [] s.tlbs k).filter fun x => !(x.size == e.size && x.base == e.base)
  { s with tlbs := tput [] s.tlbs k (e :: old.take 3) }

/-- Translation of `h` at a port to a leaf and page size (R225): one hit is used, a multiple hit is purged, a miss walks and fills. -/
def State.lookup (s : State) (port h : Nat) : State × Except XReason (Word × Nat) :=
  match s.tlbHits port h with
  | [e] => (s.tlbUse port h e, .ok (e.leaf, e.size))
  | hits =>
    let s := if hits.isEmpty then s else s.tlbPurge port h
    match s.walk h with
    | .ok (leaf, n) => (s.tlbUse port h { base := h / 2 ^ n, size := n, leaf := leaf }, .ok (leaf, n))
    | .error r => (s, .error r)

/-- Whether an Eslia link leads to a peer: one that leads there directly, or any where none does (R222; log 84). -/
def State.peerUp (s : State) (p : Nat) : Bool :=
  let direct := (List.range 16).filter (Config.peerLink p ·)
  (if direct.isEmpty then List.range 16 else direct).any fun n => (tget ({} : Link) s.net.links (56 + n)).up

/-- Where a leaf places `h`, or "absent" where no present memory holds it, as beyond the capacity of the unit it names (R221, R222, 01 R19, R20). -/
def State.place (s : State) (leaf : Word) (n h : Nat) : Except XReason Phys :=
  let a := bits leaf.toNat 47 8 * 256 + h % 2 ^ n
  let tier := fld leaf 63 62
  let u := fld leaf 56 52
  if tier = 0 then (if a < Config.stackCap then .ok (.hbm (fld leaf 61 57) a) else .error .absent)
  else if tier = 1 then (if a < tget 0 s.fit.cellar u then .ok (.cellar u a) else .error .absent)
  else if tier = 2 then (if a < s.fit.host then .ok (.host a) else .error .absent)
  else if (tfind s.peers u).isSome ∧ s.peerUp u = true ∧ a < tget 0 s.fit.peer u then .ok (.peer u a) else .error .absent

/-- Rights of R213 by SEGNAR bit: R, W, X, A, M, K, D, F (10 R242). -/
abbrev rR : Nat := 0
/-- Right W. -/
abbrev rW : Nat := 1
/-- Right X. -/
abbrev rX : Nat := 2
/-- Right A. -/
abbrev rA : Nat := 3
/-- Right M. -/
abbrev rM : Nat := 4
/-- Right K. -/
abbrev rK : Nat := 5
/-- Right D. -/
abbrev rD : Nat := 6
/-- Right F. -/
abbrev rF : Nat := 7

/-- Translation with the leaf's rights (R224): `right` is R, W, X or A. The segment check comes first (09 R214). A leaf that
lacks the right and names an absent frame gives rights (DEDUCED, log 108). -/
def State.translate (s : State) (port h right : Nat) : State × Except XReason Phys :=
  match s.lookup port h with
  | (s, .error r) => (s, .error r)
  | (s, .ok (leaf, n)) => if bitOf leaf.toNat (48 + right) then (s, s.place leaf n h) else (s, .error .rights)

/-- The port that translates an access of a core (R223). -/
def State.portOf (s : State) (core h : Nat) : Nat :=
  if isPorch core then 512 + (core - barrelCores) else 16 * s.hallOf core + bits h 9 6

/-- A house address as the device reads or writes it: paged space through the port, every other unit at itself. -/
def State.reach (s : State) (port h right : Nat) : State × Except XReason Phys :=
  match unitOf h with
  | .paged => s.translate port h right
  | _ => (s, .ok (.house h))

end Sys2Proof.Machine
end

