-- ==== Sys2Proof/Machine/Fabric.lean ====
section
/-! DEFINITION. How packets enter the network (11 R255 to R262, R441): the links and routers of the mesh, the ports of the sluices, where an access is
performed, and the packets that carry requests and replies. What becomes of a packet on its way stands in Network.lean. -/

namespace Sys2Proof.Machine

/-- Adds an event at the tail of the agenda. -/
def State.post (s : State) (e : Instr) : State := { s with agenda := s.agenda ++ [e] }

/-- Adds events at the tail of the agenda. -/
def State.postAll (s : State) (es : List Instr) : State := { s with agenda := s.agenda ++ es }

/-- A command is complete (25 R429): 0 done, 1 refused, 2 unit offline, 3 partly done. Its DONE word is added to the results, and stands in the descriptor of
the oldest such command that has begun. -/
def State.finished (s : State) (e : Command) (result : Nat) (value : Nat := 0) : State :=
  let w := 2 ^ 63 + value % 2 ^ 32 * 2 ^ 16 + result
  let a := { s.attic with results := s.attic.results ++ [w] }
  match a.cmds.find? fun c => c.event == some e with
  | none => { s with attic := a }
  | some c => { s with attic := { a with cmds := a.cmds.erase c, memory := tset a.memory (c.desc / 8 + 7) (word w) } }

/-! Links. Numbers 0 to 23 are the mesh links along x, 24 to 51 those along y, 52 to 55 the gable fords, 56 to 71 the Eslia links (log 15). -/

/-- The link between two neighbouring halls. -/
def linkOf (a b : Nat) : Nat :=
  let x := min (hallX a) (hallX b)
  let y := min (hallY a) (hallY b)
  if hallY a = hallY b then 3 * y + x else 24 + 4 * y + x

/-- Whether a mesh link crosses a wing boundary, between two halls that differ in their wing (01 R18). -/
def fordLink (n : Nat) : Bool :=
  if n < 24 then hallAt (n % 3) (n / 3) / 4 != hallAt (n % 3 + 1) (n / 3) / 4
  else hallAt (n % 4) ((n - 24) / 4) / 4 != hallAt (n % 4) ((n - 24) / 4 + 1) / 4

/-- State of a link. -/
def State.link (s : State) (n : Nat) : Link := tget {} s.net.links n

/-- A link with a changed state. -/
def State.setLink (s : State) (n : Nat) (f : Link → Link) : State :=
  { s with net := { s.net with links := tset s.net.links n (f (s.link n)) } }

/-- Neighbours of a hall in the mesh, those along x first (R262). -/
def neighbours (h : Nat) : List Nat :=
  let x := hallX h
  let y := hallY h
  (if x = 3 then [] else [hallAt (x + 1) y]) ++ (if x = 0 then [] else [hallAt (x - 1) y]) ++
    (if y = 7 then [] else [hallAt x (y + 1)]) ++ if y = 0 then [] else [hallAt x (y - 1)]

/-- Output direction from a hall to a neighbour: 0 x + 1, 1 x - 1, 2 y + 1, 3 y - 1 (R257). -/
def directionOf (a b : Nat) : Nat :=
  if hallX a < hallX b then 0 else if hallX b < hallX a then 1 else if hallY a < hallY b then 2 else 3

/-- The neighbour of a hall in a direction, where there is one. -/
def neighbour (hall dir : Nat) : Option Nat := (neighbours hall).find? fun b => directionOf hall b == dir

/-- Whether a wing's routers forward: no wing that has been declared lost and rerouted around does (R270). -/
def State.forwards (s : State) (h : Nat) : Bool := s.wingUp (h / 4)

/-- Whether a packet can pass from a hall to a neighbour. -/
def State.passable (s : State) (a b : Nat) : Bool := (s.link (linkOf a b)).up && s.forwards a && s.forwards b

/-- Flits in which a mesh link or a ford carries a packet: 64 bytes each (R255), on a ford two of 32 for each of those (R265). -/
def flitsOn (ford : Bool) (p : Packet) : Nat := (16 + p.bytes + 63) / 64 * (if ford then 2 else 1)

/-- Whether the buffer of an end of a link, 32 KiB, has room for a packet (R265, R268), and the link works (R266). -/
def Link.room (l : Link) (tag : Nat) (p : Packet) : Bool :=
  let held := ((l.retry.filter fun x => x.1 == tag).map fun x => 64 * flitsOn false x.2).foldl (· + ·) 0
  l.up && !l.retraining && decide (held + 64 * flitsOn false p ≤ 32768)

/-- Whether a link between halls crosses a wing boundary (01 R18). -/
def isFord (a b : Nat) : Bool := a / 4 != b / 4

/-- Whether a link takes a packet of a hall now: it works, and a ford's retry buffer has room, 32 KiB per direction (R265, R266). -/
def State.linkTakes (s : State) (hall b : Nat) (p : Packet) : Bool :=
  let l := s.link (linkOf hall b)
  s.passable hall b && !l.retraining && (!isFord hall b || l.room hall p)

/-- The direction that a packet takes from a hall on its way to its destination (R262, R270): along x, then along y, or along the path that the attic has
installed; a relaxed packet takes any direction of a minimal path whose output has buffer space, x on a tie. Whether the buffer beyond a link that works has space is a free
choice (log 84). -/
def State.choose (s : State) (hall : Nat) (p : Packet) : State × Option Nat :=
  let dst := p.dstHall
  match tfind s.net.routes (32 * hall + dst) with
  | some b => (s, if s.passable hall b then some (directionOf hall b) else none)
  | none =>
    let ways := (neighbours hall).filter fun b => decide (meshHops b dst < meshHops hall dst)
    if p.cls = 1 then
      let whole := ways.filter (s.passable hall ·)
      let takes := whole.filter fun b => s.linkTakes hall b p
      match if takes.isEmpty then whole else takes with
      | [] => (s, none)
      | [b] => (s, some (directionOf hall b))
      | b :: c :: _ =>
        let free := Config.freeChoice s.fresh % 4
        ({ s with fresh := s.fresh + 1 }, some (directionOf hall (if free = 2 then c else b)))
    else
      (s, match ways with
          | b :: _ => if s.passable hall b then some (directionOf hall b) else none
          | [] => none)

/-! Ports. -/

/-- rotl8 of a line (R258). -/
def rotl8 (line : Nat) : Nat := line * 2 % 256 + line / 128

/-- The switch of a stage that a line leads to (R258). -/
def switchOf (line : Nat) : Nat := rotl8 line / 2

/-- The hall of a list that is nearest to a hall, the first of several. -/
def nearest (hall : Nat) : List Nat → Nat
  | [] => 0
  | [a] => a
  | a :: t => if meshHops hall a ≤ meshHops hall (nearest hall t) then a else nearest hall t

/-- The line by which a core's packets enter its hall's sluice (R257): its own; those of porch core p of a wing enter the reference hall's at memory
port p, since no line is allotted to a base die (R441; log 84). -/
def lineOf (core : Nat) : Nat := if isPorch core then 208 + (core - barrelCores) % 12 else core % 192

/-- The hall and port of the station of an access to `h` at a site (R257, R269): a core, a porch core by its reference hall (R441), a mark bank, a hall-service port, a memory port of the
nearest hall of a stack's wing, a cellar port, a gable ford or an Eslia link. Which of several such ports serves an address is the model's choice
(log 84). -/
def State.exitOf (s : State) (hall h : Nat) : Site → Nat × Nat
  | .core k => (s.hallOf k, lineOf k)
  | .hall g =>
    (g, match unitOf h with
        | .mark _ o => 192 + o / 8 % 16
        | _ => 224 + h / 8 % 8)
  | .stack n => (nearest hall ((List.range 4).map (4 * (n / 3) + ·)), 208 + bits h 9 6)
  | .cellar u => (4 * u + 1, 252 + h / 64 % 2)
  | .gable => (nearest hall (([0, 1, 4, 5] : List Nat).filter fun g => (s.link (52 + g % 4 + g / 4 * 2)).up), 248 + h / 64 % 2)
  | .peer p =>
    let whole := (List.range 16).filter fun n => (s.link (56 + n)).up
    let direct := whole.filter (Config.peerLink p ·)
    (nearest hall ((if direct.isEmpty then whole else direct).map fun n => 4 * (n / 2) + 3 * (n % 2)), 250 + h / 64 % 2)

/-- Place of an access, for its distance; none where no translation stands (13 R298). -/
def State.siteOf (s : State) (core h : Nat) : Option Site :=
  match (s.reach (s.portOf core h) h rR).2 with
  | .ok p => some p.site
  | .error .rights =>
    match s.walk h with
    | .ok (leaf, n) => (s.place leaf n h).toOption.map Phys.site
    | .error _ => none
  | .error _ => none

/-- Whether an access to a site stays on its core's room crossbar or base die (R441; 01 R11). -/
def besides (core : Nat) : Site → Bool
  | .core k => (!isPorch core && !isPorch k && roomOf k == roomOf core) || (isPorch core && isPorch k && (k - barrelCores) / 4 == (core - barrelCores) / 4)
  | .stack n => isPorch core && n == (core - barrelCores) / 4
  | _ => false

/-- Where a core's access to `h` goes in the network, and from there where it is not performed there: a paged access of a barrel core goes to the memory port
of its own hall that translates it (09 R223), and on to its station. None where no packet carries it. -/
def State.goesTo (s : State) (core h : Nat) : Option ((Nat × Nat) × Option (Nat × Nat)) :=
  let hall := s.hallOf core
  match unitOf h, s.siteOf core h with
  | .paged, none => if isPorch core then none else some ((hall, 208 + bits h 9 6), none)
  | .paged, some p =>
    let e := s.exitOf hall h p
    if isPorch core then (if besides core p then none else some (e, none))
    else some ((hall, 208 + bits h 9 6), if e = (hall, 208 + bits h 9 6) then none else some e)
  | _, some p => if besides core p then none else some (s.exitOf hall h p, none)
  | _, none => none

/-! Packets. -/

/-- The direction of a packet's path from a hall, whether its link works now or not (R262, R270). -/
def State.wayFrom (s : State) (hall dst : Nat) : Nat :=
  match tfind s.net.routes (32 * hall + dst) with
  | some b => directionOf hall b
  | none => (((neighbours hall).find? fun b => decide (meshHops b dst < meshHops hall dst)).map (directionOf hall)).getD 0

/-- A packet enters the sluice of its source's hall, or of the hall that it reaches over the mesh; the port that it leaves by is its destination's, or one of
the mesh link on its way (R257). -/
def State.enterSluice (s : State) (hall line : Nat) (p : Packet) : State :=
  let r := if hall = p.dstHall then (s, none) else s.choose hall p
  let exit := if hall = p.dstHall then p.dstPort else 232 + 4 * r.2.getD (s.wayFrom hall p.dstHall) + p.id % 4
  let e : SwEntry := { hall := hall, stage := 0, line := line, pkt := { p with dir := r.2, leg := 0 }, exit := exit, came := s.clock.cc }
  State.post { r.1 with net := { r.1.net with sluice := r.1.net.sluice ++ [e] } } (.sluiceSwitch hall 0 (switchOf line))

/-- The gable ford or the Eslia link behind a port of a hall (R257; log 15). -/
def attachOf (hall port : Nat) : Option Nat :=
  if port = 248 ∨ port = 249 then
    (if hall = 0 then some 52 else if hall = 1 then some 53 else if hall = 4 then some 54 else if hall = 5 then some 55 else none)
  else if port = 250 ∨ port = 251 then
    (if hall % 4 = 0 then some (56 + hall / 4 * 2) else if hall % 4 = 3 then some (57 + hall / 4 * 2) else none)
  else none

/-- Flits that a packet adds to those of an Eslia link, 240 bytes of content each, after `sent` bytes: packets are packed back to back (R268). -/
def esliaFlits (sent : Nat) (p : Packet) : Nat := (sent + 16 + p.bytes + 239) / 240 - (sent + 239) / 240

/-- The counters of a link as a packet goes out on it from an end (R265, R268). -/
def Link.count (l : Link) (link tag : Nat) (ford : Bool) (p : Packet) : Link :=
  if link < 56 then { l with sent := (l.sent + flitsOn ford p) % 2 ^ 64 }
  else if tag < 32 then
    { l with sent := (l.sent + esliaFlits l.bytesOut p) % 2 ^ 64, bytesOut := l.bytesOut + 16 + p.bytes, places := tset l.places p.id l.bytesOut }
  else
    { l with sent := (l.sent + esliaFlits l.bytesIn p) % 2 ^ 64, bytesIn := l.bytesIn + 16 + p.bytes, places := tset l.places p.id l.bytesIn }

/-- A packet goes out on a link from an end: its sender keeps it until the far end has it whole (R265). -/
def State.putOn (s : State) (link tag : Nat) (ford : Bool) (p : Packet) : State :=
  State.post (s.setLink link fun l => { (l.count link tag ford p) with retry := l.retry ++ [(tag, p)] }) (.meshHop (tag % 32) p.id)

/-- The relaxed accesses that a packet carries, or whose answer it carries: context and access number. -/
def Packet.relaxes (p : Packet) : List (Nat × Nat) :=
  if p.cls = 1 then p.who
  else if p.cls = 2 then
    p.cargo.flatMap fun e => match e with
      | .relaxedLoadData c i => [(c, i)]
      | .relaxedAcknowledgement c i => [(c, i)]
      | .remoteUpdate c i => [(c, i)]
      | .relaxedFaultReply c i _ _ => [(c, i)]
      | .reductionFaultReply c i _ => [(c, i)]
      | .combinedReplySplit _ _ _ => if p.op = 32 then [] else p.who
      | _ => []
  else []

/-- A packet is lost with a part of the fabric that has failed (R270): the wait entries of requests combined in it are freed, and relaxed accesses, lost on their way
or with their answer, receive the unit-offline fault (log 84). What the house's own units tell one another is sent again, unless it was for a wing that is lost. -/
def State.losePacket (s : State) (p : Packet) : State :=
  let s := { s with net := { s.net with waits := s.net.waits.filter fun w => !(w.first.any p.who.contains) } }
  if p.cls = 3 ∨ (p.cls = 2 ∧ p.who = []) then (if s.wingUp (p.dstHall / 4) then s.postAll p.cargo else s)
  else s.postAll (p.relaxes.flatMap fun x => [.relaxedFaultReply x.1 x.2 6 3, .reductionFaultReply x.1 x.2 3])

/-- Whether a packet that stands at an end of a gable ford or an Eslia link goes out on it. -/
def Packet.crosses (p : Packet) (link tag : Nat) : Bool :=
  if tag < 32 then p.dstHall == tag && attachOf tag p.dstPort == some link else attachOf (tag % 32) p.srcPort == some link

/-- A packet at an end of a gable ford or an Eslia link goes out on it, behind those of its class that wait there, or waits (R265, R268). A link that is out of service
loses it (R270; 25 R436). -/
def State.offer (s : State) (link tag : Nat) (p : Packet) : State :=
  if !(s.link link).up then s.losePacket p
  else if (s.link link).room tag p && !(s.net.mesh.any fun e => e.1 == tag && e.2.cls == p.cls && e.2.crosses link tag) then
    s.putOn link tag true p
  else { s with net := { s.net with mesh := s.net.mesh ++ [(tag, p)] } }

/-- A new packet, from one hall and port, or line of a switch, to another hall and port; one from beyond a gable ford or an Eslia link crosses that first (R265,
R268). -/
def State.sendFrom (s : State) (ford : Option Nat) (source target : Nat × Nat) (p : Packet) : State :=
  let p := { p with id := s.nextId, srcHall := source.1, srcPort := source.2, dstHall := target.1, dstPort := target.2 }
  let s := { s with nextId := s.nextId + 1 }
  match ford with
  | some n => s.offer n (32 + source.1) p
  | none => s.enterSluice source.1 source.2 p

/-- A new packet, from what stands behind a hall's port. -/
def State.send (s : State) (source target : Nat × Nat) (p : Packet) : State := s.sendFrom (attachOf source.1 source.2) source target p

/-- The hall and line of a core (R257, R441). -/
def State.lineAt (s : State) (core : Nat) : Nat × Nat := (s.hallOf core, lineOf core)

/-- The port of a hall's dispatcher: the first of its hall-service ports (R257; log 84). -/
def hallPort (hall : Nat) : Nat × Nat := (hall, 224)

/-- The port of a wing's dispatcher: the second hall-service port of the wing's first hall (R257; log 84). -/
def wingPort (wing : Nat) : Nat × Nat := (4 * wing, 225)

/-- What one unit of the house tells another, with `back` what the other acknowledges: a packet of the system class (R256; log 84), or no packet where
both stand at one port. -/
def State.convey (s : State) (source target : Nat × Nat) (bytes : Nat) (cargo : List Instr) (back : Option Nat := none) : State :=
  if source = target then s.postAll cargo else s.send source target { cls := 3, bytes := bytes, cargo := cargo, back := back }

/-- A packet of the plain class with what its arrival brings about; with `back`, its reply carries it (R255, R256). -/
def State.request (s : State) (ctx h bytes : Nat) (back : Option Nat) (cargo : List Instr) : State :=
  match s.goesTo (coreOf ctx) h with
  | none => s.postAll cargo
  | some (g, on) =>
    s.send (s.lineAt (coreOf ctx)) g { who := [(ctx, 0)], bytes := bytes, back := back, cargo := cargo, on := on }

/-- The answer of a station to a relaxed access of a context: an event there, by a packet of the reply class where one carries it (R256). -/
def State.answer (s : State) (ctx h bytes : Nat) (e : Instr) : State :=
  match s.goesTo (coreOf ctx) h with
  | none => s.post e
  | some (g, on) => s.send (on.getD g) (s.lineAt (coreOf ctx)) { cls := 2, who := [(ctx, 0)], bytes := bytes, cargo := [e] }

/-- Packets of the network on their way. -/
def Net.packets (n : Net) : List Packet :=
  n.sluice.map (·.pkt) ++ n.mesh.map (·.2) ++ n.links.flatMap fun l => l.2.retry.map (·.2)

/-- Whether a fetch-and-add travels still, and combined with no other (11 R259). -/
def Net.alone (n : Net) (ctx id : Nat) : Bool := (n.packets ++ n.arrived).any fun p => p.op == 32 && p.cls != 2 && p.who == [(ctx, id)]

/-- Whether a packet is a plain request of a context, or its reply: a failed link loses it (R270). -/
def Packet.serves (p : Packet) (ctx : Nat) : Bool := p.cargo.contains (.replyArrival ctx) || (p.op == 32 && p.who.any (·.1 == ctx))

/-- Whether a packet is a plain request that a context awaits, or its reply. -/
def Packet.awaited (p : Packet) : Bool := p.op == 32 || p.who.any fun x => p.serves x.1

/-- A link is taken out of service (R266, R270): it loses the plain requests and replies on it, and the wait entries of requests that were combined in them;
what else it carries goes back to the sender's router, before what waits there (R262), or waits there for the link. A gable ford or an Eslia link loses every request on it (25 R436). -/
def State.linkDown (s : State) (n : Nat) : State :=
  let (lost, kept) := (s.link n).retry.partition fun x => x.2.awaited || (decide (52 ≤ n) && x.2.cls == 1)
  let s := s.setLink n fun l => { l with up := false, retraining := false, retry := if n < 52 then [] else kept }
  let s := lost.foldl (fun s x => s.losePacket x.2) s
  if n < 52 then
    State.postAll { s with net := { s.net with mesh := (kept.map fun x => (x.1, { x.2 with dir := none, leg := 0 })) ++ s.net.mesh } }
      (kept.map fun x => .meshHop x.1 x.2.id)
  else s.postAll ((s.net.mesh.filter fun e => e.2.crosses n e.1).map fun e => .meshHop (e.1 % 32) e.2.id)

/-- What retraining links do in a cc (R266): one that has retrained sends its packets again, and one that has not within 100 µs is taken out of service, so that
the attic reroutes; a reroute that waits for packets looks again (R270). -/
def State.tendLinks (s : State) : State :=
  let s := s.net.links.foldl (fun s l =>
    if !l.2.retraining then s
    else if l.2.begun + 125000 ≤ s.clock.cc then (s.linkDown l.1).post .reroute
    else if l.2.ends ≤ s.clock.cc then
      State.postAll (s.setLink l.1 fun x => l.2.retry.foldl (fun x e => x.count l.1 e.1 (decide (52 ≤ l.1) || fordLink l.1) e.2) { x with retraining := false })
        ((l.2.retry.map fun x => .meshHop (x.1 % 32) x.2.id) ++ s.net.mesh.map fun x => .meshHop (x.1 % 32) x.2.id)
    else s) s
  if s.net.holding then s.post .reroute else s

/-- A half of a link begins to retrain while the other carries all traffic (25 R435): 1 half B, 2 half A. -/
def State.beginHalf (s : State) (n phase : Nat) : State :=
  let t := s.clock.cc
  let k := Config.retrainTime n s.fresh
  State.setLink { s with fresh := s.fresh + 1 } n fun l =>
    { l with recal := phase, halfBegun := t, halfEnds := t + k, retrains := (l.retrains + 1) % 2 ^ 64,
             halfA := if phase = 1 then l.halfA else false, halfB := if phase = 1 then false else l.halfB }

/-- A recalibration is complete, and its command has its result: 1 where a half has been left out (25 R435). -/
def State.endRecal (s : State) (n result : Nat) : State :=
  (s.setLink n fun l => { l with recal := 0 }).finished (.recalibrateLink n) result

/-- What recalibrations do in a cc (25 R435): a half that has retrained carries traffic again, half A after half B; one that has not within 100 µs is left out. -/
def State.tendHalves (s : State) : State :=
  s.net.links.foldl (fun s l =>
    if l.2.recal = 0 then s
    else if l.2.halfBegun + 125000 ≤ s.clock.cc then s.endRecal l.1 1
    else if l.2.halfEnds ≤ s.clock.cc then
      let s := s.setLink l.1 fun l => if l.recal = 1 then { l with halfB := true } else { l with halfA := true }
      if l.2.recal = 1 then s.beginHalf l.1 2 else s.endRecal l.1 0
    else s) s

/-- Whether a fetch-and-add is on its way to its station, or waits there. -/
def State.adding (s : State) (x : Nat × Nat) : Bool :=
  s.net.arrived.any (fun p => p.op == 32 && p.who.contains x) || s.net.packets.any fun p => p.cls == 0 && p.op == 32 && p.who.contains x

/-- Invalidations whose accesses have all been performed are complete (25 R430 command 0x01). -/
def State.endPurges (s : State) : State :=
  let done := s.attic.purges.filter fun p => !p.2.2.any s.adding
  let s := { s with attic := { s.attic with purges := s.attic.purges.filter fun p => p.2.2.any s.adding } }
  done.foldl (fun s p => s.finished (.invalidateTranslations p.1 p.2.1) 0) s

/-- Whether a relaxed access travels to its station. -/
def State.travels (s : State) (ctx id : Nat) : Bool := s.net.packets.any fun p => p.cls == 1 && p.who.contains (ctx, id)

/-- The operation code, width and operand by which a relaxed operation may combine, the bytes that its request carries, and those of its reply
(R255, R259). -/
def RelOp.packet : RelOp → (Nat × Nat × Nat) × Nat × Nat
  | .load _ size _ => ((64, 0, 0), 0, size)
  | .store _ _ => ((64, 0, 0), 8, 0)
  | .vload _ ls => ((64, 0, 0), 0, 4 * ls.length)
  | .vstore ls => ((64, 0, 0), 4 * ls.length, 0)
  | .red op size b => ((op, size, b.toNat % 2 ^ (8 * size)), 8, 0)
  | .mdep n => ((16, 2, n), 8, 0)
  | .mdepx n => ((17, 2, n), 8, 0)

end Sys2Proof.Machine
end

