-- ==== Sys2Proof/Machine/Ops.lean ====
section
/-! DEFINITION. The shared operations of the meanings: registers of the executing context, waits, faults, trace records, address
resolution and its checks (09 R214, R215, R220, R227), migration (03 R75 to R77), parking and waking at a word's station (09 R230 to
R232, 14 R323, R328), relaxed accesses (05 R112, 10 R236) and fence points (13 R299, 14 R318).

While a bundle executes, `State.cur` names its context, `State.view` holds the context as the bundle found it, and every operand is
read there (04 R88); results go to the context itself. -/

namespace Sys2Proof.Machine

/-- Outcome of a meaning. -/
abbrev Res := Host.Outcome State Fault Refusal

/-- A register g0 to g23 of a context; g0 reads as zero (02 R27). -/
def Ctx.rg (c : Ctx) (r : Nat) : Word := if r = 0 then 0 else tget 0 c.g r

/-- Writes a register; a write to g0 is discarded (02 R27). The registers written since block entry are kept for 03 R77. -/
def Ctx.wr (c : Ctx) (r : Nat) (v : Word) : Ctx :=
  if r = 0 then c else { c with g := tput 0 c.g r v, written := if bitOf c.written r then c.written else c.written + 2 ^ r }

/-- A segment register of a context. -/
def Ctx.seg (c : Ctx) (k : Nat) : Seg := tget 0 c.segs k

/-- The claim word of 02 R36. -/
def Ctx.claim (c : Ctx) : Word :=
  let lc := if c.lanes = 64 then 3 else if c.lanes = 32 then 2 else if c.lanes = 16 then 1 else 0
  word (c.tile + (if c.tile = 0 then 0 else 256) + (if c.lanes = 0 then 0 else 1 + 2 * lc))

/-- Whether a context holds a claim (02 R30). -/
def Ctx.pinned (c : Ctx) : Bool := c.lanes != 0 || c.tile != 0

/-- Lanes and tile set of a context with what a CLAIMV or CLAIMT has been granted whose bundle still waits for its V syllable (06 R153). -/
def Ctx.reserved (c : Ctx) : Nat × Nat :=
  let held := fun v =>
    match decodeBundle c.bits with
    | .ok (.claimv _ _, _) => (max c.lanes v, c.tile)
    | .ok (.claimt _ _, _) => (c.lanes, c.tile ||| v)
    | _ => (c.lanes, c.tile)
  match c.status, c.given with
  | .ready, some v => held v.toNat
  | .waiting _, some v => held v.toNat
  | _, _ => (c.lanes, c.tile)

/-- Whether such a grant is held for it. -/
def Ctx.claiming (c : Ctx) : Bool := c.reserved != (c.lanes, c.tile)

/-- Launch number in a context's GID (02 R28). -/
def Ctx.lnum (c : Ctx) : Nat := fld c.gid 63 48

/-- The status word as read: PINNED, RLF and the stored bits (02 R34). -/
def Ctx.stWord (c : Ctx) : Word :=
  setFld (setFld c.st 7 7 (b2n (!c.rlog.isEmpty))) 1 1 (b2n c.pinned)

/-- A lane of a vector register. -/
def Ctx.lane (c : Ctx) (v i : Nat) : Lane := tget 0 c.vregs (64 * v + i)

/-- Writes a lane of a vector register. -/
def Ctx.setLane (c : Ctx) (v i : Nat) (x : Lane) : Ctx := { c with vregs := tput 0 c.vregs (64 * v + i) x }

/-- The executing context. -/
def State.me (s : State) : Ctx := s.ctx s.cur

/-- The executing context as the bundle found it (04 R88). -/
def State.src (s : State) : Ctx := s.view.getD s.me

/-- Changes the executing context. -/
def State.setMe (s : State) (f : Ctx → Ctx) : State := s.setCtx s.cur f

/-- Operand register. -/
def State.rg (s : State) (r : BitVec 5) : Word := s.src.rg r.toNat

/-- Writes a result register. -/
def State.wr (s : State) (r : BitVec 5) (v : Word) : State := s.setMe fun c => c.wr r.toNat v

/-- Bit `i` of the predicate word as the bundle found it. -/
def State.pbit (s : State) (i : Nat) : Bool := bitOf s.src.p.toNat i

/-- Core of the executing context. -/
def State.myCore (s : State) : Nat := coreOf s.cur

/-- Hall of the executing context. -/
def State.myHall (s : State) : Nat := s.hallOf s.myCore

/-- Room of the executing context. -/
def State.myRoom (s : State) : Nat := roomOf s.myCore

/-- Value of the house counter (24 R413). -/
def State.now (s : State) : Nat := s.clock.acc / 0x1_0000_0000

/-- The current ebb number (17 R341). -/
def State.ebbNumber (s : State) : Nat := s.now / 2 ^ s.clock.ebbE

/-- A fresh free value (00 R1; log 9). -/
def State.free (s : State) : Word × State := (Config.freeWord s.fresh, { s with fresh := s.fresh + 1 })

/-- Adds to a core's counter (24 R421), modulo 2^64. -/
def State.bump (s : State) (core number amount : Nat) : State :=
  s.setCore core fun k => { k with counters := tset k.counters number ((tget 0 k.counters number + amount) % 2 ^ 64) }

/-- SOURCE of a fault or trace record (23 R397): hall, core, slot and unit. -/
def sourceOf (hall core slot unit : Nat) : Nat := hall * 2 ^ 19 + core % 256 * 2 ^ 11 + slot * 128 + unit * 16

/-- SOURCE of a context: unit 0 for a barrel core, 1 for a porch core. -/
def State.ctxSource (s : State) (ctx : Nat) : Nat :=
  let k := coreOf ctx
  sourceOf (s.hallOf k) (if isPorch k then k - barrelCores else k % 192) (slotOf ctx) (b2n (isPorch k))

/-- Where a hall's record of a kind comes from: the attic, for what it corrects and raises (24 R415), or by its SOURCE (23 R397) a station, a core or an engine
of its room. -/
def State.sourcePort (s : State) (hall kind source : Nat) : Nat × Nat :=
  let core := source / 2 ^ 11 % 256
  if kind = 0x07 ∨ kind = 0x0A then s.exitOf hall 0 .gable
  else
    match source / 16 % 8 with
    | 4 => hallPort hall
    | 1 => (hall, lineOf (barrelCores + core))
    | _ => (hall, core)

/-- Sends a trace record of 32 bytes to a hall's ring (24 R416, R419; 11 R256). -/
def State.traceTo (s : State) (hall kind source : Nat) (gtid : Word) (payload : Nat) : State :=
  s.convey (s.sourcePort hall kind source) (hallPort hall) 32
    [.traceAppend hall (word s.now) gtid (word (kind + source * 256 + payload % 2 ^ 32 * 2 ^ 32)) (word (payload / 2 ^ 32))]

/-- Sends a trace record of a context, counted by its core (24 R421). -/
def State.traceCtx (s : State) (ctx kind payload : Nat) : State :=
  (s.traceTo (s.hallOf (coreOf ctx)) kind (s.ctxSource ctx) (s.ctx ctx).gid payload).bump (coreOf ctx) 28 1

/-- Slot class of a wait (05 R123): 2 not ready on memory, 3 not ready on message. A wait that the rule's table does not name counts as one on memory
(log 92). -/
def Wait.cls : Wait → Nat
  | .parked _ => 3
  | .ebb _ => 3
  | .flight => 3
  | _ => 2

/-- Notes a slot's last wait in the rotation (05 R123). -/
def State.noteWait (s : State) (ctx : Nat) (w : Wait) : State :=
  s.setCore (coreOf ctx) fun k => { k with seen := tset k.seen (16 + slotOf ctx) w.cls }

/-- The executing context waits, with its bundle still to take effect: the PC names the bundle. -/
def State.hold (s : State) (w : Wait) : State :=
  (s.setMe fun c => { c with status := .waiting w, pc := s.src.pc, place := s.src.place, parkedAt := s.clock.cc }).noteWait s.cur w

/-- A house command, which the attic issues; while it holds, it issues none (R440). -/
def command (s : State) (go : Res) : Res := if s.attic.holding then .next s else go

/-- A context parks on accesses that are held at their ports (09 R228). -/
def State.parkHeld (s : State) (ctx : Nat) : State := (s.setCtx ctx fun c => { c with status := .waiting .held }).noteWait ctx .held

/-- An event that has lost a bank is tried again in the next cycle (R115). -/
def State.defer (s : State) (e : Instr) : State := { s with later := s.later ++ [e] }

/-- The bundle waits, its context out of the rotation, and is tried again in the next cc (05 R111; DEDUCED, log 117). -/
def State.tryLater (s : State) : State := (s.hold .fence).defer (.stationWake s.cur 0)

/-- Whether a context stands at its bundle or goes on with it: ready, or waiting for a reply already sent. -/
def CStatus.going : CStatus → Bool
  | .ready => true
  | .waiting .reply => true
  | _ => false

/-- Whether a packet carries an access of the executing context to `h`. -/
def State.remote (s : State) (h : Nat) : Bool := (s.goesTo s.myCore h).isSome

/-- The access that the executing bundle makes, and the bytes that its request and its reply carry (11 R255; log 84); of two, one that a packet carries. -/
def State.toward (s : State) (h bytes back : Nat) : State :=
  match s.dest with
  | some d => if d.1 ≠ h && s.remote d.1 then s else { s with dest := some (h, bytes, back) }
  | none => { s with dest := some (h, bytes, back) }

/-- The packet that brings a reply to the executing context: one of the request, and then that of its reply, where its access leaves the room (11 R256;
log 4). They have come to a bundle that executes as they do. -/
def State.sendOut (s : State) : State :=
  if s.src.flying.isSome then s
  else
  match s.dest with
  | some (h, bytes, back) => s.request s.cur h bytes (some back) [.replyArrival s.cur]
  | none => s.post (.replyArrival s.cur)

/-- The executing context waits for the reply of an access already performed (05 R111; log 4): one reply for the bundle. One that the other syllable of its
bundle has ended or stopped does not wait. -/
def State.await (s : State) : State :=
  if s.me.status = .waiting .reply then s
  else if s.me.status.going then
    State.sendOut ((s.setMe fun c => { c with status := .waiting .reply, parkedAt := s.clock.cc }).noteWait s.cur .reply)
  else s

/-- A fault of the executing bundle. -/
def State.flt (s : State) (kind : Nat) (reason addr info0 info1 : Nat := 0) : FaultRec :=
  { kind := kind, reason := reason, pc := s.src.pc, addr := word addr, info0 := word info0, info1 := word info1, stamp := word s.now }

/-- A context stops on a fault (23 R400). Faults of launch 0 and slot-state faults are reported to the attic, and the context halts
for the debug path, with its image written (03 R71, 24 R424); every other fault is handed over by the event FAULT_HANDOVER. A fault reply
that came before is handed over first, and the bundle reissues; where the bundle completed, that reply takes an entry of its own (10 R236). -/
def State.raiseAt (s : State) (ctx : Nat) (f : FaultRec) : State :=
  let c := s.ctx ctx
  let (f, more) := match c.lateFault with
    | none => (f, [])
    | some g => if f.completed then (f, [g]) else (g, [])
  let s := s.setCtx ctx fun c => { c with lateFault := none, others := c.others ++ more }
  let attic := c.lnum = 0 || f.kind = 9
  let s := if attic then { s with attic := { s.attic with msgs := s.attic.msgs ++ [AtticMsg.fault c.gid ctx f] } } else s
  if attic && !s.attic.dump.requested then (s.setCtx ctx fun c => { c with status := .halted 4 }).post (.imageWrite ctx)
  else (s.setCtx ctx fun c => { c with status := .faulted f, lostAt := s.clock.cc }).post (.faultHandover ctx)

/-- The executing bundle raises a fault: the PC names the bundle unless the bundle completed (23 R399). -/
def State.raise (s : State) (f : FaultRec) : State :=
  let s := if f.completed then s else s.setMe fun c => { c with pc := s.src.pc, place := s.src.place }
  s.raiseAt s.cur f

/-- INFO0 of the page-refused record (23 R399). -/
def AccKind.code : AccKind → Nat
  | .load => 0
  | .store => 1
  | .atomic => 2
  | .fetch => 3
  | .vector => 4
  | .delta => 5

/-- The page-refused fault (23 R399) of an access at `h`, with the attic's code. -/
def State.refusal (s : State) (pc : Word) (h code : Nat) (acc : AccKind) : FaultRec :=
  { kind := 0x0C, reason := code % 256, pc := pc, addr := word h, info0 := word acc.code, stamp := word s.now }

/-- Illegal-instruction fault of the executing bundle (23 R399). -/
def State.illegal (s : State) : State := s.raise (s.flt 1 0 0 s.src.bits.toNat)

/-- Privilege fault of the executing bundle. -/
def State.privilege (s : State) : State := s.raise (s.flt 2 0 0 s.src.bits.toNat)

/-- Operand fault (23 R399): field 0 D, 1 A, 2 B, the register and its value. -/
def State.operand (s : State) (field : Nat) (r : BitVec 5) (reason : Nat := 0) : State :=
  s.raise (s.flt 0x0B reason 0 (field + r.toNat * 256) (s.rg r).toNat)

/-- Claim fault (23 R399) naming parts or a lane. -/
def State.claimFault (s : State) (parts : Nat) : State := s.raise (s.flt 0x0A 0 0 s.src.claim.toNat parts)

/-- Claim fault of a porch context: CLAIM 0 and 0 (05 R442). -/
def State.porchFault (s : State) : State := s.raise (s.flt 0x0A)

/-! Segments and addresses. -/

/-- BASE of a segment (09 R213). -/
def segBase (g : Seg) : Nat := bits g.toNat 57 0

/-- LIMIT of a segment (09 R213). -/
def segLimit (g : Seg) : Nat := bits g.toNat 107 64

/-- Whether a segment's reserved bits are zero (09 R213). -/
def segClean (g : Seg) : Bool := bits g.toNat 127 116 == 0 && bits g.toNat 63 58 == 0

/-- A right of a segment, by SEGNAR bit (09 R213, 10 R242). -/
def segHas (g : Seg) (right : Nat) : Bool := bitOf g.toNat (108 + right)

/-- The kinds of access of 09 R220. A span is what one instruction or unit reads beyond a scalar of at most 8 bytes, which the queue table does not
admit (03 R50). -/
inductive Cls where
  | scalarLoad
  | span
  | scalarStore
  | vector
  | copy
  | tile
  | atomic
  | sync
  | fetch
  | mark
  | fut
  | delta
  deriving DecidableEq, Repr

/-- Whether a unit accepts an access (09 R220). Full/empty operations on launch and hearth words are told apart by 03 R50 before this. -/
def AUnit.accepts : AUnit → Cls → Bool
  | .localStore _ _, c => c != .mark && c != .fut && c != .delta
  | .porch _ _, c => c != .mark && c != .fut && c != .delta && c != .sync && c != .tile
  | .mark _ _, c => c == .mark
  | .future _ _, c => c == .fut
  | .launchWord _ _, c => c == .sync
  | .hearthWord _ _, c => c == .sync
  | .queueTable _ _, c => c == .scalarLoad
  | .paged, c => c != .mark && c != .fut && c != .sync
  | .unassigned, _ => false

/-- The house-address reason of an access (09 R220, 01 R12, R22): 1 unassigned, 2 access kind, 3 unit offline, the access kind before unit
offline (DESIGN CHOICE, log 119). -/
def State.unitFault (s : State) (h : Nat) (c : Cls) : Option Nat :=
  let u := unitOf h
  if u = .unassigned then some 1
  else if !u.accepts c then some 2
  else if s.offline u then some 3
  else none

/-- End of the run of addresses of one kind that holds `h`: the local stores of a hall, the porch buffers, or paged space. -/
def runEnd (h : Nat) : Nat :=
  match unitOf h with
  | .localStore core _ => 0x1_0000_0000 + core / 192 * 0x400_0000 + 192 * 0x4_0000
  | .porch _ _ => 0x2_0018_0000
  | .paged => 0x400_0000_0000_0000
  | _ => h + 8

/-- The first house address of a span that some access of a class cannot use, with its reason (09 R220, 01 R12). -/
def State.spanFault (s : State) (h n : Nat) (c : Cls) : Option (Nat × Nat) :=
  match s.unitFault h c with
  | some r => some (h, r)
  | none =>
    if runEnd h < h + n then some (runEnd h, (s.unitFault (runEnd h) c).getD 1)
    else
      match unitOf h with
      | .porch k _ =>
        ((List.range ((h + n - 1 - 0x2_0000_0000) / 0x1_0000 + 1 - k)).find? fun i => !s.stackUp (k + i)).map fun i =>
          (0x2_0000_0000 + (k + i) * 0x1_0000, 3)
      | _ => none

/-- The address register value of a segment and an exact offset (10 R233; log 17). -/
def regForm (a : Word) (off : Int) : Nat := fld a 63 61 * 2 ^ 61 + wrapI 61 off

/-- Resolution of an access (09 R214, R215, 10 R233): the house address, or the fault of the first failing step. `k` is added to the
offset, and `right` is the right needed. `acc` is the access size that an alignment record carries, where the rule of a span states one. -/
def State.resolve (s : State) (a : Word) (k : Int) (size align right : Nat) (c : Cls) (acc : Nat := size) : Except FaultRec Nat :=
  let seg := fld a 63 61
  let g := s.src.seg seg
  let off : Int := (fld a 60 0 : Int) + k
  let addr := regForm a off
  if !segClean g || !segHas g right then .error (s.flt 3 0 addr (seg + 2 ^ right * 256))
  else if off < 0 ∨ 2 ^ 61 ≤ off ∨ (segLimit g : Int) < off + size then .error (s.flt 4 0 addr seg)
  else if off % align ≠ 0 then .error (s.flt 5 0 addr acc)
  else
    let h := segBase g + off.toNat
    if 2 ^ 58 ≤ h then .error (s.flt 6 1 h)
    else
      match s.unitFault h c with
      | some r => .error (s.flt 6 r h)
      | none => .ok h

/-- Whether the segment an address names has the right M (03 R75). -/
def State.touches (s : State) (a : Word) : Bool := segHas (s.src.seg (fld a 63 61)) rM

/-- Whether the header of the current block carries NM (02 R30). -/
def Ctx.noMigrate (c : Ctx) : Bool :=
  match c.place with
  | .block _ b => bitOf b.toNat 54
  | _ => false

/-- Whether the executing task stays where it is whatever it touches: it holds claims, its block carries NM, or it is a hearth (02 R30; 03 R71,
R75). -/
def State.stays (s : State) : Bool := s.src.pinned || s.src.noMigrate || bitOf s.src.st.toNat 0

/-- Whether an access or a command that a context has been given number `id` for, or that stands at `pc`, belongs to a bundle whose fetch-and-add or MFIELD is on its way:
it is not begun before that reply, since the bundle takes effect whole or not at all (04 R89; log 52). -/
def State.pendingId (s : State) (ctx id : Nat) : Bool := (tfind s.before ctx).any fun u => decide (u.ids ≤ id)

/-- The same of a command, by the PC of its bundle. -/
def State.pendingPc (s : State) (ctx : Nat) (pc : Word) : Bool := (tfind s.before ctx).any fun u => u.ctx.pc == pc

/-- Whether a word of a local store has an uncorrectable error (23 R403). -/
def State.badWord (s : State) (h : Nat) : Bool :=
  match unitOf h with
  | .localStore core off => (s.core core).badWords.contains (off / 8)
  | _ => false

/-- Commands of a context that its room's copy queues hold (10 R253). -/
def State.copiesOf (s : State) (ctx : Nat) (gid : Word) : List CopyCmd :=
  if isPorch (coreOf ctx) then []
  else ((s.room (roomOf (coreOf ctx))).copyQ.flatMap (·.2)).filter fun q => q.ctx == ctx && q.gid == gid

/-- Commands of a context that its room's tile queue holds (12 R277). -/
def State.tilesOf (s : State) (ctx : Nat) (gid : Word) : List TileCmd :=
  if isPorch (coreOf ctx) then []
  else (s.room (roomOf (coreOf ctx))).tileQ.filter fun q => q.ctx == ctx && q.gid == gid

/-- A slot event for a core's hearth word, produced by the hall dispatcher (03 R69); that a task has left its slot is the core's news to it (11 R256). -/
def State.hearthEvent (s : State) (core kind addr slot : Nat) : State :=
  if isPorch core then s
  else
    let e := word (kind * 2 ^ 60 + addr + slot)
    let hall := core / 192
    let s := if kind = 3 then s.setCore core fun k => { k with reaping := slot :: k.reaping } else s
    (s.setHall hall fun h => { h with events := h.events ++ [(core, e)] }).convey (if kind = 3 then (hall, core % 192) else hallPort hall) (hallPort hall) 8
      [.slotEvent hall]

/-- A slot is free: the dispatcher looks for work, the core's inbox first (15 R331); a porch core starts the oldest arrival in its inbox itself. -/
def State.freed (s : State) (core : Nat) : State :=
  if isPorch core then
    match (s.core core).inbox with
    | f :: _ => s.post (.migrationArrival f)
    | [] => s
  else s.post (.slotEvent (core / 192))

/-- Removes the task from a slot. -/
def State.vacate (s : State) (ctx : Nat) : State := ({ s with ctxs := tdel s.ctxs ctx }).freed (coreOf ctx)

/-- RLOG of a context (02 R31): the entry count and the overflow bit. -/
def Ctx.rlogWord (c : Ctx) : Nat := c.rlog.length + (if c.rovf then 16 else 0)

/-- A fence point whose wait is over: a non-empty reduction log hands the task to its handler (14 R318), reported late. -/
def State.checkLog (s : State) (go : State → State) : State :=
  if s.src.rlog.isEmpty then go s else s.raise { (s.flt 0x13 0 0 s.src.rlogWord) with late := true }

/-- Registers that a migration packet carries: the live-in mask and those written since block entry (03 R77). -/
def Ctx.carried (c : Ctx) (r : Nat) : Bool :=
  bitOf c.written r ||
    (match c.place with
     | .block _ b => bitOf b.toNat (8 + r)
     | _ => false)

/-- Registers as a packet delivers them: those outside MASK are free values (03 R77). -/
def carryRegs (c : Ctx) (fresh : Nat) : Nat → Tab Word
  | 0 => []
  | n + 1 =>
    let t := carryRegs c fresh n
    if n = 0 then t else tput 0 t n (if c.carried n then c.rg n else Config.freeWord (fresh + n))

/-- Bytes of a task's migration packet: 208 + 8n (03 R77). -/
def migrationBytes (c : Ctx) : Nat := 208 + 8 * ((List.range 24).filter c.carried).length

/-- A migration packet goes to the owner's core: over the crossbar within a room, else through the network (03 R77; 11 R256). -/
def State.migrationPacket (s : State) (core id owner bytes : Nat) : State :=
  if besides core (.core owner) then s.post (.migrationArrival id)
  else s.send (s.lineAt core) (s.exitOf (s.hallOf core) 0 (.core owner)) { bytes := bytes, cargo := [.migrationArrival id] }

/-- The executing task leaves for the owner of the word it touches (03 R76): its relaxed accesses and copy commands complete first
(10 R253), its reduction log is checked (14 R318), and its slot becomes vacant, its last wait a migration in flight (05 R123). -/
def State.depart (s : State) (owner : Nat) : State :=
  let c := s.src
  if !s.me.relaxed.isEmpty || !s.me.frontQ.isEmpty || !(s.copiesOf s.cur c.gid).isEmpty || !(s.tilesOf s.cur c.gid).isEmpty then s.hold .migrate
  else s.checkLog fun s =>
    let t := { c with g := carryRegs c s.fresh 24, place := .walk, status := .ready, lastIssue := none, bits := 0, flying := none, early := none }
    let id := s.nextId
    let s := { s with flights := tset s.flights id { target := owner, origin := s.cur, task := t, bytes := migrationBytes c }, nextId := id + 1,
                      fresh := s.fresh + 24 }
    let s := ((((s.bump (coreOf s.cur) 26 1).noteWait s.cur .flight).vacate s.cur)).hearthEvent (coreOf s.cur) 3 0 (slotOf s.cur)
    s.migrationPacket (coreOf s.cur) id owner (migrationBytes c)

/-- What preparing an access gives: the place to perform it, or the state of a context that does not go on. -/
inductive Go where
  | go (s : State) (p : Phys)
  | stop (s : State)

/-- Parks the executing context on a translation fault and reports it to the attic (09 R227). -/
def State.parkTranslation (s : State) (h : Nat) (acc : AccKind) (why : XReason) : State :=
  let n := s.nextId
  let s := (s.hold (.translation h acc why)).setMe fun c => { c with ask := n }
  { s with attic := { s.attic with msgs := s.attic.msgs ++ [.translation s.me.gid s.cur h acc why] }, nextId := n + 1 }

/-- Addresses of an outstanding relaxed access. -/
def Relaxed.addrs (r : Relaxed) : List Nat :=
  match r.op with
  | .vload _ ls => ls.map (·.2)
  | .vstore ls => ls.map (·.2)
  | _ => [r.h]

/-- Whether a relaxed operation touches the aligned 8-byte word of `h`. -/
def Relaxed.names (r : Relaxed) (h : Nat) : Bool := r.addrs.any fun x => x / 8 == h / 8

/-- Whether an outstanding relaxed access, RED or deposit of the executing context at the word is not acknowledged yet (13 R296). -/
def State.conflicts (s : State) (h : Nat) : Bool := s.me.relaxed.any fun r => r.names h

/-- Whether a house address lies in a core's local store. -/
def ownOf (core h : Nat) : Bool :=
  match unitOf h with
  | .localStore k _ => k == core
  | _ => false

/-- Whether a house address lies in the executing core's own local store. -/
def State.own (s : State) (h : Nat) : Bool := ownOf s.myCore h

/-- The address that a relaxed access's packet goes to: of a vector access, the first of its lanes outside its core's store (log 84). -/
def Relaxed.target (core : Nat) (r : Relaxed) : Nat := (r.addrs.find? fun x => !ownOf core x).getD r.h

/-- The bank of a local store that holds a house address. -/
def bankOf (h : Nat) : Option (Nat × Nat) :=
  match unitOf h with
  | .localStore core o => some (core, o / 8 % 32)
  | _ => none

/-- Banks of a core's store are granted in this cycle (05 R114). -/
def State.takeBanks (s : State) (core : Nat) (bs : List Nat) : State :=
  if bs.isEmpty then s
  else s.setCore core fun k => { k with busy := bs.foldl (fun m b => if bitOf m b then m else m + 2 ^ b) k.busy }

/-- The bank of the word at a house address is granted. -/
def State.useBank (s : State) (h : Nat) : State :=
  match bankOf h with
  | some (core, b) => s.takeBanks core [b]
  | none => s

/-- The banks of the words at some house addresses are granted. -/
def State.useBanks (s : State) (hs : List Nat) : State := hs.foldl State.useBank s

/-- Prepares a plain or atomic access at house address `h` (09 R223, R227, 03 R75, 13 R296, 23 R403). `m` says that the segment has
the right M. Bytes beyond the first word or page are not looked at by themselves (DESIGN CHOICE, log 122). -/
def State.prepare (s : State) (h right : Nat) (acc : AccKind) (m : Bool) : Go :=
  match s.reach (s.portOf s.myCore h) h right with
  | (s, .error why) => .stop (s.parkTranslation h acc why)
  | (s, .ok p) =>
    if s.physOffline p then .stop (s.raise (s.flt 6 3 h))
    else if s.badWord h then .stop (s.raise (s.flt 0x0D 3 h))
    else
      let owner := p.owner h
      if m && !s.stays && owner.isSome && owner != some s.myCore then
        .stop (s.depart (owner.getD 0))
      else if s.conflicts h then .stop (s.hold .fence)
      else
        let s := s.useBank h
        .go (if acc = .load then s.toward h 0 8 else if acc = .store then s.toward h 8 0 else s.toward h 8 8) p

/-! Parking and waking at a word's station. -/

/-- The deferred list that serves a word: a core's, a hall dispatcher's or a hall's waiter list (09 R231, 14 R323, R324), with its
capacity. -/
def listOf (h : Nat) : Nat × Nat :=
  match unitOf h with
  | .localStore core _ => (core, 256)
  | .launchWord hall _ => (10000 + hall, 256)
  | .hearthWord hall _ => (10000 + hall, 256)
  | .future hall _ => (20000 + hall, 4096)
  | _ => (30000, 0)

/-- Entries of the list that serves a word. -/
def State.listCount (s : State) (h : Nat) : Nat := (s.parked.filter fun q => (listOf q.word).1 == (listOf h).1).length

/-- The executing context parks at a word (09 R230, R231); a full list raises the deferred-list fault. -/
def State.parkAt (s : State) (h : Nat) (k : ParkKind) : State :=
  if (listOf h).2 ≤ s.listCount h then s.raise (s.flt 0x0E 0 h)
  else
    let s := State.hold { s with parked := s.parked ++ [{ word := h, ctx := s.cur, kind := k : Parked }] } (.parked h)
    match if s.src.flying.isSome then none else s.dest with
    | some (a, bytes, _) => s.request s.cur a bytes none []
    | none => s

/-- WAIT of a future's entry, [15] of its second word, is 0 once none waits there any more (14 R324). -/
def State.endWait (s : State) (q : Parked) : State :=
  if q.kind = .future ∧ (s.parked.any fun p => p.word == q.word) = false then s.store (q.word + 8) 8 (setFld (s.loadW (q.word + 8)) 15 15 0).toNat
  else s

/-- Removes a context's entries from the deferred and waiter lists. -/
def State.unpark (s : State) (ctx : Nat) : State := { s with parked := s.parked.filter fun q => q.ctx != ctx }

/-- The park of a context that stops is withdrawn (09 R231, 14 R330). -/
def State.withdraw (s : State) (ctx : Nat) : State := (s.parked.filter (·.ctx == ctx)).foldl State.endWait (s.unpark ctx)

/-- Wakes a parked context: the value is its own from now on, and the event STATION_WAKE, which a packet of the system class brings where its station lies elsewhere
(11 R255, R256), completes its bundle. Entries above the contexts' numbers are PUTs of the device's own, which nothing waits for. -/
def State.wake (s : State) (ctx : Nat) (v : Word) : State :=
  if 16 * allCores ≤ ctx then s.unpark ctx
  else
    let place := ((s.parked.find? (·.ctx == ctx)).map Parked.word).bind (s.goesTo (coreOf ctx))
    let s := (s.unpark ctx).setCtx ctx fun c => { c with given := some v }
    match place with
    | none => s.post (.stationWake ctx v)
    | some (g, on) => s.send (on.getD g) (s.lineAt (coreOf ctx)) { cls := 3, bytes := 0, who := [(ctx, 0)], cargo := [.stationWake ctx v] }

/-- Wakes the entries of a list with one value, oldest first. -/
def State.wakeAll (s : State) (v : Word) : List Parked → State
  | [] => s
  | q :: t => (s.wake q.ctx v).wakeAll v t

/-- Entries parked at a word that satisfy a test, oldest first. -/
def State.parkedAt (s : State) (h : Nat) (f : ParkKind → Bool) : List Parked := s.parked.filter fun q => q.word == h && f q.kind

/-- Whether a parked barrier or landing waiter's condition holds of a word (14 R328, R329). -/
def ParkKind.released (w : Word) : ParkKind → Bool
  | .barrier phase => fld w 23 8 != phase
  | .landing gen => fld w 7 0 != gen
  | _ => false

/-- Waiters of the word at `h` are evaluated again after it changed (09 R232, 14 R327). -/
def State.reeval (s : State) (h : Nat) : State :=
  let w := s.loadW h
  s.wakeAll w (s.parkedAt h (ParkKind.released w))

/-- Whether `n` bytes at a key and a node's slot have a byte in common. -/
def meetsSlot (key n : Nat) (qs : List (Nat × Nat)) : Bool := qs.any fun q => decide (key < q.1 + q.2 ∧ q.1 < key + n)

/-- Stretches of memory without the `n` bytes at a key. -/
def cutSpan (key n : Nat) (qs : List (Nat × Nat)) : List (Nat × Nat) :=
  qs.flatMap fun q =>
    if key < q.1 + q.2 ∧ q.1 < key + n then
      [(q.1, key - q.1), (key + n, q.1 + q.2 - (key + n))].filter fun e => e.2 != 0
    else [q]

/-- A write of `n` bytes at a key spoils the nodes of a tree whose slots it meets (19 R363). In a tree that is undefined as a whole those bytes are what has
been written, until the next operation on the tree (R358). -/
def Tree.spoil (key n : Nat) (t : Tree) : Tree :=
  if !t.sound then { t with slots := t.slots.map fun e => (e.1, cutSpan key n e.2) }
  else
  { t with spoilt := ((t.slots.filter fun e => meetsSlot key n e.2 && !t.spoilt.contains e.1).map (·.1)) ++ t.spoilt }

/-- A write that no station makes, as the Delta trees see it (19 R363). -/
def State.spoil (s : State) (key n : Nat) : State :=
  if s.trees.isEmpty then s else { s with trees := s.trees.map fun e => (e.1, e.2.spoil key n) }

/-- Whether `n` bytes at a key hold part of an undefined snapshot or of an undefined tree (19 R358, R363). -/
def State.blurred (s : State) (key n : Nat) : Bool :=
  s.trees.any fun e => e.2.spoilt.any fun i => meetsSlot key n (tget [] e.2.slots i)

/-- Stores to a translated place; waiters of a local-store word are evaluated again (09 R232, 14 R327). -/
def State.put (s : State) (p : Phys) (n v : Nat) : State :=
  let s := s.store p.key n v
  match p with
  | .house h =>
    if s.parked.isEmpty then s
    else (List.range ((n + 7) / 8)).foldl (fun s i => s.reeval (h / 8 * 8 + 8 * i)) s
  | _ => s.spoil p.key n

/-- Loads from a translated place. What is undefined there reads as an arbitrary pattern (00 R1, 19 R363). -/
def State.get (s : State) (p : Phys) (n : Nat) : Nat :=
  if s.blurred p.key n then (List.range ((n + 7) / 8)).foldl (fun v i => v + 2 ^ (64 * i) * (Config.blurWord (p.key + 8 * i) s.fresh s.clock.cc).toNat) 0 % 2 ^ (8 * n)
  else s.load p.key n

/-! Relaxed accesses and fence points. -/

/-- Whether a relaxed access lies within a scope of its context (13 R299); an access held at its port always counts. -/
def State.within (s : State) (ctx n : Nat) (r : Relaxed) : Bool :=
  let near := fun h =>
    match s.siteOf (coreOf ctx) h with
    | some p => decide (s.distance (coreOf ctx) p ≤ n)
    | none => true
  match r.op with
  | .vload _ ls => ls.any fun l => near l.2
  | .vstore ls => ls.any fun l => near l.2
  | _ => near r.h

/-- A fence point of scope `n` (13 R299, R300, R310, 14 R318): waits, then checks the reduction log, then goes on. A front operation that is outstanding lies at
distance 1. -/
def State.fencePoint (s : State) (n : Nat) (go : State → State) : State :=
  if s.me.relaxed.any (s.within s.cur n) || (n != 0 && !s.me.frontQ.isEmpty) then s.hold .fence
  else s.checkLog go

/-- The fence point of an access with a SCOPE field: none at scope 0 (13 R300). -/
def State.scoped (s : State) (n : BitVec 4) (go : State → State) : State :=
  if n = 0 then go s else s.fencePoint n.toNat go

/-- A release of 06 R145: every relaxed access is acknowledged, then the log is checked. -/
def State.release (s : State) (go : State → State) : State :=
  if !s.me.relaxed.isEmpty || !s.me.frontQ.isEmpty then s.hold .fence
  else s.checkLog go

/-- A relaxed access goes to its station: by a packet of the relaxed class where it leaves the room or the base die (11 R255, R256). -/
def State.launchRelaxed (s : State) (ctx : Nat) (r : Relaxed) (e : Instr) : State :=
  match if r.done then none else s.goesTo (coreOf ctx) (r.target (coreOf ctx)) with
  | none => s.post e
  | some (g, on) =>
    let x := r.op.packet
    s.send (s.lineAt (coreOf ctx)) g { cls := 1, op := x.1.1, h := r.h, width := x.1.2.1, value := x.1.2.2, who := [(ctx, r.id)], bytes := x.2.1,
                                       cargo := [e], on := on }

/-- Whether an earlier access of the context to one of its words is still outstanding: a relaxed access is held by its core until then (13 R296). -/
def Ctx.behind (c : Ctx) (r : Relaxed) : Bool :=
  c.relaxed.any fun q => decide (q.id < r.id) && (r.addrs.any q.names)

/-- Destination that keeps the order of one core's relaxed accesses: another core's store or a mark bank of the issuer's hall (13 R304). -/
def orderedAt (core h : Nat) : Option (Nat × Nat) :=
  match unitOf h with
  | .localStore k _ => if !isPorch core && k / 192 == core / 192 then some (0, k) else none
  | .mark hall o => if !isPorch core && hall == core / 192 then some (1, o / 8 % 16) else none
  | _ => none

/-- Whether an earlier relaxed access of the issuing core to the same destination is still to be performed (13 R304), of a vector access at any of its lanes. -/
def State.follows (s : State) (ctx : Nat) (r : Relaxed) : Bool :=
  let ds := r.addrs.filterMap (orderedAt (coreOf ctx))
  !ds.isEmpty && (List.range 16).any fun i =>
    (s.ctx (16 * coreOf ctx + i)).relaxed.any fun q =>
      decide (q.id < r.id) && !q.done && (q.addrs.filterMap (orderedAt (coreOf ctx))).any ds.contains

/-- Whether a relaxed access may have several destinations. -/
def Relaxed.wide (r : Relaxed) : Bool :=
  match r.op with
  | .vload _ _ => true
  | .vstore _ => true
  | _ => false

/-- Whether a core holds a relaxed access back: an earlier one of its context that names a word of it is outstanding (13 R296), or one that goes to the
same destination before it has not set out or, where either is a vector access, is outstanding (13 R304). -/
def State.holdsBack (s : State) (ctx : Nat) (r : Relaxed) : Bool :=
  let ds := r.addrs.filterMap (orderedAt (coreOf ctx))
  (s.ctx ctx).behind r || (!ds.isEmpty && (List.range 16).any fun i =>
    (s.ctx (16 * coreOf ctx + i)).relaxed.any fun q =>
      decide (q.id < r.id) && (q.unsent || q.wide || r.wide) && (q.addrs.filterMap (orderedAt (coreOf ctx))).any ds.contains)

/-- Adds an outstanding relaxed access (05 R112), which sets out once no earlier one names a word of it (13 R296); a fifth holds the bundle back. `done` says that it has been performed, which is so
for the issuer's own store (13 R303). -/
def State.relax (s : State) (op : RelOp) (h : Nat) (done : Bool) (e : Nat → Nat → Instr) : State :=
  if 4 ≤ s.me.relaxed.length then s.hold .register
  else
    let r : Relaxed := { id := s.nextId, op := op, h := h, pc := s.src.pc, done := done }
    let r := { r with unsent := !done && s.holdsBack s.cur r }
    let s := s.setMe fun c => { c with relaxed := c.relaxed ++ [r] }
    let s := ({ s with nextId := r.id + 1 }).bump s.myCore 25 1
    if r.unsent then s else s.launchRelaxed s.cur r (e s.cur r.id)

/-- Transfer of control to a header (04 R84): the context enters it at its next turn. -/
def State.enter (s : State) (target : Word) : State := s.setMe fun c => { c with pc := target, place := .header }

/-- The register value that reaches offset `o` through the segment of the PC (06 R137). -/
def pcWord (pc : Word) (o : Int) : Word := word (fld pc 63 61 * 2 ^ 61 + wrapI 61 o)

end Sys2Proof.Machine
end

