-- ==== Sys2Proof/Machine/Operands.lean ====
section
/-! DEFINITION. Operand forms: immediates (04 R97), conditions (04 R95), the effective offsets of 10 R233, and the registers an
instruction reads and writes (04 R88, 05 R112). -/

namespace Sys2Proof.Machine

/-- A sign-extended immediate (R97). -/
def sextI {w : Nat} (x : BitVec w) : Word := sextW w x.toNat

/-- A zero-extended immediate (R97). -/
def zextI {w : Nat} (x : BitVec w) : Word := word x.toNat

/-- The condition codes of R95 on a and b, with p. -/
def condHolds (c : Nat) (a b p : Word) : Bool :=
  if c = 0 then a == b
  else if c = 1 then a != b
  else if c = 2 then decide (a.toInt < b.toInt)
  else if c = 3 then decide (b.toInt ≤ a.toInt)
  else if c = 4 then decide (b.toInt < a.toInt)
  else if c = 5 then decide (a.toInt ≤ b.toInt)
  else if c = 6 then decide (a.toNat < b.toNat)
  else if c = 7 then decide (b.toNat ≤ a.toNat)
  else if c = 8 then decide (b.toNat < a.toNat)
  else if c = 9 then decide (a.toNat ≤ b.toNat)
  else if c = 10 then a &&& b != 0
  else if c = 11 then a &&& b == 0
  else if c = 12 then bitOf p.toNat (b.toNat % 64)
  else !bitOf p.toNat (b.toNat % 64)

/-- IMM14 of CMP as its condition reads it (R97). -/
def cmpImm (c : BitVec 4) (i : BitVec 14) : Word := if c.toNat ≤ 5 then sextI i else zextI i

/-- Access size of an SZ field (R97). -/
def sizeOf2 (z : BitVec 2) : Nat := 2 ^ z.toNat

/-- Offset added by DISP8, in units of the access size (R97, R233). -/
def disp (i : BitVec 8) (unit : Nat) : Int := i.toInt * unit

/-- Offset added by an index register (R97, R233). -/
def indexed (x : Word) (unit : Nat) : Int := x.toInt * unit

/-- Rounding mode of an RND field with FPC (08 R194): 0 takes FPC.RM. -/
def rndMode (r : BitVec 3) (fpc : Word) : Nat := if r = 0 then fld fpc 18 16 else r.toNat - 1

/-- Scalar registers an instruction reads. -/
def gReads : Instr → List Nat
  | .nopS => []
  | .add _ a b => [a.toNat, b.toNat]
  | .sub _ a b => [a.toNat, b.toNat]
  | .mul _ a b => [a.toNat, b.toNat]
  | .mulhI _ a b => [a.toNat, b.toNat]
  | .mulhN _ a b => [a.toNat, b.toNat]
  | .divI _ a b => [a.toNat, b.toNat]
  | .divN _ a b => [a.toNat, b.toNat]
  | .remI _ a b => [a.toNat, b.toNat]
  | .remN _ a b => [a.toNat, b.toNat]
  | .and _ a b => [a.toNat, b.toNat]
  | .or _ a b => [a.toNat, b.toNat]
  | .xor _ a b => [a.toNat, b.toNat]
  | .andn _ a b => [a.toNat, b.toNat]
  | .shl _ a b => [a.toNat, b.toNat]
  | .shr _ a b => [a.toNat, b.toNat]
  | .sar _ a b => [a.toNat, b.toNat]
  | .rol _ a b => [a.toNat, b.toNat]
  | .ror _ a b => [a.toNat, b.toNat]
  | .minI _ a b => [a.toNat, b.toNat]
  | .maxI _ a b => [a.toNat, b.toNat]
  | .minN _ a b => [a.toNat, b.toNat]
  | .maxN _ a b => [a.toNat, b.toNat]
  | .clz _ a => [a.toNat]
  | .ctz _ a => [a.toNat]
  | .popc _ a => [a.toNat]
  | .brev _ a => [a.toNat]
  | .bswap _ a => [a.toNat]
  | .addImm _ a _ => [a.toNat]
  | .mulImm _ a _ => [a.toNat]
  | .andImm _ a _ => [a.toNat]
  | .orImm _ a _ => [a.toNat]
  | .xorImm _ a _ => [a.toNat]
  | .shlImm _ a _ => [a.toNat]
  | .shrImm _ a _ => [a.toNat]
  | .sarImm _ a _ => [a.toNat]
  | .rolImm _ a _ => [a.toNat]
  | .rsub _ a _ => [a.toNat]
  | .minIImm _ a _ => [a.toNat]
  | .maxIImm _ a _ => [a.toNat]
  | .minNImm _ a _ => [a.toNat]
  | .maxNImm _ a _ => [a.toNat]
  | .li _ _ => []
  | .lih d _ => [d.toNat]
  | .lix d _ => [d.toNat]
  | .lit d _ => [d.toNat]
  | .extN _ a _ _ => [a.toNat]
  | .extI _ a _ _ => [a.toNat]
  | .ins d a _ _ => [a.toNat, d.toNat]
  | .dep _ a _ _ => [a.toNat]
  | .setCc _ a b _ => [a.toNat, b.toNat]
  | .cmpSkn _ _ a b => [a.toNat, b.toNat]
  | .cmpSknImm _ _ a _ => [a.toNat]
  | .br _ => []
  | .call _ => []
  | .jr a => [a.toNat]
  | .callr a => [a.toNat]
  | .ret => [23]
  | .endTask a => [a.toNat]
  | .spawn d a b => [d.toNat, a.toNat, b.toNat]
  | .launch d a b => [d.toNat, a.toNat, b.toNat]
  | .greplay d a => [d.toNat, a.toNat]
  | .ldI _ a _ _ _ _ => [a.toNat]
  | .ldN _ a _ _ _ _ => [a.toNat]
  | .st d a _ _ _ _ => [d.toNat, a.toNat]
  | .ldxI _ a _ _ _ x => [a.toNat, x.toNat]
  | .ldxN _ a _ _ _ x => [a.toNat, x.toNat]
  | .stx d a _ _ _ x => [d.toNat, a.toNat, x.toNat]
  | .lkup _ a b => [a.toNat, b.toNat]
  | .tagset d a b => [d.toNat, a.toNat, b.toNat]
  | .taginv a b => [a.toNat, b.toNat]
  | .pfx a _ _ => [a.toNat]
  | .segld _ a => [a.toNat]
  | .segst _ a => [a.toNat]
  | .segnar _ _ b _ => [b.toNat, b.toNat + 1]
  | .amo _ a b _ _ _ => [a.toNat, b.toNat]
  | .amocas d a b _ _ => [d.toNat, a.toNat, b.toNat]
  | .red a b _ _ => [a.toNat, b.toNat]
  | .fence _ => []
  | .qfence a => [a.toNat]
  | .qfenceOwn a _ => [a.toNat]
  | .take _ a _ _ => [a.toNat]
  | .put d a _ _ => [d.toNat, a.toNat]
  | .fereadD _ a _ _ => [a.toNat]
  | .fereadProbe _ a _ _ => [a.toNat]
  | .fesetEmpty a _ _ => [a.toNat]
  | .fesetFull d a _ _ => [d.toNat, a.toNat]
  | .futnew _ a _ => [a.toNat]
  | .futset a b _ => [a.toNat, b.toNat]
  | .futget _ a _ => [a.toNat]
  | .futdrop a _ => [a.toNat]
  | .barinit a b _ => [a.toNat, b.toNat]
  | .arrive _ a b _ => [a.toNat, b.toNat]
  | .waitb _ a b _ => [a.toNat, b.toNat]
  | .waitl _ a b _ => [a.toNat, b.toNat]
  | .cpy d a b _ _ _ => [d.toNat, a.toNat, b.toNat]
  | .cpys d a b _ _ _ => [d.toNat, a.toNat, b.toNat, b.toNat + 1]
  | .cpym d a b _ _ => [d.toNat, a.toNat, b.toNat]
  | .landset a b _ => [a.toNat, b.toNat]
  | .mdep a b => [a.toNat, b.toNat]
  | .mdepx a b => [a.toNat, b.toNat]
  | .msense _ a b => [a.toNat, b.toNat]
  | .mread _ a => [a.toNat]
  | .mclr _ a => [a.toNat]
  | .mwait _ => []
  | .mwaitUntil _ a => [a.toNat]
  | .ebb _ => []
  | .ebbPeriod _ => []
  | .mfield a b => [a.toNat, b.toNat]
  | .mfieldRd _ a => [a.toNat]
  | .dhash d a b => [d.toNat, a.toNat, b.toNat]
  | .dlook _ a b _ => [a.toNat, b.toNat, b.toNat + 1]
  | .dput _ a b _ => [a.toNat, b.toNat]
  | .drel a b _ => [a.toNat, b.toNat]
  | .dstat _ a b _ => [a.toNat, b.toNat]
  | .dtouch a b _ => [a.toNat, b.toNat]
  | .fcfg a _ => [a.toNat]
  | .fput d a b _ _ => [d.toNat, a.toNat, b.toNat]
  | .fread _ a _ _ => [a.toNat]
  | .fmerge _ a _ _ => [a.toNat]
  | .fsave _ a _ _ => [a.toNat]
  | .fload _ a _ _ => [a.toNat]
  | .fclr _ => []
  | .fstat _ _ _ => []
  | .movcRead _ _ => []
  | .movcWrite _ b => [b.toNat]
  | .movsLo _ _ => []
  | .movsHi _ _ => []
  | .movsSeg _ _ => []
  | .claimv _ a => [a.toNat]
  | .claimt _ a => [a.toNat]
  | .relv => []
  | .relt a => [a.toNat]
  | .slotstart a => [a.toNat]
  | .slotreap a => [a.toNat]
  | .slotreapSave a b => [a.toNat, b.toNat]
  | .slotown _ a => [a.toNat]
  | .trap a _ => [a.toNat]
  | .brk _ => []
  | .trc a b _ => [a.toNat, b.toNat]
  | .rdctr _ a => [a.toNat]
  | .taskres a => [a.toNat]
  | .taskkill a => [a.toNat]
  | .nopV => []
  | .vaddF _ _ _ _ _ _ => []
  | .vsubF _ _ _ _ _ _ => []
  | .vmulF _ _ _ _ _ _ => []
  | .vfma _ _ _ _ _ _ => []
  | .vfms _ _ _ _ _ _ => []
  | .vminF _ _ _ _ _ => []
  | .vmaxF _ _ _ _ _ => []
  | .vabsF _ _ _ _ => []
  | .vnegF _ _ _ _ => []
  | .vaddI _ _ _ _ _ _ => []
  | .vsubI _ _ _ _ _ _ => []
  | .vmulI _ _ _ _ _ => []
  | .vmulh _ _ _ _ _ => []
  | .vminI _ _ _ _ _ => []
  | .vmaxI _ _ _ _ _ => []
  | .vabsI _ _ _ _ _ => []
  | .vnegI _ _ _ _ _ => []
  | .vand _ _ _ _ _ => []
  | .vor _ _ _ _ _ => []
  | .vxor _ _ _ _ _ => []
  | .vshl _ _ _ _ _ _ => []
  | .vshr _ _ _ _ _ => []
  | .vcmp _ _ _ _ _ => []
  | .vsel _ _ _ => []
  | .vcvt _ _ _ _ _ _ _ _ => []
  | .vqmx _ _ _ _ => []
  | .vdqmx _ _ _ _ => []
  | .vrcp _ _ _ _ _ => []
  | .vrsq _ _ _ _ _ => []
  | .vexp2 _ _ _ _ _ => []
  | .vlog2 _ _ _ _ _ => []
  | .vsin _ _ _ _ _ => []
  | .vcos _ _ _ _ _ => []
  | .vtanh _ _ _ _ _ => []
  | .vclz _ _ _ _ => []
  | .vctz _ _ _ _ => []
  | .vpopc _ _ _ _ => []
  | .vshuf _ _ _ _ => []
  | .vsplat _ _ _ a => [a.toNat]
  | .vsplatSeq _ _ _ a b => [a.toNat, b.toNat]
  | .vvote _ _ _ _ => []
  | .vmatch _ _ _ _ => []
  | .vred _ _ _ _ _ => []
  | .vscan _ _ _ _ _ _ => []
  | .vins _ _ a b => [a.toNat, b.toNat]
  | .vext _ _ _ b => [b.toNat]
  | .vld _ _ a _ _ => [a.toNat]
  | .vst _ _ a _ _ => [a.toNat]
  | .vlds _ _ a b _ _ => [a.toNat, b.toNat]
  | .vsts _ _ a b _ _ => [a.toNat, b.toNat]
  | .vgath _ _ _ a _ _ _ => [a.toNat]
  | .vscat _ _ _ a _ _ _ => [a.toNat]
  | .tld _ g h => [g.toNat, h.toNat]
  | .tldx _ g h => [g.toNat, h.toNat]
  | .tst _ g h => [g.toNat, h.toNat]
  | .tlw _ _ => []
  | .tscl _ g => [g.toNat]
  | .tsclSt _ g => [g.toNat]
  | .tmma _ _ => []
  | .tmmaW _ _ _ _ => []
  | .tzero _ => []
  | .tzeroT _ => []
  | .tdrain _ g h _ _ => [g.toNat, h.toNat]
  | .tdrainByp _ _ _ _ => []
  -- the steps of the house name no register
  | _ => []

/-- Scalar registers an instruction writes. -/
def gWrites : Instr → List Nat
  | .nopS => []
  | .add d _ _ => [d.toNat]
  | .sub d _ _ => [d.toNat]
  | .mul d _ _ => [d.toNat]
  | .mulhI d _ _ => [d.toNat]
  | .mulhN d _ _ => [d.toNat]
  | .divI d _ _ => [d.toNat]
  | .divN d _ _ => [d.toNat]
  | .remI d _ _ => [d.toNat]
  | .remN d _ _ => [d.toNat]
  | .and d _ _ => [d.toNat]
  | .or d _ _ => [d.toNat]
  | .xor d _ _ => [d.toNat]
  | .andn d _ _ => [d.toNat]
  | .shl d _ _ => [d.toNat]
  | .shr d _ _ => [d.toNat]
  | .sar d _ _ => [d.toNat]
  | .rol d _ _ => [d.toNat]
  | .ror d _ _ => [d.toNat]
  | .minI d _ _ => [d.toNat]
  | .maxI d _ _ => [d.toNat]
  | .minN d _ _ => [d.toNat]
  | .maxN d _ _ => [d.toNat]
  | .clz d _ => [d.toNat]
  | .ctz d _ => [d.toNat]
  | .popc d _ => [d.toNat]
  | .brev d _ => [d.toNat]
  | .bswap d _ => [d.toNat]
  | .addImm d _ _ => [d.toNat]
  | .mulImm d _ _ => [d.toNat]
  | .andImm d _ _ => [d.toNat]
  | .orImm d _ _ => [d.toNat]
  | .xorImm d _ _ => [d.toNat]
  | .shlImm d _ _ => [d.toNat]
  | .shrImm d _ _ => [d.toNat]
  | .sarImm d _ _ => [d.toNat]
  | .rolImm d _ _ => [d.toNat]
  | .rsub d _ _ => [d.toNat]
  | .minIImm d _ _ => [d.toNat]
  | .maxIImm d _ _ => [d.toNat]
  | .minNImm d _ _ => [d.toNat]
  | .maxNImm d _ _ => [d.toNat]
  | .li d _ => [d.toNat]
  | .lih d _ => [d.toNat]
  | .lix d _ => [d.toNat]
  | .lit d _ => [d.toNat]
  | .extN d _ _ _ => [d.toNat]
  | .extI d _ _ _ => [d.toNat]
  | .ins d _ _ _ => [d.toNat]
  | .dep d _ _ _ => [d.toNat]
  | .setCc d _ _ _ => [d.toNat]
  | .cmpSkn _ _ _ _ => []
  | .cmpSknImm _ _ _ _ => []
  | .br _ => []
  | .call _ => [23]
  | .jr _ => []
  | .callr _ => [23]
  | .ret => []
  | .endTask _ => []
  | .spawn _ _ _ => []
  | .launch _ _ _ => []
  | .greplay _ _ => []
  | .ldI d _ _ _ _ _ => [d.toNat]
  | .ldN d _ _ _ _ _ => [d.toNat]
  | .st _ _ _ _ _ _ => []
  | .ldxI d _ _ _ _ _ => [d.toNat]
  | .ldxN d _ _ _ _ _ => [d.toNat]
  | .stx _ _ _ _ _ _ => []
  | .lkup d _ _ => [d.toNat]
  | .tagset _ _ _ => []
  | .taginv _ _ => []
  | .pfx _ _ _ => []
  | .segld _ _ => []
  | .segst _ _ => []
  | .segnar _ _ _ _ => []
  | .amo d _ _ _ _ _ => [d.toNat]
  | .amocas d _ _ _ _ => [d.toNat]
  | .red _ _ _ _ => []
  | .fence _ => []
  | .qfence _ => []
  | .qfenceOwn _ _ => []
  | .take d _ _ _ => [d.toNat]
  | .put _ _ _ _ => []
  | .fereadD d _ _ _ => [d.toNat]
  | .fereadProbe d _ _ _ => [d.toNat]
  | .fesetEmpty _ _ _ => []
  | .fesetFull _ _ _ _ => []
  | .futnew d _ _ => [d.toNat]
  | .futset _ _ _ => []
  | .futget d _ _ => [d.toNat]
  | .futdrop _ _ => []
  | .barinit _ _ _ => []
  | .arrive d _ _ _ => [d.toNat]
  | .waitb d _ _ _ => [d.toNat]
  | .waitl d _ _ _ => [d.toNat]
  | .cpy _ _ _ _ _ _ => []
  | .cpys _ _ _ _ _ _ => []
  | .cpym _ _ _ _ _ => []
  | .landset _ _ _ => []
  | .mdep _ _ => []
  | .mdepx _ _ => []
  | .msense d _ _ => [d.toNat]
  | .mread d _ => [d.toNat]
  | .mclr d _ => [d.toNat]
  | .mwait d => [d.toNat]
  | .mwaitUntil d _ => [d.toNat]
  | .ebb d => [d.toNat]
  | .ebbPeriod d => [d.toNat]
  | .mfield _ _ => []
  | .mfieldRd d _ => [d.toNat]
  | .dhash d _ _ => [d.toNat]
  | .dlook d _ _ _ => [d.toNat, d.toNat + 1, d.toNat + 2]
  | .dput d _ _ _ => [d.toNat, d.toNat + 1]
  | .drel _ _ _ => []
  | .dstat d _ _ _ => [d.toNat]
  | .dtouch _ _ _ => []
  | .fcfg _ _ => []
  | .fput d _ _ _ _ => [d.toNat]
  | .fread d _ _ _ => [d.toNat, d.toNat + 1, d.toNat + 2]
  | .fmerge d _ _ _ => [d.toNat]
  | .fsave d _ _ _ => [d.toNat]
  | .fload d _ _ _ => [d.toNat]
  | .fclr _ => []
  | .fstat d _ _ => [d.toNat]
  | .movcRead d _ => [d.toNat]
  | .movcWrite _ _ => []
  | .movsLo d _ => [d.toNat]
  | .movsHi d _ => [d.toNat]
  | .movsSeg _ _ => []
  | .claimv d _ => [d.toNat]
  | .claimt d _ => [d.toNat]
  | .relv => []
  | .relt _ => []
  | .slotstart _ => []
  | .slotreap _ => []
  | .slotreapSave _ _ => []
  | .slotown d _ => [d.toNat]
  | .trap _ _ => []
  | .brk _ => []
  | .trc _ _ _ => []
  | .rdctr d _ => [d.toNat]
  | .taskres _ => []
  | .taskkill _ => []
  | .nopV => []
  | .vaddF _ _ _ _ _ _ => []
  | .vsubF _ _ _ _ _ _ => []
  | .vmulF _ _ _ _ _ _ => []
  | .vfma _ _ _ _ _ _ => []
  | .vfms _ _ _ _ _ _ => []
  | .vminF _ _ _ _ _ => []
  | .vmaxF _ _ _ _ _ => []
  | .vabsF _ _ _ _ => []
  | .vnegF _ _ _ _ => []
  | .vaddI _ _ _ _ _ _ => []
  | .vsubI _ _ _ _ _ _ => []
  | .vmulI _ _ _ _ _ => []
  | .vmulh _ _ _ _ _ => []
  | .vminI _ _ _ _ _ => []
  | .vmaxI _ _ _ _ _ => []
  | .vabsI _ _ _ _ _ => []
  | .vnegI _ _ _ _ _ => []
  | .vand _ _ _ _ _ => []
  | .vor _ _ _ _ _ => []
  | .vxor _ _ _ _ _ => []
  | .vshl _ _ _ _ _ _ => []
  | .vshr _ _ _ _ _ => []
  | .vcmp _ _ _ _ _ => []
  | .vsel _ _ _ => []
  | .vcvt _ _ _ _ _ _ _ _ => []
  | .vqmx _ _ _ _ => []
  | .vdqmx _ _ _ _ => []
  | .vrcp _ _ _ _ _ => []
  | .vrsq _ _ _ _ _ => []
  | .vexp2 _ _ _ _ _ => []
  | .vlog2 _ _ _ _ _ => []
  | .vsin _ _ _ _ _ => []
  | .vcos _ _ _ _ _ => []
  | .vtanh _ _ _ _ _ => []
  | .vclz _ _ _ _ => []
  | .vctz _ _ _ _ => []
  | .vpopc _ _ _ _ => []
  | .vshuf _ _ _ _ => []
  | .vsplat _ _ _ _ => []
  | .vsplatSeq _ _ _ _ _ => []
  | .vvote _ _ a _ => [a.toNat]
  | .vmatch _ _ _ _ => []
  | .vred _ _ _ a _ => [a.toNat]
  | .vscan _ _ _ _ _ _ => []
  | .vins _ _ _ _ => []
  | .vext _ _ a _ => [a.toNat]
  | .vld _ _ _ _ _ => []
  | .vst _ _ _ _ _ => []
  | .vlds _ _ _ _ _ _ => []
  | .vsts _ _ _ _ _ _ => []
  | .vgath _ _ _ _ _ _ _ => []
  | .vscat _ _ _ _ _ _ _ => []
  | .tld _ _ _ => []
  | .tldx _ _ _ => []
  | .tst _ _ _ => []
  | .tlw _ _ => []
  | .tscl _ _ => []
  | .tsclSt _ _ => []
  | .tmma _ _ => []
  | .tmmaW _ _ _ _ => []
  | .tzero _ => []
  | .tzeroT _ => []
  | .tdrain _ _ _ _ _ => []
  | .tdrainByp _ _ _ _ => []
  -- the steps of the house name no register
  | _ => []

/-- Vector registers an instruction reads or writes. -/
def vUses : Instr → List Nat
  | .vaddF _ _ d a b _ => [a.toNat, b.toNat, d.toNat]
  | .vsubF _ _ d a b _ => [a.toNat, b.toNat, d.toNat]
  | .vmulF _ _ d a b _ => [a.toNat, b.toNat, d.toNat]
  | .vfma _ _ d a b _ => [a.toNat, b.toNat, d.toNat]
  | .vfms _ _ d a b _ => [a.toNat, b.toNat, d.toNat]
  | .vminF _ _ d a b => [a.toNat, b.toNat, d.toNat]
  | .vmaxF _ _ d a b => [a.toNat, b.toNat, d.toNat]
  | .vabsF _ _ d a => [a.toNat, d.toNat]
  | .vnegF _ _ d a => [a.toNat, d.toNat]
  | .vaddI _ _ d a b _ => [a.toNat, b.toNat, d.toNat]
  | .vsubI _ _ d a b _ => [a.toNat, b.toNat, d.toNat]
  | .vmulI _ _ d a b => [a.toNat, b.toNat, d.toNat]
  | .vmulh _ _ d a b => [a.toNat, b.toNat, d.toNat]
  | .vminI _ _ d a b => [a.toNat, b.toNat, d.toNat]
  | .vmaxI _ _ d a b => [a.toNat, b.toNat, d.toNat]
  | .vabsI _ _ d a _ => [a.toNat, d.toNat]
  | .vnegI _ _ d a _ => [a.toNat, d.toNat]
  | .vand _ _ d a b => [a.toNat, b.toNat, d.toNat]
  | .vor _ _ d a b => [a.toNat, b.toNat, d.toNat]
  | .vxor _ _ d a b => [a.toNat, b.toNat, d.toNat]
  | .vshl _ _ d a b _ => [a.toNat, b.toNat, d.toNat]
  | .vshr _ _ d a b => [a.toNat, b.toNat, d.toNat]
  | .vcmp _ _ a b _ => [a.toNat, b.toNat]
  | .vsel d a b => [a.toNat, b.toNat, d.toNat]
  | .vcvt _ _ d a _ _ _ _ => [a.toNat, d.toNat]
  | .vqmx _ d a b => [a.toNat, d.toNat, b.toNat]
  | .vdqmx _ d a b => [a.toNat, b.toNat, d.toNat]
  | .vrcp _ _ d a _ => [a.toNat, d.toNat]
  | .vrsq _ _ d a _ => [a.toNat, d.toNat]
  | .vexp2 _ _ d a _ => [a.toNat, d.toNat]
  | .vlog2 _ _ d a _ => [a.toNat, d.toNat]
  | .vsin _ _ d a _ => [a.toNat, d.toNat]
  | .vcos _ _ d a _ => [a.toNat, d.toNat]
  | .vtanh _ _ d a _ => [a.toNat, d.toNat]
  | .vclz _ _ d a => [a.toNat, d.toNat]
  | .vctz _ _ d a => [a.toNat, d.toNat]
  | .vpopc _ _ d a => [a.toNat, d.toNat]
  | .vshuf _ d a b => [a.toNat, b.toNat, d.toNat]
  | .vsplat _ _ v _ => [v.toNat]
  | .vsplatSeq _ _ v _ _ => [v.toNat]
  | .vvote _ v _ _ => [v.toNat]
  | .vmatch _ d a _ => [a.toNat, d.toNat]
  | .vred _ _ v _ _ => [v.toNat]
  | .vscan _ _ d a _ _ => [a.toNat, d.toNat]
  | .vins _ v _ _ => [v.toNat]
  | .vext _ v _ _ => [v.toNat]
  | .vld _ v _ _ _ => [v.toNat]
  | .vst _ v _ _ _ => [v.toNat]
  | .vlds _ v _ _ _ _ => [v.toNat]
  | .vsts _ v _ _ _ _ => [v.toNat]
  | .vgath _ _ v _ i _ _ => [i.toNat, v.toNat]
  | .vscat _ _ v _ i _ _ => [v.toNat, i.toNat]
  -- no other instruction names a vector register
  | _ => []

/-- Whether an instruction writes p: MOVC to control code 9, and VCMP (04 R93, 08 R199). -/
def pWrites : Instr → Bool
  | .movcWrite c _ => c == 9
  | .vcmp _ _ _ _ _ => true
  | _ => false

/-- Whether the two syllables of a bundle write one register (04 R88). -/
def clash (i j : Instr) : Bool :=
  ((gWrites i).any fun r => r != 0 && (gWrites j).contains r) || (pWrites i && pWrites j)

/-- A scalar or vector register that an outstanding relaxed load keeps pending (05 R112). -/
def Relaxed.pendingG (r : Relaxed) : Option Nat :=
  match r.op with
  | .load d _ _ => if d = 0 then none else some d
  | _ => none

/-- The vector register that an outstanding relaxed vector load keeps pending. -/
def Relaxed.pendingV (r : Relaxed) : Option Nat :=
  match r.op with
  | .vload v _ => some v
  | _ => none

/-- Whether an instruction reads or writes a pending register (05 R112). -/
def touchesPending (rs : List Relaxed) (i : Instr) : Bool :=
  rs.any fun r =>
    (match r.pendingG with
     | some d => (gReads i).contains d || (gWrites i).contains d
     | none => false) ||
    (match r.pendingV with
     | some v => (vUses i).contains v
     | none => false)

/-- Relaxed accesses that an instruction starts (05 R112): those written with rx., REDs and deposits. -/
def starts : Instr → Nat
  | .ldI _ _ _ r _ _ => r.toNat
  | .ldN _ _ _ r _ _ => r.toNat
  | .st _ _ _ r _ _ => r.toNat
  | .ldxI _ _ _ r _ _ => r.toNat
  | .ldxN _ _ _ r _ _ => r.toNat
  | .stx _ _ _ r _ _ => r.toNat
  | .vld _ _ _ _ r => r.toNat
  | .vst _ _ _ _ r => r.toNat
  | .vlds _ _ _ _ _ r => r.toNat
  | .vsts _ _ _ _ _ r => r.toNat
  | .vgath _ _ _ _ _ _ r => r.toNat
  | .vscat _ _ _ _ _ _ r => r.toNat
  | .red _ _ _ _ => 1
  | .mdep _ _ => 1
  | .mdepx _ _ => 1
  -- no other instruction starts one
  | _ => 0

/-- Whether a bundle does not issue because of its context's outstanding relaxed accesses (05 R112): it touches a pending register, or it would
start a fifth. -/
def hindered (rs : List Relaxed) (i j : Instr) : Bool :=
  touchesPending rs i || touchesPending rs j || (decide (0 < starts i + starts j) && decide (4 < rs.length + starts i + starts j))

end Sys2Proof.Machine
end

