-- ==== Sys2Proof/Machine/Spans.lean ====
section
/-! DEFINITION. Where the commands of the tile queue read and write memory (12 R272, R273, R282 to R288), and what their issuer's own accesses
there see and leave before the command is complete (12 R278). -/

namespace Sys2Proof.Machine

/-- Ordinary address of a tile-view address of a local store (09 R217). -/
def tileView (h : Nat) : Nat :=
  let o := h % 0x4_0000
  h - bits o 7 3 * 8 + (bits o 7 3 ^^^ bits o 12 8) * 8

/-- Addresses of `n` consecutive words. -/
def wordRun (h n : Nat) : List Nat := (List.range n).map fun i => h + 8 * i

/-- FMT of a descriptor. -/
def tdFmt (d : Word) : Nat := fld d 3 0

/-- COLS of a descriptor. -/
def tdCols (d : Word) : Nat := fld d 31 23

/-- Valid rows of a descriptor. -/
def tdRows (d : Word) : Nat := fld d 22 15 + 1

/-- Depth D of a format; it names the depth class too (R273). -/
def depthOf (t : Nat) : Nat := if t = 7 ∨ t = 8 then 64 else if t = 13 then 256 else 128

/-- Bits of an element's container (R273). -/
def boxOf (t : Nat) : Nat := 1024 / depthOf t

/-- Bytes of a drained element. -/
def drainSize (t : Nat) : Nat := if t = 6 then 4 else if t = 7 ∨ t = 8 then 2 else 1

/-- Addresses of the words of some rows. -/
def rowWords (h stride size : Nat) (ms : List Nat) : List Nat := ms.flatMap fun m => wordRun (h + m * stride) (size / 8)

/-- Addresses of the words that step `k` of a TLDX reads: 16 fragments of 32 words (R283). -/
def TileCmd.fragWords (c : TileCmd) (k : Nat) : List Nat :=
  let cols := 16 * boxOf (tdFmt (c.descs.headD 0)) / 8
  (List.range 16).flatMap fun i => (List.range 32).map fun r =>
    tileView (c.span + (32 * ((16 * k + i) / cols) + r) * c.stride + 8 * ((16 * k + i) % cols))

/-- Addresses of the words of memory that a command reads (R282 to R284). -/
def TileCmd.source (c : TileCmd) : List Nat :=
  match c.instr with
  | .tld _ _ _ => rowWords c.span c.stride 128 (List.range (tdRows (c.descs.headD 0)))
  | .tldx _ _ _ => (List.range 4).flatMap c.fragWords
  | .tscl _ _ => wordRun c.span 128
  | _ => []

/-- Addresses of the words of memory that a command writes (R282, R284, R288). -/
def TileCmd.dest (c : TileCmd) : List Nat :=
  match c.instr with
  | .tst _ _ _ => rowWords c.span c.stride 128 (List.range (tdRows (c.descs.headD 0)))
  | .tsclSt _ _ => wordRun c.span 128
  | .tdrain _ _ _ _ ty => rowWords c.span c.stride (128 * drainSize ty.toNat) (List.range 128)
  | _ => []

/-- Whether some of the `n` bytes at `h` lie in words. -/
def meets (ws : List Nat) (h n : Nat) : Bool := ws.any fun w => decide (w < h + n) && decide (h < w + 8)

/-- Whether an access of a context to the `n` bytes at `h` meets a tile command of its own that is not complete: a store its source, a load its
destination (R278). -/
def State.tileHits (s : State) (ctx h n : Nat) (write : Bool) : Bool :=
  (s.tilesOf ctx (s.ctx ctx).gid).any fun c => meets (if write then c.source else c.dest) h n

/-- What a load of a context sees of the value `v` of the `n` bytes at `h`: a free value where it meets the destination of a tile command of its own
(R278; log 9). -/
def State.seen (s : State) (ctx h n v : Nat) : Nat × State :=
  if s.tileHits ctx h n false then (s.free.1.toNat % 2 ^ (8 * n), s.free.2) else (v, s)

/-- Consecutive words from `h` on as a plain load of an issuer sees them. -/
def State.seenWords (s : State) (ctx : Nat) : Nat → List Nat → List Nat × State
  | _, [] => ([], s)
  | h, v :: t =>
    let x := s.seen ctx h 8 v
    let r := x.2.seenWords ctx (h + 8) t
    (x.1 :: r.1, r.2)

/-- The 8-byte words of a value, lowest first, and back. -/
def splitWords (n v : Nat) : List Nat := (List.range n).map fun i => v / 2 ^ (64 * i) % 2 ^ 64

/-- The value of words, lowest first. -/
def wordsVal (ws : List Nat) : Nat := ws.foldr (fun w v => w + 2 ^ 64 * v) 0

/-- A store of a context to the `n` bytes at `h` spoils the tile commands of its own that read there (R278). -/
def State.soil (s : State) (ctx h n : Nat) : State :=
  if s.tileHits ctx h n true then
    let gid := (s.ctx ctx).gid
    s.setRoom (roomOf (coreOf ctx)) fun r =>
      { r with tileQ := r.tileQ.map fun c =>
          if c.ctx == ctx && c.gid == gid && meets c.source h n then { c with spoilt := true } else c }
  else s

end Sys2Proof.Machine
end

