-- ==== Sys2Proof/Machine/Station.lean ====
section
/-! DEFINITION. What the stations do (14 R311): full/empty words (09 R230, 14 R323), futures (14 R324, R325), landing words (09
R232), atomic read-modify-writes (14 R313, R314), marks (17 R343, R347), and the performance of relaxed accesses (10 R236, 14
R316). -/

namespace Sys2Proof.Machine

/-! Full/empty words. -/

/-- Parked takers at a word. -/
def State.takers (s : State) (h : Nat) : List Parked := s.parkedAt h (· == .taker)

/-- Parked readers at a word. -/
def State.readers (s : State) (h : Nat) : List Parked := s.parkedAt h (· == .reader)

/-- Parked putters at a word. -/
def State.putters (s : State) (h : Nat) : List Parked :=
  s.parkedAt h fun k => match k with
    | .putter _ => true
    | _ => false

/-- Value of a putter. -/
def ParkKind.value : ParkKind → Word
  | .putter v => v
  | _ => 0

/-- What follows a change of a full/empty word: a full launch word is taken in (03 R52), an empty hearth word takes the next slot
event (03 R69), and a graph's PATCH is applied (02 R48). -/
def State.feChanged (s : State) (h : Nat) : State :=
  match unitOf h with
  | .launchWord hall w => if s.isFull h then s.post (.launchIntake hall w) else s
  | .hearthWord hall _ => if s.isFull h then s else if (s.hall hall).events.isEmpty then s else s.post (.slotEvent hall)
  | .localStore _ _ => if s.isFull h && s.graphs.contains (h - 0x40) && 0x40 ≤ h then s.post (.patchApply (h - 0x40)) else s
  | _ => s

/-- Writes a value into an empty word: every parked reader receives it, then the oldest taker, else the word becomes full (R230,
R323). -/
def State.feFill (s : State) (h : Nat) (v : Word) : State :=
  let s := s.wakeAll v (s.readers h)
  match s.takers h with
  | t :: _ => s.wake t.ctx v
  | [] => ((s.store h 8 v.toNat).setFull h true).feChanged h

/-- PUT at the station; none when the word is full and the putter must park (R230). -/
def State.fePut (s : State) (h : Nat) (v : Word) : Option State := if s.isFull h then none else some (s.feFill h v)

/-- PUT by the device itself: where the word is full, it waits its turn like any putter. -/
def State.devicePut (s : State) (h : Nat) (v : Word) : State :=
  match s.fePut h v with
  | some s => s
  | none =>
    { s with parked := s.parked ++ [{ word := h, ctx := 1000000 + s.nextId, kind := .putter v : Parked }], nextId := s.nextId + 1 }

/-- Empties a full word, or passes it to the oldest parked putter (R230, R323). -/
def State.feEmpty (s : State) (h : Nat) : State :=
  match s.putters h with
  | q :: _ => ((s.store h 8 q.kind.value.toNat).wake q.ctx 0).feChanged h
  | [] => (s.setFull h false).feChanged h

/-- TAKE at the station; none when the word is empty and the taker must park (R230). -/
def State.feTake (s : State) (h : Nat) : Option (Word × State) :=
  if s.isFull h then some (s.loadW h, s.feEmpty h) else none

/-- FESET.full at the station (R323): an empty word is filled as by PUT, a full one overwritten. -/
def State.feForce (s : State) (h : Nat) (v : Word) : State :=
  if s.isFull h then (s.store h 8 v.toNat).feChanged h else s.feFill h v

/-- FEREAD.probe (R323): 0 or 1 for empty or full, plus 2 with parked parties. -/
def State.feProbe (s : State) (h : Nat) : Nat :=
  if s.isFull h then (if (s.putters h).isEmpty then 1 else 3)
  else if (s.takers h).isEmpty && (s.readers h).isEmpty then 0 else 2

/-! Futures. -/

/-- House address of the entry a handle names (14 R324). -/
def handleAddr (handle : Nat) : Nat := futureAddr (bits handle 31 27) (bits handle 26 11)

/-- Flags word of an entry. -/
def State.futWord (s : State) (addr : Nat) : Word := s.loadW (addr + 8)

/-- Whether a handle is live (14 R324). -/
def State.futLive (s : State) (handle : Nat) : Bool :=
  let w := s.futWord (handleAddr handle)
  fld w 13 13 == 1 && fld w 10 0 == bits handle 10 0

/-- FUTSET at the station, or the future reason that refuses it: 1 stale, 2 full (14 R325). -/
def State.futSet (s : State) (handle : Nat) (v : Word) : Except Nat State :=
  let a := handleAddr handle
  let w := s.futWord a
  if !s.futLive handle then .error 1
  else if fld w 14 14 = 1 then .error 2
  else
    let s := (s.store a 8 v.toNat).store (a + 8) 8 (setFld (setFld w 14 14 1) 15 15 0).toNat
    .ok (s.wakeAll v (s.parkedAt a (· == .future)))

/-- The device's own fill of a completion future (06 R144, 23 R412); none where FUTSET would be refused. -/
def State.fillOf (s : State) (handle : Nat) (v : Word) : Option State :=
  if 2 ^ 32 ≤ handle || !s.hallUp (bits handle 31 27) then none else (s.futSet handle v).toOption

/-- Payload of the trace record of a completion fill that is lost (24 R417). -/
def lostFill (handle : Nat) (v : Word) : Nat := v.toNat + handle % 2 ^ 32 * 2 ^ 64

/-- A fill by a dispatcher or by the attic, with the trace record of one that is lost (06 R144, 23 R412). -/
def State.complete (s : State) (hall source : Nat) (gtid : Word) (handle : Nat) (v : Word) : State :=
  (s.fillOf handle v).getD (s.traceTo hall 0x03 source gtid (lostFill handle v))

/-- FUTNEW at the station (14 R325): a free entry, the choice left open (log 9), or handle 0. -/
def State.futNew (s : State) (hall : Nat) : Word × State :=
  let start := Config.freeChoice s.fresh % 65536
  let s := { s with fresh := s.fresh + 1 }
  let at' := fun j => futureAddr hall ((start + j) % 65536)
  match lowest (fun j => fld (s.futWord (at' j)) 13 13 == 0) 0 65536 with
  | none => (0, s)
  | some j =>
    let a := at' j
    let gen := fld (s.futWord a) 10 0
    (word (hall * 2 ^ 27 + (start + j) % 65536 * 2 ^ 11 + gen), (s.store a 8 0).store (a + 8) 8 (2 ^ 13 + gen))

/-- The waiters of a dropped future receive the future fault, reason 3 (14 R325). -/
def State.dropAll (s : State) (handle : Nat) : List Parked → State
  | [] => s
  | q :: t =>
    let f : FaultRec := { kind := 0x15, reason := 3, pc := (s.ctx q.ctx).pc, addr := word handle, stamp := word s.now }
    ((s.unpark q.ctx).raiseAt q.ctx f).dropAll handle t

/-- FUTDROP at the station (14 R325). -/
def State.futDrop (s : State) (handle : Nat) : Except Nat State :=
  let a := handleAddr handle
  if !s.futLive handle then .error 1
  else
    let gen := fld (s.futWord a) 10 0
    let s := s.store (a + 8) 8 (gen % 2047 + 1)
    .ok (s.dropAll handle (s.parkedAt a (· == .future)))

/-! Landing words. -/

/-- An arrival of `n` bytes at the landing word at `h`; none when its reserved bits are nonzero (09 R232). -/
def State.landing (s : State) (h n : Nat) : Option State :=
  let w := s.loadW h
  if fld w 63 56 ≠ 0 then none
  else
    let target := fld w 55 32
    let count := fld w 31 8
    let gen := fld w 7 0
    let c := count + n
    let w' := if target = 0 then setFld w 31 8 (min c 0xFF_FFFF)
              else setFld (setFld w 31 8 (c % target)) 7 0 ((gen + c / target) % 256)
    some ((s.store h 8 w'.toNat).reeval h)

/-! Atomics. -/

/-- New value of an atomic operation on `w`-bit words, with flags of fadd (14 R313, 07 R188). -/
def amoNew (op w old b : Nat) : Nat × Nat :=
  let b := b % 2 ^ w
  if op = 0 then ((old + b) % 2 ^ w, 0)
  else if op = 1 then (b, 0)
  else if op = 2 then (old &&& b, 0)
  else if op = 3 then (old ||| b, 0)
  else if op = 4 then (old ^^^ b, 0)
  else if op = 5 then (if sextN w old ≤ sextN w b then old else b, 0)
  else if op = 6 then (if sextN w old ≤ sextN w b then b else old, 0)
  else if op = 7 then (min old b, 0)
  else if op = 8 then (max old b, 0)
  else (fmt 6).add 0 old b

/-- Whether a station performs an AMO or RED operation (14 R311): the cellar no fadd, the host only add, and swap for an AMO. -/
def Phys.performs (op : Nat) (red : Bool) : Phys → Bool
  | .cellar _ _ => op != 9
  | .host _ => op == 0 || (op == 1 && !red)
  | _ => true

/-! Marks. -/

/-- The four marks of a word after one fade by k (17 R342). -/
def fadeWord (w : Word) (k : Nat) : Word :=
  word (fld w 15 0 * k / 256 + fld w 31 16 * k / 256 * 2 ^ 16 + fld w 47 32 * k / 256 * 2 ^ 32 + fld w 63 48 * k / 256 * 2 ^ 48)

/-- Applies the pending fade of a mark word, if there is one (17 R343). -/
def State.settleMark (s : State) (hall w : Nat) : State :=
  match (s.hall hall).pendFade.find? (·.1 == w) with
  | some (_, k) =>
    let a := markAddr hall w
    (s.store a 8 (fadeWord (s.loadW a) k).toNat).setHall hall fun h => { h with pendFade := h.pendFade.filter (·.1 != w) }
  | none => s

/-- Hall and mark word of a mark address. -/
def markOf (h : Nat) : Nat × Nat := ((h - 0x3_0000_0000) / 0x20_0000, h % 0x20_0000 / 8)

/-- A mark after any pending fade (17 R343). -/
def State.markAt (s : State) (h : Nat) : State × Nat :=
  let m := markOf h
  let s := s.settleMark m.1 m.2
  (s, s.load h 2)

/-- Deposits into a mark (17 R347): a saturating sum, or the maximum. -/
def State.deposit (s : State) (h amount : Nat) (max' : Bool) : State :=
  let (s, v) := s.markAt h
  s.store h 2 (if max' then max v amount else min (v + amount) 65535)

/-! Relaxed accesses. -/

/-- What performing a relaxed access at its memory gives: done, held at its port by a translation fault, or a fault reply. -/
inductive Perf where
  | done (s : State)
  | held (s : State) (h : Nat) (acc : AccKind) (why : XReason)
  | bad (s : State) (kind reason h : Nat)

/-- One access of a relaxed operation at its translated place, or why it is not performed. -/
def State.performAt (s : State) (core h right : Nat) (acc : AccKind) (go : State → Phys → State) : Perf :=
  match s.reach (s.portOf core h) h right with
  | (s, .error why) => .held s h acc why
  | (s, .ok p) =>
    if s.physOffline p then .bad s 6 3 h
    else if s.badWord h then .bad s 0x0D 3 h
    else .done (go s p)

/-- Data of a relaxed load reach a context's registers: those that its awaited bundle has found too, should that bundle be undone (04 R89). -/
def State.deliver (s : State) (ctx : Nat) (f : Ctx → Ctx) : State :=
  match tfind s.before ctx with
  | some u => { (s.setCtx ctx f) with before := tset s.before ctx { u with ctx := f u.ctx } }
  | none => s.setCtx ctx f

/-- Writes a register of a context for a relaxed load. -/
def State.wrCtx (s : State) (ctx d : Nat) (v : Word) : State := s.deliver ctx fun c => c.wr d v

/-- The value of a load of `size` bytes (10 R234). -/
def loaded (size : Nat) (signed : Bool) (v : Nat) : Word := if signed then sextW (8 * size) v else word v

/-- What the translation of every lane of a vector access gives: their places, or the first that fails. -/
inductive Lanes where
  | ok (s : State) (ps : List Phys)
  | no (r : Perf)

/-- The places of the lanes at some addresses; no lane is performed unless every one has passed (10 R238). -/
def State.lanePlaces (s : State) (core right : Nat) : List Nat → Lanes
  | [] => .ok s []
  | h :: t =>
    match s.reach (s.portOf core h) h right with
    | (s, .error why) => .no (.held s h .vector why)
    | (s, .ok p) =>
      if s.physOffline p then .no (.bad s 6 3 h)
      else if s.badWord h then .no (.bad s 0x0D 3 h)
      else
        match s.lanePlaces core right t with
        | .ok s ps => .ok s (p :: ps)
        | .no r => .no r

/-- Loads lanes from their places, in increasing order (10 R238). -/
def State.loadLanes (s : State) (ctx v : Nat) : List (Nat × Nat) → List Phys → State
  | (i, h) :: t, p :: ps =>
    let x := s.seen ctx h 4 (s.get p 4)
    (x.2.deliver ctx fun c => c.setLane v i (BitVec.ofNat 32 x.1)).loadLanes ctx v t ps
  | _, _ => s

/-- Stores lanes at their places, in increasing order; each is a value and an address (10 R238). -/
def State.storeLanes (s : State) (ctx : Nat) : List (Nat × Nat) → List Phys → State
  | (x, h) :: t, p :: ps => ((s.put p 4 x).soil ctx h 4).storeLanes ctx t ps
  | _, _ => s

/-- Performs the lanes of a vector load (10 R238). -/
def State.performLoads (s : State) (ctx v : Nat) (ls : List (Nat × Nat)) : Perf :=
  match s.lanePlaces (coreOf ctx) rR (ls.map (·.2)) with
  | .ok s ps => .done (s.loadLanes ctx v ls ps)
  | .no r => r

/-- Performs the lanes of a vector store (10 R238). -/
def State.performStores (s : State) (ctx : Nat) (ls : List (Nat × Nat)) : Perf :=
  match s.lanePlaces (coreOf ctx) rW (ls.map (·.2)) with
  | .ok s ps => .done (s.storeLanes ctx ls ps)
  | .no r => r

/-- Performs a relaxed operation of a context at its memory (10 R236, 14 R316, 17 R347). -/
def State.perform (s : State) (ctx : Nat) (r : Relaxed) : Perf :=
  let core := coreOf ctx
  match r.op with
  | .load d size signed => s.performAt core r.h rR .load fun s p =>
      let x := s.seen ctx r.h size (s.get p size)
      x.2.wrCtx ctx d (loaded size signed x.1)
  | .store size v => s.performAt core r.h rW .store fun s p => (s.put p size v).soil ctx r.h size
  | .vload v ls => s.performLoads ctx v ls
  | .vstore ls => s.performStores ctx ls
  | .red op size b =>
    match s.reach (s.portOf core r.h) r.h rA with
    | (s, .ok p) =>
      if p.performs op true then
        s.performAt core r.h rA .atomic fun s p => s.put p size (amoNew op (8 * size) (s.get p size) b.toNat).1
      else .bad s 6 2 r.h
    | (s, .error why) => .held s r.h .atomic why
  | .mdep amount => if s.offline (unitOf r.h) then .bad s 6 3 r.h else .done (s.deposit r.h amount false)
  | .mdepx amount => if s.offline (unitOf r.h) then .bad s 6 3 r.h else .done (s.deposit r.h amount true)

/-- Whether an operation is recorded in the reduction log rather than by a relaxed fault (10 R236, 14 R317, 17 R348). -/
def RelOp.logged : RelOp → Bool
  | .red _ _ _ => true
  | .mdep _ => true
  | .mdepx _ => true
  | _ => false

/-- Adds an entry to a context's reduction log; a ninth sets the overflow bit (14 R317). -/
def State.logFault (s : State) (ctx : Nat) (r : Relaxed) (reason : Nat) : State :=
  let (op, sz, b) : Nat × Nat × Word :=
    match r.op with
    | .red op size b => (op, b2n (size == 8), b)
    | .mdep n => (16, 0, word n)
    | .mdepx n => (17, 0, word n)
    | _ => (0, 0, 0)
  s.setCtx ctx fun c =>
    if 8 ≤ c.rlog.length then { c with rovf := true }
    else { c with rlog := c.rlog ++ [{ h := r.h, operand := b, op := op, sz := sz, reason := reason, pc := r.pc }] }

/-! Going on after a wait. -/

/-- Whether nothing of 05 R112 keeps a context's bundle from issuing. -/
def Ctx.unhindered (c : Ctx) : Bool :=
  match decodeBundle c.bits with
  | .ok (i, j) => !hindered c.relaxed i j
  | .error _ => true

/-- An acknowledgement, reply or command completion of a context has arrived: a bundle held by 13 R299, 14 R321 or 03 R76 is tried again at
once, a context held by 05 R112 or 09 R228 goes on, and a hand-over, an image or a give-up that waits for it is tried again (23 R400, R409,
05 R120). -/
def State.kick (s : State) (ctx : Nat) : State :=
  let c := s.ctx ctx
  match c.status with
  | .waiting .fence => { s with latch := some ctx }
  | .waiting .migrate => { s with latch := some ctx }
  | .waiting .register =>
    if c.unhindered then s.setCtx ctx fun c => { c with status := if c.relaxed.any (·.held) then .waiting .held else .ready } else s
  | .waiting .held => if c.relaxed.any (·.held) || c.saving then s else s.setCtx ctx fun c => { c with status := .ready }
  | .waiting .giveUp => s.post (.rnTileGiveUp ctx)
  | .faulted _ => s.post (.faultHandover ctx)
  | .halted _ => s.post (.imageWrite ctx)
  | _ => s

end Sys2Proof.Machine
end

