-- ==== Sys2Proof/Machine/Sync.lean ====
section
/-! DEFINITION. Atomics, reductions, fences, full/empty words, futures, barriers and landing waits (14 R311 to R330). -/

namespace Sys2Proof.Machine

/-- A returning operation at the station of the word that `a` names: resolved (09 R214), after the fence of its scope (13 R300),
translated or migrated (03 R75), then performed. -/
def stationOp (a : Word) (k : Int) (size right : Nat) (c : Cls) (sc : BitVec 4) (s : State)
    (pre : State → Nat → Option FaultRec) (go : Nat → Phys → State → State) : Res :=
  match s.resolve a k size size right c with
  | .error f => .next (s.raise f)
  | .ok h =>
    match pre s h with
    | some f => .next (s.raise f)
    | none =>
      .next (s.scoped sc fun s =>
        match s.prepare h right .atomic (s.touches a) with
        | .stop s => s
        | .go s p => go h p s)

/-- No check beyond R214. -/
def noCheck (_ : State) (_ : Nat) : Option FaultRec := none

/-- Writes the value that a parked instruction was given as it resumes (14 R323); its bundle completes. -/
def State.resume (s : State) (d : BitVec 5) (v : Word) : State := (s.setMe fun c => { c with given := none }).wr d v

/-- A returning result: written, and the context waits for the reply. -/
def State.reply (s : State) (d : BitVec 5) (v : Word) : State := (s.wr d v).await

/-! AMO, AMOCAS and RED. -/

/-- House-address fault, reason "access kind", of an operation that its station does not perform (14 R311). -/
def State.notPerformed (s : State) (h : Nat) : State := s.raise (s.flt 6 2 h)

/-- An integer fetch-and-add travels to its station, where it is performed, alone or combined with others (11 R259, R261). One that the other syllable of
its bundle has stopped is not sent. -/
def State.sendAdd (s : State) (d : BitVec 5) (h size v : Nat) (p : Phys) (dst : Nat × Nat) (on : Option (Nat × Nat)) : State :=
  if !s.me.status.going then s
  else
    let id := s.nextId
    let s := (s.setMe fun c => { c with status := .waiting .reply, parkedAt := s.clock.cc, amo := some { id := id, d := d.toNat, h := h, place := p } }).noteWait
      s.cur .reply
    State.send { s with nextId := id + 1 } (s.lineAt s.myCore) dst
      { op := 32, h := h, width := size, value := v % 2 ^ (8 * size), who := [(s.cur, id)], bytes := 8, on := on }

/-- Whether the other syllable of the executing bundle accesses nothing: where that is not so, a fetch-and-add is performed with it, so that the bundle takes effect whole
(04 R89; log 52). -/
def State.alone (s : State) : Bool :=
  match decodeBundle s.src.bits with
  | .ok (_, j) => (match j with
      | .vld _ _ _ _ _ => false
      | .vst _ _ _ _ _ => false
      | .vlds _ _ _ _ _ _ => false
      | .vsts _ _ _ _ _ _ => false
      | .vgath _ _ _ _ _ _ _ => false
      | .vscat _ _ _ _ _ _ _ => false
      -- no other V syllable accesses memory by itself
      | _ => true)
  | .error _ => true

/-- AMO (14 R313, R314). An integer add to a word that a packet reaches is performed on the packet's arrival. -/
def execAmo (d a b : BitVec 5) (n : BitVec 4) (z : BitVec 1) (o : BitVec 5) (s : State) : Res :=
  let size := 4 * (z.toNat + 1)
  stationOp (s.rg a) 0 size rA .atomic n s noCheck fun h p s =>
    if !p.performs o.toNat false then s.notPerformed h
    else
      match if o = 0 ∧ s.alone = true then s.goesTo s.myCore h else none with
      | some (dst, on) => s.sendAdd d h size (s.rg b).toNat p dst on
      | none =>
        let old := s.get p size
        let r := amoNew o.toNat (8 * size) old (s.rg b).toNat
        ((s.put p size r.1).setMe fun c => { c with raised := orFlags c.raised r.2 }).reply d (word old)

/-- AMOCAS (14 R314): gD holds the compare value and receives the old one. -/
def execAmocas (d a b : BitVec 5) (n : BitVec 4) (z : BitVec 1) (s : State) : Res :=
  let size := 4 * (z.toNat + 1)
  stationOp (s.rg a) 0 size rA .atomic n s noCheck fun _ p s =>
    let old := s.get p size
    let s := if old = (s.rg d).toNat % 2 ^ (8 * size) then s.put p size (s.rg b).toNat else s
    s.reply d (word old)

/-- RED (14 R315, R316): checked at issue, then a relaxed access that travels by itself; at the issuer's own store it is performed
at issue (13 R303). -/
def execRed (a b : BitVec 5) (z : BitVec 1) (o : BitVec 5) (s : State) : Res :=
  let size := 4 * (z.toNat + 1)
  match s.resolve (s.rg a) 0 size size rA .atomic with
  | .error f => .next (s.raise f)
  | .ok h =>
    let op := RelOp.red o.toNat size (s.rg b)
    if 4 ≤ s.me.relaxed.length then .next (s.hold .register)
    else if s.own h && !s.badWord h then
      let s := s.relax op h true .relaxedAcknowledgement
      .next (s.put (.house h) size (amoNew o.toNat (8 * size) (s.load h size) (s.rg b).toNat).1)
    else .next (s.relax op h false .remoteUpdate)

/-! Fences. -/

/-- FENCE (13 R299, 14 R320). -/
def execFence (n : BitVec 4) (s : State) : Res := .next (s.fencePoint n.toNat id)

/-- Commands of the executing task in the queues of a mask (14 R321). -/
def State.queued (s : State) (mask : Nat) : Bool :=
  (s.copiesOf s.cur s.src.gid).any (fun q => bitOf mask (bits q.syl.toNat 2 0)) ||
    (bitOf mask 8 && !(s.tilesOf s.cur s.src.gid).isEmpty)

/-- The failure recorded earliest among some, each with the room that recorded it. -/
def earliest : List (Nat × Failure) → Option (Nat × Failure)
  | [] => none
  | x :: t =>
    match earliest t with
    | some y => if y.2.num < x.2.num then some y else some x
    | none => some x

/-- The failure QFENCE reports, with the room that recorded it: of the tile queue first, else the copy failure of the named queues that was recorded
earliest (14 R321). A failure follows its task to the room where it runs (log 60). -/
def State.failure (s : State) (mask : Nat) : Option (Nat × Failure) :=
  if isPorch s.myCore then none
  else
    let mine := s.rooms.flatMap fun e =>
      (e.2.fails.filter fun f => f.gid == s.src.gid && f.lrec == s.src.lrec && bitOf mask f.queue).map fun f => (e.1, f)
    match earliest (mine.filter fun x => x.2.queue == 8) with
    | some x => some x
    | none => earliest mine

/-- The fault of a recorded failure (23 R399): copy or tile command, reported late. -/
def State.failFault (s : State) (f : Failure) : FaultRec :=
  if f.queue = 8 then { (s.flt 0x12 f.reason f.pc.toNat f.failed.toNat) with late := true }
  else { (s.flt 0x11 0 f.pc.toNat f.queue f.failed.toNat) with late := true }

/-- QFENCE with queue mask gA (14 R321); with `own`, a FENCE of scope `n` too. -/
def qfence (a : BitVec 5) (own : Bool) (n : Nat) (s : State) : Res :=
  let mask := (s.rg a).toNat
  if 512 ≤ mask then .next (s.operand 1 a)
  else if s.queued mask || (own && (s.me.relaxed.any (s.within s.cur n) || (n != 0 && !s.me.frontQ.isEmpty))) then .next (s.hold .fence)
  else
    match s.failure mask with
    | some (room, f) =>
      let s := s.setRoom room fun r => { r with fails := r.fails.erase f }
      .next (s.raise (s.failFault f))
    | none => .next (s.checkLog id)

/-- QFENCE (14 R321). -/
def execQfence (a : BitVec 5) (s : State) : Res := qfence a false 0 s

/-- QFENCE.own (14 R321). -/
def execQfenceOwn (a : BitVec 5) (n : BitVec 4) (s : State) : Res := qfence a true n.toNat s

/-! Full/empty words. -/

/-- Operations on full/empty words, as the parties of 03 R50 are told apart. -/
inductive FeOp where
  | take
  | put
  | read
  | set
  deriving DecidableEq, Repr

/-- The party check of the hall-service window (03 R50): a launch word admits PUT and FEREAD of any task, a hearth word the TAKE of
its core's hearth context. -/
def feParty (a : Word) (k : Int) (op : FeOp) (s : State) (h : Nat) : Option FaultRec :=
  let seg := fld a 63 61
  let rights := s.flt 3 0 (regForm a ((fld a 60 0 : Int) + k)) (seg + 2 ^ rF * 256)
  match unitOf h, op with
  | .launchWord _ _, .take => some rights
  | .launchWord _ _, .set => some (s.flt 6 2 h)
  | .hearthWord _ core, .take => if core + 192 * ((h - 0xF_0000_0000) / 0x100_0000) = s.myCore && slotOf s.cur == 0 && bitOf s.src.st.toNat 0 then none else some rights
  | .hearthWord _ _, .set => some (s.flt 6 2 h)
  | .hearthWord _ _, _ => some rights
  | _, _ => none

/-- A word of local-store state only: barrier and landing words (14 R311, 03 R50). -/
def localOnly (s : State) (h : Nat) : Option FaultRec :=
  match unitOf h with
  | .localStore _ _ => none
  | _ => some (s.flt 6 2 h)

/-- Bytes that an operation on a full/empty word sends, and those that it brings back (11 R255). -/
def FeOp.bytes : FeOp → Nat × Nat
  | .take => (0, 8)
  | .read => (0, 8)
  | .put => (8, 0)
  | .set => (8, 0)

/-- A full/empty operation at displacement `i` (14 R322). -/
def feOp (a : BitVec 5) (i : BitVec 8) (n : BitVec 4) (op : FeOp) (s : State) (go : Nat → State → State) : Res :=
  let k := disp i 8
  stationOp (s.rg a) k 8 rF .sync n s (feParty (s.rg a) k op) fun h _ s => go h (s.toward h op.bytes.1 op.bytes.2)

/-- TAKE (09 R230, 14 R322). -/
def execTake (d a : BitVec 5) (n : BitVec 4) (i : BitVec 8) (s : State) : Res :=
  match s.src.given with
  | some v => .next (s.resume d v)
  | none =>
    feOp a i n .take s fun h s =>
      match s.feTake h with
      | some (v, s) => s.reply d v
      | none => s.parkAt h .taker

/-- PUT at the station by the executing context; a word of a hall that is being taken out of service parks it (25 R433). -/
def State.putOrPark (s : State) (h : Nat) (v : Word) : State :=
  let closed := match unitOf h with
    | .launchWord hall _ => !s.hallOpen hall
    | _ => false
  if closed then s.parkAt h (.putter v)
  else
    match s.fePut h v with
    | some s => s.await
    | none => s.parkAt h (.putter v)

/-- Completion of a parked instruction that returns no value. -/
def State.resumed (s : State) : State := s.setMe fun c => { c with given := none }

/-- PUT (09 R230, 14 R322, R323). -/
def execPut (d a : BitVec 5) (n : BitVec 4) (i : BitVec 8) (s : State) : Res :=
  match s.src.given with
  | some _ => .next s.resumed
  | none => feOp a i n .put s fun h s => s.putOrPark h (s.rg d)

/-- FEREAD.d (14 R323). -/
def execFereadD (d a : BitVec 5) (n : BitVec 4) (i : BitVec 8) (s : State) : Res :=
  match s.src.given with
  | some v => .next (s.resume d v)
  | none =>
    feOp a i n .read s fun h s => if s.isFull h then s.reply d (s.loadW h) else s.parkAt h .reader

/-- FEREAD.probe (14 R323). -/
def execFereadProbe (d a : BitVec 5) (n : BitVec 4) (i : BitVec 8) (s : State) : Res :=
  feOp a i n .read s fun h s => s.reply d (word (s.feProbe h))

/-- FESET.empty (14 R323). -/
def execFesetEmpty (a : BitVec 5) (n : BitVec 4) (i : BitVec 8) (s : State) : Res :=
  feOp a i n .set s fun h s => ((if s.isFull h then s.feEmpty h else s).toward h 0 0).await

/-- FESET.full (14 R323). -/
def execFesetFull (d a : BitVec 5) (n : BitVec 4) (i : BitVec 8) (s : State) : Res :=
  feOp a i n .set s fun h s => (s.feForce h (s.rg d)).await

/-! Futures and LAUNCH: house addresses that a segment must cover with F (06 R142, 14 R325). -/

/-- Whether some segment covers `n` bytes at house address `h` with the right F. -/
def Ctx.covers (c : Ctx) (h n : Nat) : Bool :=
  [0, 1, 2, 3, 4, 5, 6, 7].any fun k =>
    let g := c.seg k
    segClean g && segHas g rF && decide (segBase g ≤ h) && decide (h + n ≤ segBase g + segLimit g)

/-- The segment-rights fault of a house address that no segment covers (23 R399). -/
def State.uncovered (s : State) (h : Nat) : State := s.raise (s.flt 3 0 h (2 ^ rF * 256 + 2 ^ 16))

/-- A FUT instruction on the entry at `addr` of a hall (14 R325), with the bytes that it sends and brings back (11 R255). -/
def futOp (bad : Bool) (a : BitVec 5) (addr hall : Nat) (n : BitVec 4) (bytes back : Nat) (s : State) (go : State → State) : Res :=
  if bad then .next (s.operand 1 a)
  else if !s.src.covers addr 16 then .next (s.uncovered addr)
  else if !s.hallUp hall then .next (s.raise (s.flt 6 3 addr))
  else .next (s.scoped n fun s => go (s.toward addr bytes back))

/-- Future fault (23 R399): 1 stale, 2 full, 3 dropped. -/
def State.futureFault (s : State) (reason handle : Nat) : State := s.raise (s.flt 0x15 reason handle)

/-- FUTNEW (14 R325). -/
def execFutnew (d a : BitVec 5) (n : BitVec 4) (s : State) : Res :=
  let hall := (s.rg a).toNat
  futOp (31 < hall) a (futureAddr hall 0) hall n 0 8 s fun s =>
    let r := s.futNew hall
    r.2.reply d r.1

/-- FUTSET (14 R325). -/
def execFutset (a b : BitVec 5) (n : BitVec 4) (s : State) : Res :=
  let x := (s.rg a).toNat
  futOp (2 ^ 32 ≤ x) a (handleAddr x) (bits x 31 27) n 8 0 s fun s =>
    match s.futSet x (s.rg b) with
    | .ok s => s.await
    | .error r => s.futureFault r x

/-- FUTGET (14 R325). -/
def execFutget (d a : BitVec 5) (n : BitVec 4) (s : State) : Res :=
  match s.src.given with
  | some v => .next (s.resume d v)
  | none =>
    let x := (s.rg a).toNat
    futOp (2 ^ 32 ≤ x) a (handleAddr x) (bits x 31 27) n 0 8 s fun s =>
      let e := handleAddr x
      if !s.futLive x then s.futureFault 1 x
      else if fld (s.futWord e) 14 14 = 1 then s.reply d (s.loadW e)
      else if (listOf e).2 ≤ s.listCount e then s.parkAt e .future
      else (s.store (e + 8) 8 (setFld (s.futWord e) 15 15 1).toNat).parkAt e .future

/-- FUTDROP (14 R325). -/
def execFutdrop (a : BitVec 5) (n : BitVec 4) (s : State) : Res :=
  let x := (s.rg a).toNat
  futOp (2 ^ 32 ≤ x) a (handleAddr x) (bits x 31 27) n 0 0 s fun s =>
    match s.futDrop x with
    | .ok s => s.await
    | .error r => s.futureFault r x

/-! Barrier and landing words. -/

/-- An operation on a barrier or landing word (14 R328, R329). -/
def wordOp (a : BitVec 5) (n : BitVec 4) (s : State) (go : Nat → State → State) : Res :=
  stationOp (s.rg a) 0 8 rF .sync n s localOnly fun h _ s => go h s

/-- Barrier fault (23 R399): the phase carried and the word. -/
def State.barrierFault (s : State) (reason h phase : Nat) : State := s.raise (s.flt 0x16 reason h phase (s.loadW h).toNat)

/-- BARINIT (14 R328). -/
def execBarinit (a b : BitVec 5) (n : BitVec 4) (s : State) : Res :=
  let x := s.rg b
  if fld x 63 36 ≠ 0 || fld x 19 0 = 0 then .next (s.operand 2 b)
  else
    wordOp a n s fun h s =>
      if !(s.parkedAt h fun _ => true).isEmpty then s.barrierFault 1 h (fld x 35 20)
      else ((s.store h 8 (fld x 19 0 * 2 ^ 24 + fld x 35 20 * 2 ^ 8 + 1)).toward h 8 0).await

/-- ARRIVE (14 R328). -/
def execArrive (d a b : BitVec 5) (n : BitVec 4) (s : State) : Res :=
  let x := s.rg b
  if fld x 63 16 ≠ 0 then .next (s.operand 2 b)
  else
    wordOp a n s fun h s =>
      let w := s.loadW h
      let q := fld x 15 0
      let phase := fld w 23 8
      if fld w 7 0 ≠ 1 then s.barrierFault 2 h q
      else if q ≠ phase then s.barrierFault (if (phase + 65536 - q) % 65536 < 32768 then 3 else 4) h q
      else
        let count := (fld w 63 44 + 1) % 2 ^ 20
        if count = fld w 43 24 then
          let p := (phase + 1) % 65536
          let w' := setFld (setFld w 63 44 0) 23 8 p
          ((s.store h 8 w'.toNat).reeval h).reply d (word (2 ^ 16 + p))
        else (s.store h 8 (setFld w 63 44 count).toNat).reply d (word phase)

/-- WAITB (14 R328). -/
def execWaitb (d a b : BitVec 5) (n : BitVec 4) (s : State) : Res :=
  match s.src.given with
  | some v => .next (s.resume d v)
  | none =>
    let x := s.rg b
    if fld x 63 16 ≠ 0 then .next (s.operand 2 b)
    else
      wordOp a n s fun h s =>
        let w := s.loadW h
        if fld w 7 0 ≠ 1 then s.barrierFault 2 h (fld x 15 0)
        else if fld w 23 8 ≠ fld x 15 0 then s.reply d w
        else s.parkAt h (.barrier (fld x 15 0))

/-- WAITL (14 R329). -/
def execWaitl (d a b : BitVec 5) (n : BitVec 4) (s : State) : Res :=
  match s.src.given with
  | some v => .next (s.resume d v)
  | none =>
    let x := s.rg b
    if fld x 63 8 ≠ 0 then .next (s.operand 2 b)
    else
      wordOp a n s fun h s =>
        let w := s.loadW h
        if fld w 7 0 ≠ fld x 7 0 then s.reply d w else s.parkAt h (.landing (fld x 7 0))

/-- LANDSET (10 R254): a plain store at the landing word's station; `w` is NEW. The operand fault comes before the address's (DESIGN CHOICE, log 125). -/
def execLandset (a b : BitVec 5) (w : BitVec 1) (s : State) : Res :=
  let x := s.rg b
  if fld x 63 24 ≠ 0 then .next (s.operand 2 b)
  else
    wordOp a 0 s fun h s =>
      let gen := if w = 1 then 0 else fld (s.loadW h) 7 0
      ((((s.store h 8 (fld x 23 0 * 2 ^ 32 + gen)).reeval h).soil s.cur h 8).toward h 8 0).await

end Sys2Proof.Machine
end

