-- ==== Sys2Proof/Machine/Vector.lean ====
section
/-! DEFINITION. The V syllables of the lane pool (08 R189 to R211) and MX blocks (07 R182, R183). Operands are read from the
context as the bundle found it; a syllable acts on lanes below the L of that moment. -/

namespace Sys2Proof.Machine

/-- Element width of a type (R190). -/
def tyWidth (t : Nat) : Nat :=
  if t = 0 ∨ t = 3 ∨ t = 6 then 32 else if t = 1 ∨ t = 4 ∨ t = 7 ∨ t = 8 then 16 else if t = 13 then 4 else 8

/-- Least value of an integer type 0 to 5 (R197). -/
def tyLo (t : Nat) : Int := if t < 3 then -(2 ^ (tyWidth t - 1) : Nat) else 0

/-- Greatest value of an integer type 0 to 5. -/
def tyHi (t : Nat) : Int := if t < 3 then (2 ^ (tyWidth t - 1) : Nat) - 1 else (2 ^ tyWidth t : Nat) - 1

/-- An element as an integer, signed for .i types (R197). -/
def tyInt (t x : Nat) : Int := if t < 3 then sextN (tyWidth t) x else (x % 2 ^ tyWidth t : Nat)

/-- Element `k` of a lane (R190). -/
def el (w x k : Nat) : Nat := bits x (w * k + w - 1) (w * k)

/-- A lane with element `k` replaced. -/
def setEl (w x k v : Nat) : Nat := x - el w x k * 2 ^ (w * k) + v % 2 ^ w * 2 ^ (w * k)

/-- A lane's elements, each computed with its flags. -/
def perElem (w : Nat) (f : Nat → Nat × Nat) : Nat × Nat :=
  (List.range (32 / w)).foldl (fun acc k => (acc.1 + (f k).1 % 2 ^ w * 2 ^ (w * k), orFlags acc.2 (f k).2)) (0, 0)

/-- A syllable that requires a lane claim (R192, 05 R442). -/
def withLanes (s : State) (go : State → State) : Res :=
  if isPorch s.myCore then .next s.porchFault
  else if s.src.lanes = 0 then .next (s.claimFault 1)
  else .next (go s)

/-- Whether lane `i` takes part (R191). -/
def State.takes (s : State) (m : BitVec 1) (i : Nat) : Bool := m == 0 || s.pbit i

/-- The taking-part lanes in increasing order (R191). -/
def State.taking (s : State) (m : BitVec 1) : List Nat := (List.range s.src.lanes).filter (s.takes m)

/-- Lane `i` of a source register. -/
def State.vl (s : State) (v : BitVec 4) (i : Nat) : Nat := (s.src.lane v.toNat i).toNat

/-- Writes lanes of a register. -/
def Ctx.setLanes (c : Ctx) (v : Nat) (rs : List (Nat × Nat)) : Ctx :=
  rs.foldl (fun c r => c.setLane v r.1 (BitVec.ofNat 32 r.2)) c

/-- Flags raised by the bundle (07 R177). -/
def State.raiseFlags (s : State) (fl : Nat) : State := s.setMe fun c => { c with raised := orFlags c.raised fl }

/-- A syllable that computes each taking-part lane of a destination, with flags. -/
def laneOp (m : BitVec 1) (d : BitVec 4) (s : State) (f : Nat → Nat × Nat) : Res :=
  withLanes s fun s =>
    let rs := (s.taking m).map fun i => (i, f i)
    (s.setMe fun c => c.setLanes d.toNat (rs.map fun r => (r.1, r.2.1))).raiseFlags (rs.foldl (fun acc r => orFlags acc r.2.2) 0)

/-- A syllable that acts element by element on two operands. -/
def elemOp (m : BitVec 1) (t : BitVec 4) (d a b : BitVec 4) (s : State) (f : Nat → Nat → Nat × Nat) : Res :=
  let w := tyWidth t.toNat
  laneOp m d s fun i => perElem w fun k => f (el w (s.vl a i) k) (el w (s.vl b i) k)

/-- An element-wise syllable with a third source, the destination (R196). -/
def elemOp3 (m : BitVec 1) (t : BitVec 4) (d a b : BitVec 4) (s : State) (f : Nat → Nat → Nat → Nat × Nat) : Res :=
  let w := tyWidth t.toNat
  laneOp m d s fun i => perElem w fun k => f (el w (s.vl a i) k) (el w (s.vl b i) k) (el w (s.vl d i) k)

/-- Rounding mode of an RND field (R194). -/
def State.mode (s : State) (r : BitVec 3) : Nat := rndMode r s.src.fpc

/-! Floating-point arithmetic (R196). -/

/-- VADD, floating point. -/
def execVaddF (m : BitVec 1) (t d a b : BitVec 4) (r : BitVec 3) (s : State) : Res :=
  elemOp m t d a b s ((fmt t.toNat).add (s.mode r))

/-- VSUB, floating point. -/
def execVsubF (m : BitVec 1) (t d a b : BitVec 4) (r : BitVec 3) (s : State) : Res :=
  elemOp m t d a b s ((fmt t.toNat).sub (s.mode r))

/-- VMUL, floating point. -/
def execVmulF (m : BitVec 1) (t d a b : BitVec 4) (r : BitVec 3) (s : State) : Res :=
  elemOp m t d a b s ((fmt t.toNat).mul (s.mode r))

/-- VFMA: one rounding of a × b + d. -/
def execVfma (m : BitVec 1) (t d a b : BitVec 4) (r : BitVec 3) (s : State) : Res :=
  let f := fmt t.toNat
  elemOp3 m t d a b s fun x y z => f.finish (s.mode r) (fmaVal (s.mode r) (f.val x) (f.val y) (f.val z))

/-- VFMS: one rounding of a × b − d. -/
def execVfms (m : BitVec 1) (t d a b : BitVec 4) (r : BitVec 3) (s : State) : Res :=
  let f := fmt t.toNat
  elemOp3 m t d a b s fun x y z => f.finish (s.mode r) (fmaVal (s.mode r) (f.val x) (f.val y) (f.val z).negate)

/-- VMIN, floating point (07 R187). -/
def execVminF (m : BitVec 1) (t d a b : BitVec 4) (s : State) : Res := elemOp m t d a b s ((fmt t.toNat).minMax false)

/-- VMAX, floating point (07 R187). -/
def execVmaxF (m : BitVec 1) (t d a b : BitVec 4) (s : State) : Res := elemOp m t d a b s ((fmt t.toNat).minMax true)

/-- VABS, floating point. -/
def execVabsF (m : BitVec 1) (t d a : BitVec 4) (s : State) : Res :=
  elemOp m t d a a s fun x _ => (fmt t.toNat).signOp false x

/-- VNEG, floating point. -/
def execVnegF (m : BitVec 1) (t d a : BitVec 4) (s : State) : Res :=
  elemOp m t d a a s fun x _ => (fmt t.toNat).signOp true x

/-! Packed integer arithmetic (R197, R198). -/

/-- Delivery of an exact integer to a type: clamped with SAT, else wrapped. -/
def tyFit (t : Nat) (sat : Bool) (x : Int) : Nat :=
  wrapI (tyWidth t) (if sat then min (tyHi t) (max (tyLo t) x) else x)

/-- A packed integer form: the exact result of two elements. -/
def packed (m : BitVec 1) (t d a b : BitVec 4) (sat : Bool) (s : State) (f : Int → Int → Int) : Res :=
  elemOp m t d a b s fun x y => (tyFit t.toNat sat (f (tyInt t.toNat x) (tyInt t.toNat y)), 0)

/-- VADD, integer. -/
def execVaddI (m : BitVec 1) (t d a b : BitVec 4) (x : BitVec 1) (s : State) : Res := packed m t d a b (x == 1) s (· + ·)

/-- VSUB, integer. -/
def execVsubI (m : BitVec 1) (t d a b : BitVec 4) (x : BitVec 1) (s : State) : Res := packed m t d a b (x == 1) s (· - ·)

/-- VMUL, integer: the low w bits. -/
def execVmulI (m : BitVec 1) (t d a b : BitVec 4) (s : State) : Res := packed m t d a b false s (· * ·)

/-- VMULH. -/
def execVmulh (m : BitVec 1) (t d a b : BitVec 4) (s : State) : Res :=
  packed m t d a b false s fun x y => x * y / (2 ^ tyWidth t.toNat : Nat)

/-- VMIN, integer. -/
def execVminI (m : BitVec 1) (t d a b : BitVec 4) (s : State) : Res := packed m t d a b false s min

/-- VMAX, integer. -/
def execVmaxI (m : BitVec 1) (t d a b : BitVec 4) (s : State) : Res := packed m t d a b false s max

/-- VABS, integer; a for .n types. -/
def execVabsI (m : BitVec 1) (t d a : BitVec 4) (x : BitVec 1) (s : State) : Res :=
  packed m t d a a (x == 1) s fun x _ => (x.natAbs : Int)

/-- VNEG, integer. -/
def execVnegI (m : BitVec 1) (t d a : BitVec 4) (x : BitVec 1) (s : State) : Res := packed m t d a a (x == 1) s fun x _ => 0 - x

/-- VAND. -/
def execVand (m : BitVec 1) (t d a b : BitVec 4) (s : State) : Res := elemOp m t d a b s fun x y => (x &&& y, 0)

/-- VOR. -/
def execVor (m : BitVec 1) (t d a b : BitVec 4) (s : State) : Res := elemOp m t d a b s fun x y => (x ||| y, 0)

/-- VXOR. -/
def execVxor (m : BitVec 1) (t d a b : BitVec 4) (s : State) : Res := elemOp m t d a b s fun x y => (x ^^^ y, 0)

/-- VSHL: a × 2^(b mod w). -/
def execVshl (m : BitVec 1) (t d a b : BitVec 4) (x : BitVec 1) (s : State) : Res :=
  packed m t d a b (x == 1) s fun u v => u * (2 ^ (v % (tyWidth t.toNat : Nat)).toNat : Nat)

/-- VSHR: arithmetic for .i, logical for .n. -/
def execVshr (m : BitVec 1) (t d a b : BitVec 4) (s : State) : Res :=
  packed m t d a b false s fun u v => u / (2 ^ (v % (tyWidth t.toNat : Nat)).toNat : Nat)

/-- VCLZ. -/
def execVclz (m : BitVec 1) (t d a : BitVec 4) (s : State) : Res :=
  elemOp m t d a a s fun x _ => (clzN (tyWidth t.toNat) x, 0)

/-- VCTZ. -/
def execVctz (m : BitVec 1) (t d a : BitVec 4) (s : State) : Res :=
  elemOp m t d a a s fun x _ => (ctzN (tyWidth t.toNat) x, 0)

/-- VPOPC. -/
def execVpopc (m : BitVec 1) (t d a : BitVec 4) (s : State) : Res :=
  elemOp m t d a a s fun x _ => (popN (tyWidth t.toNat) x, 0)

/-! Compare and select (R199, R200). -/

/-- The condition of VCMP on two FP32 values. -/
def fcond (c : Nat) (x y : FVal) : Bool :=
  let uo := x.isNan || y.isNan
  let lt := FVal.lt false x y
  let gt := FVal.lt false y x
  if c = 0 then !uo && !lt && !gt
  else if c = 1 then uo || lt || gt
  else if c = 2 then lt
  else if c = 3 then !uo && !gt
  else if c = 4 then gt
  else if c = 5 then !uo && !lt
  else if c = 6 then uo
  else !uo

/-- The condition of VCMP on two integers. -/
def icond (c : Nat) (x y : Int) : Bool :=
  if c = 0 then x == y
  else if c = 1 then x != y
  else if c = 2 then decide (x < y)
  else if c = 3 then decide (x ≤ y)
  else if c = 4 then decide (y < x)
  else decide (y ≤ x)

/-- VCMP: writes p; bits at or above L become 0 (R199). -/
def execVcmp (m : BitVec 1) (t a b c : BitVec 4) (s : State) : Res :=
  withLanes s fun s =>
    let f := fmt 6
    let holds := fun i =>
      if t = 6 then fcond c.toNat (f.val (s.vl a i)) (f.val (s.vl b i))
      else icond c.toNat (tyInt t.toNat (s.vl a i)) (tyInt t.toNat (s.vl b i))
    let set := (s.taking m).filter holds
    let sig := t == 6 && (s.taking m).any fun i => (f.val (s.vl a i)).isSig || (f.val (s.vl b i)).isSig
    (s.setMe fun x => { x with p := word (set.foldl (fun acc i => acc + 2 ^ i) 0) }).raiseFlags (if sig then flInvalid else 0)

/-- VSEL (R200). -/
def execVsel (d a b : BitVec 4) (s : State) : Res :=
  laneOp 0 d s fun i => (if s.pbit i then s.vl a i else s.vl b i, 0)

/-! Conversions (R201, R202). -/

/-- One conversion from a type to another (R202). -/
def cvt (src dst mode : Nat) (sat : Bool) (x : Nat) : Nat × Nat :=
  if src < 6 then
    (if dst < 6 then (tyFit dst sat (tyInt src x), 0) else (fmt dst).deliver mode sat (ofInteger (tyInt src x)))
  else if dst < 6 then
    let r := toInteger mode (tyLo dst) (tyHi dst) ((fmt src).val x)
    (wrapI (tyWidth dst) r.1, r.2)
  else
    match (fmt src).val x with
    | .nan sig => (fmt dst).deliver mode sat (.nan sig)
    | v => (fmt dst).deliver mode sat v

/-- VCVT with part index `h` (R201). -/
def execVcvt (m : BitVec 1) (t d a h src : BitVec 4) (x : BitVec 1) (r : BitVec 3) (s : State) : Res :=
  let ws := tyWidth src.toNat
  let wd := tyWidth t.toNat
  let ns := 32 / ws
  let nd := 32 / wd
  let h := h.toNat
  let cv := cvt src.toNat t.toNat (s.mode r) (x == 1)
  laneOp m d s fun i =>
    if ns ≤ nd then
      (List.range ns).foldl (fun acc k =>
        let e := cv (el ws (s.vl a i) k)
        (setEl wd acc.1 (h * ns + k) e.1, orFlags acc.2 e.2)) (s.vl d i, 0)
    else perElem wd fun k => cv (el ws (s.vl a i) (h * nd + k))

/-! MX blocks (R203; 07 R171, R172, R182, R183). -/

/-- emax of an element format (07 R172). -/
def mxEmax (t : Nat) : Int :=
  if t = 9 then 15 else if t = 10 then 8 else if t = 11 then 4 else if t = 12 then 2 else if t = 13 then 2 else 0

/-- floor(log2 |x|) of a nonzero finite value. -/
def topOf : FVal → Option Int
  | .fin _ m e => if m = 0 then none else some ((Nat.log2 m : Int) + e)
  | _ => none

/-- Greatest floor(log2 |x|) of a block; none where every value is zero. -/
def blockTop (xs : List FVal) : Option Int :=
  xs.foldl (fun acc x =>
    match acc, topOf x with
    | some a, some b => some (max a b)
    | none, b => b
    | a, none => a) none

/-- A value divided by 2^s. -/
def FVal.scaled (s : Int) : FVal → FVal
  | .fin n m e => .fin n m (e - s)
  | v => v

/-- Quantisation of one block of 32 FP32 values: scale code, elements and flags (07 R182). -/
def quantise (t : Nat) (xs : List Nat) : Nat × List Nat × Nat :=
  let vs := xs.map (fmt 6).val
  if vs.any fun v => match v with
    | .fin _ _ _ => false
    | _ => true
  then (0xFF, xs.map fun _ => 0, flInvalid)
  else
    match blockTop vs with
    | none => (0, xs.map fun _ => 0, 0)
    | some top =>
      let s := min 127 (max (-127) (top - mxEmax t))
      let rs := vs.map fun v => (fmt t).deliver 0 true (v.scaled s)
      ((s + 127).toNat, rs.map (·.1), rs.foldl (fun acc r => orFlags acc r.2) 0)

/-- One element of a block times its scale, rounded to FP32 (07 R172, R183). -/
def dequantise (t mode scale x : Nat) : Nat × Nat :=
  if scale = 0xFF then ((fmt 6).nanCode, 0)
  else (fmt 6).deliver mode false (((fmt t).val x).scaled (127 - (scale : Int)))

/-- A syllable on MX blocks needs 32 lanes (R192). -/
def withBlocks (s : State) (go : State → State) : Res :=
  withLanes s fun s => if s.src.lanes < 32 then s.claimFault 1 else go s

/-- VQMX (R203). -/
def execVqmx (t d a b : BitVec 4) (s : State) : Res :=
  withBlocks s fun s =>
    let n := s.src.lanes / 32
    let w := tyWidth t.toNat
    let per := 32 / w
    let qs := (List.range n).map fun j => quantise t.toNat ((List.range 32).map fun i => s.vl a (32 * j + i))
    let es := qs.flatMap fun q => q.2.1
    let rows := (List.range (32 * n / per)).map fun l =>
      (l, (List.range per).foldl (fun acc k => acc + es.getD (per * l + k) 0 % 2 ^ w * 2 ^ (w * k)) 0)
    let s := s.setMe fun c => c.setLanes d.toNat rows
    let l0 := (s.me.lane b.toNat 0).toNat
    let sc := (List.range n).foldl (fun acc j => setEl 8 acc j (qs.getD j (0, [], 0)).1) l0
    (s.setMe fun c => c.setLane b.toNat 0 (BitVec.ofNat 32 sc)).raiseFlags (qs.foldl (fun acc q => orFlags acc q.2.2) 0)

/-- VDQMX (R203). -/
def execVdqmx (t d a b : BitVec 4) (s : State) : Res :=
  withBlocks s fun s =>
    let n := s.src.lanes / 32
    let w := tyWidth t.toNat
    let per := 32 / w
    let mode := fld s.src.fpc 18 16
    let rs := (List.range (32 * n)).map fun e =>
      (e, dequantise t.toNat mode (el 8 (s.vl b 0) (e / 32)) (el w (s.vl a (e / per)) (e % per)))
    (s.setMe fun c => c.setLanes d.toNat (rs.map fun r => (r.1, r.2.1))).raiseFlags (rs.foldl (fun acc r => orFlags acc r.2.2) 0)

/-! Special functions (R204). -/

/-- VRCP. -/
def execVrcp (m : BitVec 1) (t d a : BitVec 4) (r : BitVec 3) (s : State) : Res :=
  elemOp m t d a a s fun x _ => (fmt t.toNat).rcp (s.mode r) x

/-- VRSQ. -/
def execVrsq (m : BitVec 1) (t d a : BitVec 4) (r : BitVec 3) (s : State) : Res :=
  elemOp m t d a a s fun x _ => (fmt t.toNat).rsq (s.mode r) x

/-- VEXP2. -/
def execVexp2 (m : BitVec 1) (t d a : BitVec 4) (r : BitVec 3) (s : State) : Res :=
  elemOp m t d a a s fun x _ => (fmt t.toNat).exp2 (s.mode r) x

/-- VLOG2. -/
def execVlog2 (m : BitVec 1) (t d a : BitVec 4) (r : BitVec 3) (s : State) : Res :=
  elemOp m t d a a s fun x _ => (fmt t.toNat).log2 (s.mode r) x

/-- VSIN. -/
def execVsin (m : BitVec 1) (t d a : BitVec 4) (r : BitVec 3) (s : State) : Res :=
  elemOp m t d a a s fun x _ => (fmt t.toNat).trig false (s.mode r) x

/-- VCOS. -/
def execVcos (m : BitVec 1) (t d a : BitVec 4) (r : BitVec 3) (s : State) : Res :=
  elemOp m t d a a s fun x _ => (fmt t.toNat).trig true (s.mode r) x

/-- VTANH. -/
def execVtanh (m : BitVec 1) (t d a : BitVec 4) (r : BitVec 3) (s : State) : Res :=
  elemOp m t d a a s fun x _ => (fmt t.toNat).tanh (s.mode r) x

/-! Moving data between lanes (R205 to R209). -/

/-- VSHUF (R205). -/
def execVshuf (m : BitVec 1) (d a b : BitVec 4) (s : State) : Res :=
  laneOp m d s fun i => (if s.vl b i < s.src.lanes then s.vl a (s.vl b i) else 0, 0)

/-- VSPLAT (R206); bits [7:6] of an element of a 6-bit format are 0. -/
def execVsplat (m : BitVec 1) (t v : BitVec 4) (a : BitVec 5) (s : State) : Res :=
  let x := (s.rg a).toNat % (if t = 11 ∨ t = 12 then 64 else 2 ^ tyWidth t.toNat)
  laneOp m v s fun _ => perElem (tyWidth t.toNat) fun _ => (x, 0)

/-- VSPLAT.seq (R206). -/
def execVsplatSeq (m : BitVec 1) (_ v : BitVec 4) (a b : BitVec 5) (s : State) : Res :=
  laneOp m v s fun i => (((s.rg a).toNat + i * (s.rg b).toNat) % 2 ^ 32, 0)

/-- A 32-bit lane as a register value: sign-extended for .i32 (R207, R210). -/
def laneWord (t : BitVec 4) (x : Nat) : Word := if t = 0 then sextW 32 x else word (x % 2 ^ 32)

/-- VINS (R207). -/
def execVins (_ v : BitVec 4) (a b : BitVec 5) (s : State) : Res :=
  withLanes s fun s =>
    let k := (s.rg b).toNat
    if s.src.lanes ≤ k then s.claimFault k else s.setMe fun c => c.setLane v.toNat k ((s.rg a).truncate 32)

/-- VEXT (R207). -/
def execVext (t v : BitVec 4) (a b : BitVec 5) (s : State) : Res :=
  withLanes s fun s =>
    let k := (s.rg b).toNat
    if s.src.lanes ≤ k then s.claimFault k else s.wr a (laneWord t (s.vl v k))

/-- VVOTE (R208): 0 any, 1 all, 2 ballot, 3 count, 4 first. -/
def execVvote (m : BitVec 1) (v : BitVec 4) (a : BitVec 5) (o : BitVec 6) (s : State) : Res :=
  withLanes s fun s =>
    let votes := (s.taking m).filter fun i => s.vl v i != 0
    s.wr a (word (
      if o = 0 then b2n (!votes.isEmpty)
      else if o = 1 then b2n (votes.length == (s.taking m).length)
      else if o = 2 then votes.foldl (fun acc i => acc + 2 ^ i) 0
      else if o = 3 then votes.length
      else votes.headD 64))

/-- VMATCH (R209): 0 first, 1 count, 2 rank. -/
def execVmatch (m : BitVec 1) (d a : BitVec 4) (o : BitVec 8) (s : State) : Res :=
  laneOp m d s fun i =>
    let e := (s.taking m).filter fun j => s.vl a j == s.vl a i
    (if o = 0 then e.headD 0 else if o = 1 then e.length else (e.filter (· < i)).length, 0)

/-! Reductions and scans (R210, R211). -/

/-- The operation of VRED and VSCAN: 0 add, 1 min, 2 max, 3 and, 4 or, 5 xor. -/
def redOp (t o x y : Nat) : Nat × Nat :=
  if t = 6 then
    (if o = 0 then (fmt 6).add 0 x y else (fmt 6).minMax (o == 2) x y)
  else if o = 0 then ((x + y) % 2 ^ 32, 0)
  else if o = 1 then (if tyInt t x ≤ tyInt t y then x else y, 0)
  else if o = 2 then (if tyInt t x ≤ tyInt t y then y else x, 0)
  else if o = 3 then (x &&& y, 0)
  else if o = 4 then (x ||| y, 0)
  else (x ^^^ y, 0)

/-- Its identity (R210). -/
def redId (t o : Nat) : Nat :=
  if o = 0 then (if t = 6 then 0x8000_0000 else 0)
  else if o = 1 then (if t = 0 then 0x7FFF_FFFF else if t = 3 then 0xFFFF_FFFF else 0x7F80_0000)
  else if o = 2 then (if t = 0 then 0x8000_0000 else if t = 3 then 0 else 0xFF80_0000)
  else if o = 3 then 0xFFFF_FFFF
  else 0

/-- One level of the pairwise tree. -/
def pairUp (t o : Nat) : List Nat → List (Nat × Nat)
  | x :: y :: r => redOp t o x y :: pairUp t o r
  | _ => []

/-- The tree of R210 over 2^n values: the result and the flags. -/
def tree (t o : Nat) : Nat → List Nat → Nat → Nat × Nat
  | 0, xs, fl => (xs.headD 0, fl)
  | n + 1, xs, fl =>
    let ys := pairUp t o xs
    tree t o n (ys.map (·.1)) (ys.foldl (fun acc y => orFlags acc y.2) fl)

/-- Lanes of a register with the identity where a lane does not take part. -/
def State.filled (s : State) (m : BitVec 1) (v : BitVec 4) (e : Nat) : List Nat :=
  (List.range s.src.lanes).map fun i => if s.takes m i then s.vl v i else e

/-- VRED (R210). -/
def execVred (m : BitVec 1) (t v : BitVec 4) (a : BitVec 5) (o : BitVec 4) (s : State) : Res :=
  withLanes s fun s =>
    let r := tree t.toNat o.toNat (Nat.log2 s.src.lanes) (s.filled m v (redId t.toNat o.toNat)) 0
    (s.wr a (laneWord t r.1)).raiseFlags r.2

/-- Running values of a scan: before and after each lane, and the flags of each step. -/
def scanFrom (t o : Nat) : Nat → List Nat → List (Nat × Nat × Nat)
  | _, [] => []
  | acc, x :: r => (acc, (redOp t o acc x).1, (redOp t o acc x).2) :: scanFrom t o (redOp t o acc x).1 r

/-- VSCAN (R211); `e` is EX. -/
def execVscan (m : BitVec 1) (t d a : BitVec 4) (e : BitVec 1) (o : BitVec 4) (s : State) : Res :=
  withLanes s fun s =>
    let id := redId t.toNat o.toNat
    let rs := scanFrom t.toNat o.toNat id (s.filled m a id)
    let out := (s.taking m).map fun i =>
      let r := rs.getD i (0, 0, 0)
      (i, if e = 1 then r.1 else r.2.1)
    (s.setMe fun c => c.setLanes d.toNat out).raiseFlags (rs.foldl (fun acc r => orFlags acc r.2.2) 0)

end Sys2Proof.Machine
end

