-- ==== Sys2Proof/Machine/Access.lean ====
section
/-! DEFINITION. Loads and stores, scalar and vector, plain and relaxed (10 R233 to R239), tag tables (R240), the translation
prefetch (R241) and segments (R242 to R244). -/

namespace Sys2Proof.Machine

/-! Scalar accesses. -/

/-- Owner to which a relaxed access to an M segment migrates first (03 R75); none where its translation is not known. -/
def State.leaves (s : State) (a : Word) (h right : Nat) : Option Nat :=
  if s.touches a && !s.stays then
    match (s.reach (s.portOf s.myCore h) h right).2 with
    | .ok p =>
      match p.owner h with
      | some k => if k = s.myCore then none else some k
      | none => none
    | .error _ => none
  else none

/-- Issue of a relaxed scalar access (R236, 05 R112): a fifth is held back; at the issuer's own store it is performed at issue (13
R303), elsewhere by the event `e`. -/
def relaxedScalar (a : Word) (h right : Nat) (op : RelOp) (e : Nat → Nat → Instr) (s : State) (here : State → State) : State :=
  if 4 ≤ s.me.relaxed.length then s.hold .register
  else
    match s.leaves a h right with
    | some k => s.depart k
    | none =>
      if s.own h && !s.badWord h then here (s.relax op h true e)
      else s.relax op h false e

/-- A scalar load at offset `k` from gA (R234, R235, R236). -/
def loadOp (d a : BitVec 5) (k : Int) (size : Nat) (signed : Bool) (r : BitVec 1) (s : State) : Res :=
  match s.resolve (s.rg a) k size size rR .scalarLoad with
  | .error f => .next (s.raise f)
  | .ok h =>
    if r = 1 then
      .next (relaxedScalar (s.rg a) h rR (.load d.toNat size signed) .relaxedLoadData s fun s =>
        let x := s.seen s.cur h size (s.load h size)
        x.2.wr d (loaded size signed x.1))
    else
      match s.prepare h rR .load (s.touches (s.rg a)) with
      | .stop s => .next s
      | .go s p =>
        let x := (s.toward h 0 size).seen s.cur h size (s.get p size)
        .next (x.2.reply d (loaded size signed x.1))

/-- A scalar store at offset `k` from gA (R234, R235, R236); SCOPE makes it a release (13 R300). -/
def storeOp (d a : BitVec 5) (k : Int) (size : Nat) (r : BitVec 1) (sc : BitVec 4) (s : State) : Res :=
  match s.resolve (s.rg a) k size size rW .scalarStore with
  | .error f => .next (s.raise f)
  | .ok h =>
    let v := (s.rg d).toNat
    .next (s.scoped sc fun s =>
      if r = 1 then
        relaxedScalar (s.rg a) h rW (.store size v) .relaxedAcknowledgement s fun s => (s.put (.house h) size v).soil s.cur h size
      else
        match s.prepare h rW .store (s.touches (s.rg a)) with
        | .stop s => s
        | .go s p => ((s.put p size v).soil s.cur h size).await)

/-- LD.i (R234). -/
def execLdI (d a : BitVec 5) (z : BitVec 2) (r : BitVec 1) (_ : BitVec 4) (i : BitVec 8) (s : State) : Res :=
  loadOp d a (disp i (sizeOf2 z)) (sizeOf2 z) true r s

/-- LD.n (R234). -/
def execLdN (d a : BitVec 5) (z : BitVec 2) (r : BitVec 1) (_ : BitVec 4) (i : BitVec 8) (s : State) : Res :=
  loadOp d a (disp i (sizeOf2 z)) (sizeOf2 z) false r s

/-- ST (R234). -/
def execSt (d a : BitVec 5) (z : BitVec 2) (r : BitVec 1) (sc : BitVec 4) (i : BitVec 8) (s : State) : Res :=
  storeOp d a (disp i (sizeOf2 z)) (sizeOf2 z) r sc s

/-- LDX.i (R234). -/
def execLdxI (d a : BitVec 5) (z : BitVec 2) (r : BitVec 1) (_ : BitVec 4) (x : BitVec 5) (s : State) : Res :=
  loadOp d a (indexed (s.rg x) (sizeOf2 z)) (sizeOf2 z) true r s

/-- LDX.n (R234). -/
def execLdxN (d a : BitVec 5) (z : BitVec 2) (r : BitVec 1) (_ : BitVec 4) (x : BitVec 5) (s : State) : Res :=
  loadOp d a (indexed (s.rg x) (sizeOf2 z)) (sizeOf2 z) false r s

/-- STX (R234). -/
def execStx (d a : BitVec 5) (z : BitVec 2) (r : BitVec 1) (sc : BitVec 4) (x : BitVec 5) (s : State) : Res :=
  storeOp d a (indexed (s.rg x) (sizeOf2 z)) (sizeOf2 z) r sc s

/-! Vector accesses (R237 to R239). -/

/-- House addresses of lanes, or the fault of the first that fails a check (R238). -/
def State.laneAddrs (s : State) (a : Word) (right : Nat) (off : Nat → Int) : List Nat → Except FaultRec (List (Nat × Nat))
  | [] => .ok []
  | i :: t =>
    match s.resolve a (off i) 4 4 right .vector with
    | .error f => .error f
    | .ok h =>
      match s.laneAddrs a right off t with
      | .ok r => .ok ((i, h) :: r)
      | .error f => .error f

/-- What is done with the lanes of a plain vector access, once all have passed (R238); while one of their words has an earlier access of the
context outstanding, the bundle waits (13 R296). Its packet goes to the first lane that lies elsewhere (log 84). -/
def plainLanes (ls : List (Nat × Nat)) (bytes back : Nat) (s : State) (go : State → Perf) : State :=
  if ls.any fun l => s.conflicts l.2 then s.hold .fence
  else
    match go s with
    | .done s => ((s.useBanks (ls.map (·.2))).toward (((ls.map (·.2)).find? fun h => !s.own h).getD ((ls.map (·.2)).headD 0)) bytes back).await
    | .held s h acc why => s.parkTranslation h acc why
    | .bad s kind reason h => s.raise (s.flt kind reason h)

/-- Issue of a relaxed vector access (R238, R239). A lane that meets a translation fault parks its context before any lane is performed, and the bundle
reissues (R238; 09 R227). Once every lane has passed, those in the issuer's own store are performed at issue (13 R303), by `here`, and the others, which `op`
makes one access of, by the event `e` (log 99). A lane that cannot be used is found by that event too, with no lane performed. -/
def relaxedLanes {α : Type} (ls : List (α × Nat)) (right : Nat) (op : List (α × Nat) → RelOp) (e : Nat → Nat → Instr) (s : State)
    (here : List (α × Nat) → State → State) : State :=
  let h := ((ls.map (·.2)).headD 0)
  if 4 ≤ s.me.relaxed.length then s.hold .register
  else
    match s.lanePlaces s.myCore right (ls.map (·.2)) with
    | .no (.held s h acc why) => s.parkTranslation h acc why
    | .no _ => s.relax (op ls) h false e
    | .ok s _ =>
      let (near, far) := ls.partition fun l => s.own l.2
      if far.isEmpty then here near (s.relax (op ls) h true e) else here near (s.relax (op far) ((far.map (·.2)).headD 0) false e)

/-- A vector load (R238, R239). -/
def vloadOp (m : BitVec 1) (v : BitVec 4) (a : BitVec 5) (r : BitVec 1) (s : State) (off : Nat → Int) : Res :=
  withLanes s fun s =>
    match s.laneAddrs (s.rg a) rR off (s.taking m) with
    | .error f => s.raise f
    | .ok ls =>
      if r = 0 then plainLanes ls 0 (4 * ls.length) s fun s => s.performLoads s.cur v.toNat ls
      else
        relaxedLanes ls rR (.vload v.toNat) .relaxedLoadData s fun ls s => s.loadLanes s.cur v.toNat ls (ls.map fun l => .house l.2)

/-- A vector store (R238, R239); SCOPE makes it a release (13 R300). -/
def vstoreOp (m : BitVec 1) (v : BitVec 4) (a : BitVec 5) (sc : BitVec 4) (r : BitVec 1) (s : State) (off : Nat → Int) : Res :=
  withLanes s fun s =>
    match s.laneAddrs (s.rg a) rW off (s.taking m) with
    | .error f => s.raise f
    | .ok ls =>
      let vs := ls.map fun l => (s.vl v l.1, l.2)
      s.scoped sc fun s =>
        if r = 0 then plainLanes vs (4 * vs.length) 0 s fun s => s.performStores s.cur vs
        else
          relaxedLanes vs rW .vstore .relaxedAcknowledgement s fun vs s => s.storeLanes s.cur vs (vs.map fun l => .house l.2)

/-- VLD (R237). -/
def execVld (m : BitVec 1) (v : BitVec 4) (a : BitVec 5) (_ : BitVec 4) (r : BitVec 1) (s : State) : Res :=
  vloadOp m v a r s fun i => 4 * i

/-- VST (R237). -/
def execVst (m : BitVec 1) (v : BitVec 4) (a : BitVec 5) (sc : BitVec 4) (r : BitVec 1) (s : State) : Res :=
  vstoreOp m v a sc r s fun i => 4 * i

/-- VLDS (R237). The stride is not checked as such, the lanes are (DESIGN CHOICE, log 123). -/
def execVlds (m : BitVec 1) (v : BitVec 4) (a b : BitVec 5) (_ : BitVec 4) (r : BitVec 1) (s : State) : Res :=
  vloadOp m v a r s fun i => i * (s.rg b).toInt

/-- VSTS (R237). The stride is not checked as such, the lanes are (DESIGN CHOICE, log 123). -/
def execVsts (m : BitVec 1) (v : BitVec 4) (a b : BitVec 5) (sc : BitVec 4) (r : BitVec 1) (s : State) : Res :=
  vstoreOp m v a sc r s fun i => i * (s.rg b).toInt

/-- Offset that an index lane gives (R237). -/
def State.gatherOff (s : State) (t i : BitVec 4) (l : Nat) : Int := 4 * tyInt t.toNat (s.vl i l)

/-- VGATH (R237). -/
def execVgath (m : BitVec 1) (t v : BitVec 4) (a : BitVec 5) (i : BitVec 4) (_ : BitVec 4) (r : BitVec 1) (s : State) : Res :=
  vloadOp m v a r s (s.gatherOff t i)

/-- VSCAT (R237). -/
def execVscat (m : BitVec 1) (t v : BitVec 4) (a : BitVec 5) (i : BitVec 4) (sc : BitVec 4) (r : BitVec 1) (s : State) : Res :=
  vstoreOp m v a sc r s (s.gatherOff t i)

/-! Tag tables (09 R218, R240). -/

/-- Set of a key (09 R218). -/
def tagSet (k : Word) (sets : Nat) : Nat := (fld k 15 0 ^^^ fld k 31 16 ^^^ fld k 47 32 ^^^ fld k 63 48) % sets

/-- Whether a word is a legal descriptor. -/
def tagDesc (w : Word) : Bool := [1, 2, 4, 8, 16, 32, 64, 128, 256].contains w.toNat

/-- Whether some word of a span has an uncorrectable error. -/
def State.badSpan (s : State) (h n : Nat) : Bool := (List.range ((n + 7) / 8)).any fun i => s.badWord (h / 8 * 8 + 8 * i)

/-- A tag-table instruction (R240): the table's address and number of sets, once every check has passed. -/
def tagOp (a : BitVec 5) (right : Nat) (s : State) (go : Nat → Nat → State → State) : Res :=
  if isPorch s.myCore then .next (s.operand 1 a)
  else
    match s.resolve (s.rg a) 0 8 1 right (if right = rR then .span else .scalarStore) with
    | .error f => .next (if f.kind = 6 then s.operand 1 a else s.raise f)
    | .ok t =>
      if !s.own t || t % 64 != 0 then .next (s.operand 1 a)
      else if s.badWord t then .next (s.raise (s.flt 0x0D 3 t))
      else
        let desc := s.loadW t
        let n := 64 + 64 * desc.toNat
        if !tagDesc desc || 0x4_0000 < t % 0x4_0000 + n then .next (s.operand 1 a)
        else if segLimit (s.src.seg (fld (s.rg a) 63 61)) < fld (s.rg a) 60 0 + n then
          .next (s.raise (s.flt 4 0 (s.rg a).toNat (fld (s.rg a) 63 61)))
        else .next (go t desc.toNat s)

/-- Address of entry `e` of a table. -/
def tagEntry (t e : Nat) : Nat := t + 64 + 16 * e

/-- Goes on unless a word of the set at entry `e` is unreadable. -/
def withSet (t e : Nat) (s : State) (go : State → State) : State :=
  if s.badSpan (tagEntry t (e / 4 * 4)) 64 then s.raise (s.flt 0x0D 3 (tagEntry t (e / 4 * 4))) else go s

/-- LKUP (R240). -/
def execLkup (d a b : BitVec 5) (s : State) : Res :=
  tagOp a rR s fun t n s =>
    let set := tagSet (s.rg b) n
    withSet t (4 * set) s fun s =>
      let x := s.seenWords s.cur (tagEntry t (4 * set)) ((List.range 8).map fun i => (s.loadW (tagEntry t (4 * set) + 8 * i)).toNat)
      let hit := fun w => fld (word (x.1.getD (2 * w + 1) 0)) 63 63 == 1 && word (x.1.getD (2 * w) 0) == s.rg b
      let s := x.2
      match lowest hit 0 4 with
      | some w => s.reply d (word (4 * set + w))
      | none => s.reply d 0xFFFF_FFFF_FFFF_FFFF

/-- TAGSET (R240). -/
def execTagset (d a b : BitVec 5) (s : State) : Res :=
  tagOp a rW s fun t n s =>
    let e := (s.rg d).toNat
    if 4 * n ≤ e || e / 4 != tagSet (s.rg b) n then s.operand 0 d
    else
      withSet t e s fun s =>
        let h := tagEntry t e
        let s := s.put (.house h) 8 (s.rg b).toNat
        ((s.put (.house (h + 8)) 8 (setFld (s.loadW (h + 8)) 63 63 1).toNat).soil s.cur h 16).await

/-- TAGINV (R240). -/
def execTaginv (a b : BitVec 5) (s : State) : Res :=
  tagOp a rW s fun t n s =>
    let e := (s.rg b).toNat
    if 4 * n ≤ e then s.operand 2 b
    else
      withSet t e s fun s =>
        let h := tagEntry t e + 8
        ((s.put (.house h) 8 (setFld (s.loadW h) 63 63 0).toNat).soil s.cur h 8).await

/-! Translation prefetch and segments. -/

/-- PFX (R241): only the port's TLB can change. -/
def execPfx (a : BitVec 5) (z : BitVec 2) (i : BitVec 8) (s : State) : Res :=
  match s.resolve (s.rg a) (disp i (sizeOf2 z)) (sizeOf2 z) (sizeOf2 z) rR .scalarLoad with
  | .error _ => .next s
  | .ok h => if unitOf h = .paged then .next (s.lookup (s.portOf s.myCore h) h).1 else .next s

/-- Writes a segment register; the value takes effect for the next bundle (R244). -/
def State.setSeg (s : State) (k : Nat) (g : Seg) : State := s.setMe fun c => { c with segs := tput 0 c.segs k g }

/-- A segment of a base, limit and rights. A base at or above 2^58 is taken modulo 2^58 (DESIGN CHOICE, log 124). -/
def mkSeg (base limit rights : Nat) : Seg :=
  BitVec.ofNat 128 (base % 2 ^ 58 + limit % 2 ^ 44 * 2 ^ 64 + rights % 2 ^ 8 * 2 ^ 108)

/-- Rights field of a segment. -/
def segRights (g : Seg) : Nat := bits g.toNat 115 108

/-- Whether a segment image lies within one the context holds (R243). -/
def Ctx.narrows (c : Ctx) (g : Seg) : Bool :=
  [0, 1, 2, 3, 4, 5, 6, 7].any fun k =>
    let t := c.seg k
    decide (segBase t ≤ segBase g) && decide (segBase g + segLimit g ≤ segBase t + segLimit t) &&
      segRights g &&& segRights t == segRights g

/-- Prepares an access of 16 bytes. -/
def State.prepare16 (s : State) (h right : Nat) (acc : AccKind) (m : Bool) : Go :=
  if s.conflicts (h + 8) then .stop (s.hold .fence)
  else if s.badWord (h + 8) then .stop (s.raise (s.flt 0x0D 3 (h + 8)))
  else s.prepare h right acc m

/-- SEGLD (R243). For an image that no held segment covers, INFO0 names the rights of the image (DEDUCED, log 38). -/
def execSegld (d a : BitVec 5) (s : State) : Res :=
  match s.resolve (s.rg a) 0 16 16 rR .span with
  | .error f => .next (s.raise f)
  | .ok h =>
    match s.prepare16 h rR .load (s.touches (s.rg a)) with
    | .stop s => .next s
    | .go s p =>
      let x := s.seenWords s.cur h (splitWords 2 (s.get p 16))
      let g : Seg := BitVec.ofNat 128 (wordsVal x.1)
      let s := x.2
      if !segClean g then .next (s.operand 1 a)
      else if !bitOf s.src.st.toNat 0 && !s.src.narrows g then
        .next (s.raise (s.flt 3 0 (s.rg a).toNat (fld (s.rg a) 63 61 + segRights g * 256)))
      else .next ((s.setSeg d.toNat g).toward h 0 16).await

/-- SEGST (R243). -/
def execSegst (d a : BitVec 5) (s : State) : Res :=
  match s.resolve (s.rg a) 0 16 16 rW .scalarStore with
  | .error f => .next (s.raise f)
  | .ok h =>
    match s.prepare16 h rW .store (s.touches (s.rg a)) with
    | .stop s => .next s
    | .go s p => .next (((s.put p 16 (s.src.seg d.toNat).toNat).soil s.cur h 16).toward h 16 0).await

/-- SEGNAR (R244): the offset in gB, the limit in g(B+1). -/
def execSegnar (d a b : BitVec 5) (r : BitVec 8) (s : State) : Res :=
  let g := s.src.seg a.toNat
  let o := (s.rg b).toNat
  let n := (s.src.rg (b.toNat + 1)).toNat
  if segLimit g < o + n then .next (s.operand 2 b)
  else .next (s.setSeg d.toNat (mkSeg (segBase g + o) n (segRights g &&& r.toNat)))

end Sys2Proof.Machine
end

