-- ==== Sys2Proof/Machine/Area.lean ====
section
/-! DEFINITION. What dispatchers and engines read and write at house addresses (02 R37, R443; 23 R398), the fault area (23 R397 to
R400) and the release of a task's claims and count when it ends (06 R144). -/

namespace Sys2Proof.Machine

/-- Outcome of an access that a unit makes at a house address: done, waiting for the attic, or unusable. -/
inductive House (α : Type) where
  | ok (s : State) (a : α)
  | wait (s : State) (h : Nat) (why : XReason)
  | bad (s : State)

/-- The place of one 8-byte word at a house address, through a hall's port (09 R223). A word whose unit refuses such an access is unusable as
an unassigned one is (DESIGN CHOICE, log 121). -/
def State.houseWord (s : State) (hall h right : Nat) : House Phys :=
  match s.unitFault h (if right = rR then .span else .scalarStore) with
  | some _ => .bad s
  | none =>
    match s.reach (16 * hall + bits h 9 6) h right with
    | (s, .error why) => .wait s h why
    | (s, .ok p) => if s.physOffline p || s.badWord h then .bad s else .ok s p

/-- Places of `n` consecutive words. -/
def State.houseSpan (s : State) (hall h right : Nat) : Nat → House (List Phys)
  | 0 => .ok s []
  | n + 1 =>
    match s.houseWord hall h right with
    | .ok s p =>
      match s.houseSpan hall (h + 8) right n with
      | .ok s ps => .ok s (p :: ps)
      | .wait s h why => .wait s h why
      | .bad s => .bad s
    | .wait s h why => .wait s h why
    | .bad s => .bad s

/-- Reads `n` words. -/
def State.houseRead (s : State) (hall h n : Nat) : House (List Word) :=
  match s.houseSpan hall h rR n with
  | .ok s ps => .ok s (ps.map fun p => word (s.get p 8))
  | .wait s h why => .wait s h why
  | .bad s => .bad s

/-- Writes words at their places. -/
def State.putWords (s : State) : List Phys → List Word → State
  | p :: ps, w :: ws => (s.put p 8 w.toNat).putWords ps ws
  | _, _ => s

/-- Writes words, all or none. -/
def State.houseWrite (s : State) (hall h : Nat) (ws : List Word) : House Unit :=
  match s.houseSpan hall h rW ws.length with
  | .ok s ps => .ok (s.putWords ps ws) ()
  | .wait s h why => .wait s h why
  | .bad s => .bad s

/-- A wing asks its launch's leader for its next chunk (03 R57; 11 R256). -/
def State.askChunk (s : State) (n wing : Nat) : State :=
  match s.launch? n with
  | none => s
  | some l => s.convey (wingPort wing) (wingPort l.leader) 8 [.chunkRequest n wing]

/-- Adds a message to the attic. -/
def State.tell (s : State) (m : AtticMsg) : State := { s with attic := { s.attic with msgs := s.attic.msgs ++ [m] } }

/-- Hall whose ports a launch's dispatcher uses: the hall of launch word 0, or the leader's first hall in service. -/
def State.launchHall (s : State) (l : Launch) : Nat :=
  match l.hall with
  | some h => h
  | none => s.referenceHall l.leader

/-- A write of a launch's dispatcher at a house address; a translation fault holds it, and every later one behind it, any other failure
loses it (02 R37). -/
def State.launchWrite (s : State) (n addr size v : Nat) : State :=
  match s.launch? n with
  | none => s
  | some l =>
    if !l.heldW.isEmpty then s.setLaunch n fun l => { l with heldW := l.heldW ++ [(addr, size, v)] }
    else
      match s.houseWord (s.launchHall l) addr rW with
      | .ok s p => s.put p size v
      | .wait s h why => (s.setLaunch n fun l => { l with heldW := [(addr, size, v)] }).tell (.unit h why)
      | .bad s => s

/-- Writes the device's copy of a record field (02 R37). -/
def State.recordWrite (s : State) (n off size v : Nat) : State :=
  match s.launch? n with
  | none => s
  | some l => s.launchWrite n (l.record + off) size v

/-- Changes the count of fault-area entries in use, and its copy FCAP[63:32] (02 R37). -/
def State.setUsed (s : State) (n : Nat) (f : Nat → Nat) : State :=
  match s.launch? n with
  | none => s
  | some l => (s.setLaunch n fun l => { l with used := f l.used }).recordWrite n 0x44 4 (f l.used)

/-- Raises a launch's status to at least a code (02 R39). -/
def State.worst (s : State) (n code : Nat) : State := s.setLaunch n fun l => { l with status := max l.status code }

/-- House address of fault-area entry `j` (23 R397). -/
def Launch.entryAt (l : Launch) (j : Nat) : Nat := l.farea + 576 * j

/-- The lowest free and usable entry at or above `j`, among `n` entries (23 R398). -/
def State.freeEntry (s : State) (hall : Nat) (l : Launch) (j : Nat) : Nat → House (Option Nat)
  | 0 => .ok s none
  | n + 1 =>
    if l.badEntries.contains j then s.freeEntry hall l (j + 1) n
    else
      match s.houseSpan hall (l.entryAt j) rW 72 with
      | .wait s h why => .wait s h why
      | .bad s => s.freeEntry hall l (j + 1) n
      | .ok s _ =>
        match s.houseRead hall (l.entryAt j) 1 with
        | .wait s h why => .wait s h why
        | .bad s => s.freeEntry hall l (j + 1) n
        | .ok s ws => if fld (ws.headD 1) 7 0 = 0 then .ok s (some j) else s.freeEntry hall l (j + 1) n

/-- `k` free entries in increasing order, or fewer where no more are free. -/
def State.freeEntries (s : State) (hall : Nat) (l : Launch) : Nat → Nat → House (List Nat)
  | 0, _ => .ok s []
  | k + 1, j =>
    match s.freeEntry hall l j (l.fcap - j) with
    | .wait s h why => .wait s h why
    | .bad s => .bad s
    | .ok s none => .ok s []
    | .ok s (some i) =>
      match s.freeEntries hall l k (i + 1) with
      | .ok s is => .ok s (i :: is)
      | .wait s h why => .wait s h why
      | .bad s => .bad s

/-- Least number of a device copy of an image, above every house address (log 25). -/
abbrev copyBase : Nat := 2 ^ 58

/-- A fault-area entry is taken: where the image that it held has been resumed and is still to be loaded, the device keeps a copy of it for its
SLOTSTART (23 R398, 06 R165; log 25). A context that re-establishes its claims from that image (R410), or a hall in which it waits for the release,
then names the copy. -/
def State.takeEntry (s : State) (hall entry : Nat) : State :=
  let x := entry + 64
  match tfind s.images x with
  | none => s
  | some r =>
    match s.houseRead hall x 64 with
    | .ok s ws =>
      let k := copyBase + s.nextId
      let named := (s.ctxs.any fun c => c.2.image == x) || s.halls.any fun h => h.2.images.contains x
      let s := { s with images := tset (tdel s.images x) k { r with words := ws, home := x }, nextId := s.nextId + 1 }
      if named then
        { s with ctxs := s.ctxs.map fun c => (c.1, if c.2.image = x then { c.2 with image := k } else c.2)
                 halls := s.halls.map fun h => (h.1, { h.2 with images := h.2.images.map fun a => if a = x then k else a }) }
      else { s with shadow := tput [] s.shadow x (tget [] s.shadow x ++ [k]) }
    | _ => s

/-- Words of an image: those of the device's copy, or what stands in memory. -/
def State.imageRead (s : State) (hall addr : Nat) (r : ImgRec) : House (List Word) :=
  if r.words.isEmpty then s.houseRead hall addr 64 else .ok s r.words

/-- Entries that are taken together. -/
def State.takeEntries (s : State) (hall : Nat) (l : Launch) (js : List Nat) : State :=
  js.foldl (fun s j => s.takeEntry hall (l.entryAt j)) s

/-- FLAGS of a record (23 R397). -/
def flagsOf (img late gang : Bool) : Nat := b2n img + 2 * b2n late + 4 * b2n gang

/-- HEAD of a record (23 R397). -/
def headWord (f : FaultRec) (source flags stop : Nat) : Word :=
  word (2 ^ 56 + stop % 256 * 2 ^ 48 + source * 2 ^ 24 + flags * 2 ^ 16 + f.reason % 256 * 256 + f.kind)

/-- The eight words of a record (23 R397). -/
def recordWords (f : FaultRec) (gid : Word) (source flags stop image : Nat) : List Word :=
  [headWord f source flags stop, gid, f.pc, f.addr, f.info0, f.info1, f.stamp, word image]

/-- Writes a record without an image, reported late, into a free entry (10 R236, R252; 12 R279). -/
def State.lateRecord (s : State) (n hall : Nat) (f : FaultRec) (gid : Word) (source : Nat) : State :=
  match s.launch? n with
  | none => s
  | some l =>
    let held := fun (s : State) h why => (s.setLaunch n fun l => { l with lateQ := l.lateQ ++ [(f, gid, source)] }).tell (.unit h why)
    match s.freeEntry hall l 0 l.fcap with
    | .wait s h why => held s h why
    | .bad s => s.worst n 4
    | .ok s none => s.worst n 4
    | .ok s (some j) =>
      match (s.takeEntry hall (l.entryAt j)).houseWrite hall (l.entryAt j) (recordWords f gid source (flagsOf false true false) 0 0) with
      | .wait s h why => held s h why
      | .bad s => s.worst n 4
      | .ok s _ => s.setUsed n (· + 1)

/-- The launch whose fault area takes the late records of a task: its own while it is live, else what is kept of it; 0 where none is (10
R252). -/
def State.launchKey (s : State) (gid lrec : Word) : Nat :=
  let n := fld gid 63 48
  if ((s.launch? n).map fun l => l.record == lrec.toNat).getD false then n
  else ((s.launches.find? fun e => e.2.outlived && e.2.record == lrec.toNat).map (·.1)).getD 0

/-- Whether commands of a launch's tasks stand in some queue. -/
def State.leftOver (s : State) (lrec : Word) : Bool :=
  s.rooms.any fun e => (e.2.tileQ.any fun c => c.lrec == lrec) || e.2.copyQ.any fun q => q.2.any fun c => c.lrec == lrec

/-- The kept part of a completed launch is dropped once no command of its tasks is left. -/
def State.forget (s : State) (lrec : Word) : State :=
  if s.leftOver lrec then s
  else { s with launches := s.launches.filter fun e => !(e.2.outlived && e.2.record == lrec.toNat && e.2.lateQ.isEmpty && e.2.heldW.isEmpty) }

/-! The end of a task. -/

/-- Whether a room has waiting claims. -/
def Room.claimsWait (r : Room) : Bool := !r.vwait.isEmpty || !r.twait.isEmpty

/-- Looks at a room's waiting claims again. -/
def State.regrant (s : State) (room : Nat) : State := if (s.room room).claimsWait then s.post (.claimGrant room) else s

/-- Releases every claim of a context (06 R144, R152). -/
def State.dropClaims (s : State) (ctx : Nat) : State :=
  if (s.ctx ctx).pinned then
    (s.setCtx ctx fun c => { c with lanes := 0, tile := 0, tileAt := 0, vregs := [] }).regrant (roomOf (coreOf ctx))
  else s

/-- Withdraws a context's waiting claim requests (05 R118, R120; 06 R166). -/
def State.dropRequests (s : State) (ctx : Nat) : State :=
  if isPorch (coreOf ctx) then s
  else
    (s.setRoom (roomOf (coreOf ctx)) fun r =>
      { r with vwait := r.vwait.filter (·.1 != ctx), twait := r.twait.filter (·.1 != ctx) }).regrant (roomOf (coreOf ctx))

/-- A task has ended: LIVE falls, and its chunk may be complete (06 R144, 03 R58, 23 R411). -/
def State.retired' (s : State) (gid : Word) : State :=
  let n := fld gid 63 48
  let serial := fld gid 47 0
  match s.launch? n with
  | none => s
  | some l =>
    let live := l.live - 1
    let mine := fun (q : Notice) => !q.spawn && decide (q.first ≤ serial) && decide (serial < q.last)
    let s := s.setLaunch n fun l =>
      { l with live := live, notices := l.notices.map fun q => if mine q then { q with left := q.left - 1 } else q }
    let s := s.recordWrite n 0x50 8 live
    let s := match l.notices.find? mine with
      | some q => if q.left = 1 then s.convey (wingPort q.grantee) (wingPort l.leader) 8 [.chunkCompletionReport n q.first] else s
      | none => s
    if live = 0 then s.post (.launchCompletion n) else s

/-- Recorded failures of a task's commands that no QFENCE has raised go to the fault area when the task ends (10 R252, 12 R279). -/
def State.flushFails (s : State) (room hall : Nat) (gid : Word) : State :=
  let mine := (s.room room).fails.filter fun f => f.gid == gid
  let s := if mine.isEmpty then s else s.setRoom room fun r => { r with fails := r.fails.filter fun f => f.gid != gid }
  mine.foldl (fun s f =>
    let r : FaultRec :=
      if f.queue = 8 then { kind := 0x12, reason := f.reason, pc := f.pc, addr := f.pc, info0 := f.failed, late := true, stamp := word s.now }
      else { kind := 0x11, pc := f.pc, addr := f.pc, info0 := word f.queue, info1 := f.failed, late := true, stamp := word s.now }
    s.lateRecord (s.launchKey gid f.lrec) hall r gid (sourceOf hall (8 * (room % 24)) 0 (if f.queue = 8 then 3 else 2))) s

/-- Recorded failures of a task in every room that holds some. -/
def State.flushAll (s : State) (hall : Nat) (gid : Word) : State :=
  (s.rooms.map (·.1)).foldl (fun s room => s.flushFails room hall gid) s

/-- Steps 3 to 5 of R144 for a task that ends in a slot with a completion value. The slot stays occupied until its hearth reaps it
(03 R69); a porch context, which has no hearth, becomes vacant (log 20). -/
def State.finishTask (s : State) (ctx : Nat) (v : Word) : State :=
  let c := s.ctx ctx
  let core := coreOf ctx
  let hall := s.hallOf core
  let s := s.dropClaims ctx
  let s := s.flushAll hall c.gid
  let s := if c.doneFuture = 0 then s else (s.fillOf c.doneFuture v).getD (s.traceCtx ctx 0x03 (lostFill c.doneFuture v))
  let s := s.retired' c.gid
  -- a gang stop that waits for this member goes on without it (23 R404)
  let s := if c.grp = 0 then s else s.postAll ((s.ctxs.filter fun e =>
    e.2.lnum == c.lnum && (match e.2.status with | .faulted _ => true | _ => false)).map fun e => .faultHandover e.1)
  if isPorch core then s.vacate ctx
  else (s.setCtx ctx fun c => { c with status := .ended, relaxed := [], rlog := [], rovf := false }).hearthEvent core 3 0 (slotOf ctx)

end Sys2Proof.Machine
end

