-- ==== Sys2Proof/Machine/Control.lean ====
section
/-! DEFINITION. Control transfers (06 R137 to R139), and starting and ending work (R140 to R145; 02 R44 to R49 for the start of a
replay). -/

namespace Sys2Proof.Machine

/-- Offset of the bundle that executes (R137). -/
def State.pcOff (s : State) : Nat := fld s.src.pc 60 0

/-- Target of an SJ branch (R137). -/
def State.jumpTarget (s : State) (o : BitVec 25) : Word := pcWord s.src.pc (s.pcOff + 8 * o.toInt)

/-- The next header, which a call leaves in g23 (R137, R138). -/
def State.linkWord (s : State) : Word := pcWord s.src.pc (s.pcOff + 8)

/-- BR (R137). -/
def execBr (o : BitVec 25) (s : State) : Res := .next (s.enter (s.jumpTarget o))

/-- CALL (R137). -/
def execCall (o : BitVec 25) (s : State) : Res := .next ((s.wr 23 s.linkWord).enter (s.jumpTarget o))

/-- JR (R138). -/
def execJr (a : BitVec 5) (s : State) : Res := .next (s.enter (s.rg a))

/-- CALLR (R138): the target is the old gA. -/
def execCallr (a : BitVec 5) (s : State) : Res := .next ((s.wr 23 s.linkWord).enter (s.rg a))

/-- RET (R138). -/
def execRet (s : State) : Res := .next (s.enter (s.rg 23))

/-- END (R144). -/
def execEndTask (a : BitVec 5) (s : State) : Res :=
  if bitOf s.src.st.toNat 0 then .next s.privilege
  else .next (s.release fun s => s.finishTask s.cur (s.rg a))

/-! Spawn serials (02 R28, 03 R58). -/

/-- First value above every spawn serial. -/
def serialEnd : Nat := 2 ^ 48

/-- Whether a wing can still be given a spawn serial (R141). -/
def Launch.serialsLeft (l : Launch) (wing : Nat) : Bool :=
  let b := tget (0, 0) l.spawnBlk wing
  decide (l.spawnNext < serialEnd) || decide (b.1 < b.2)

/-- The next serial of a wing's block; none while the wing holds no serial. -/
def Launch.takeSerial (l : Launch) (wing : Nat) : Option (Nat × Launch) :=
  let b := tget (0, 0) l.spawnBlk wing
  if b.1 < b.2 then some (b.1, { l with spawnBlk := tset l.spawnBlk wing (b.1 + 1, b.2) }) else none

/-- A spawned or handler task joins the waiting tasks of a hall: with a serial of its wing's block, or once a block comes (R58). LIVE
is raised at once (R54, 23 R401). -/
def State.addSpawn (s : State) (hall : Nat) (st : Start) : State :=
  let n := st.lnum
  let wing := hall / 4
  match s.launch? n with
  | none => s
  | some l =>
    let s := (s.setLaunch n fun l => { l with live := l.live + 1 }).recordWrite n 0x50 8 (l.live + 1)
    match l.takeSerial wing with
    | some (k, _) =>
      let s := s.setLaunch n fun l => ((l.takeSerial wing).getD (0, l)).2
      let st := { st with gid := word (n * 2 ^ 48 + k),
                          regs := if st.handler then st.regs else tput 0 st.regs 2 (word k) }
      (s.setHall hall fun h => { h with waiting := h.waiting ++ [st] }).post (.slotEvent hall)
    | none =>
      let first := !l.spawnQ.any fun q => q.1 / 4 == wing
      let s := s.setLaunch n fun l => { l with spawnQ := l.spawnQ ++ [(hall, st)] }
      if first then s.convey (wingPort wing) (wingPort l.leader) 8 [.grantNotice n wing true] else s

/-- SPAWN (R141). The operand fault of exhausted serials names field 1 and its register (log 93). -/
def execSpawn (d a b : BitVec 5) (s : State) : Res :=
  if s.src.lnum = 0 then .next s.privilege
  else
    .next (s.release fun s =>
      match s.launch? s.src.lnum with
      | none => s
      | some l =>
        if !l.serialsLeft (s.myHall / 4) then s.operand 1 a 1
        else
          s.addSpawn s.myHall
            { lnum := s.src.lnum, gid := 0, entry := s.rg a, regs := tput 0 [] 1 (s.rg b), segs := s.src.segs, hnd := l.handler,
              grp := 0, lrec := word l.record, queue := s.src.queue, doneFuture := (s.rg d).toNat })

/-- LAUNCH (R142). -/
def execLaunch (d a b : BitVec 5) (s : State) : Res :=
  match s.src.given with
  | some _ => .next s.resumed
  | none =>
    let hall := (s.rg a).toNat
    let w := (s.rg b).toNat
    if 31 < hall then .next (s.operand 1 a)
    else if 255 < w then .next (s.operand 2 b)
    else
      let h := launchAddr hall w
      if !s.src.covers h 8 then .next (s.uncovered h)
      else if !s.hallUp hall then .next (s.raise (s.flt 6 3 h))
      else .next ((s.toward h 8 0).putOrPark h (s.rg d))

/-! Replays (02 R44 to R49). -/

/-- Removes, pass by pass, the nodes that no remaining node names as its successor; what is left lies on or behind a cycle. -/
def peel (succs : List (Nat × List Nat)) : Nat → List (Nat × List Nat)
  | 0 => succs
  | n + 1 =>
    let left := peel succs n
    left.filter fun x => left.any fun y => y.2.contains x.1

/-- Whether the dependences of a graph have no cycle and name only its nodes (R46). -/
def graphOk (count : Nat) (succs : List (Nat × List Nat)) : Bool :=
  (succs.all fun x => x.2.all fun j => decide (j < count)) && (peel succs count).isEmpty

/-- Successor indices of a node: 16-bit entries of SUCC from its first successor (R44, R46). -/
def State.readSuccs (s : State) (hall succ first : Nat) : Nat → Option (List Nat)
  | 0 => some []
  | n + 1 =>
    let a := succ + 2 * (first + n)
    match s.houseRead hall (a / 8 * 8) 1 with
    | .ok s ws =>
      match s.readSuccs hall succ first n with
      | some r => some (r ++ [bits (ws.headD 0).toNat (16 * (a / 2 % 4) + 15) (16 * (a / 2 % 4))])
      | none => none
    | _ => none

/-- Nodes of a graph: record, predecessor count and successors, from node `i` on. -/
def State.readNodes (s : State) (hall nodes succ i : Nat) : Nat → Option (List (Nat × Nat × List Nat))
  | 0 => some []
  | n + 1 =>
    match s.houseRead hall (nodes + 16 * i) 2 with
    | .ok s ws =>
      let w := ws.getD 1 0
      match s.readSuccs hall succ (fld w 63 32) (fld w 31 16), s.readNodes hall nodes succ (i + 1) n with
      | some js, some r => some (((ws.headD 0).toNat, fld w 15 0, js) :: r)
      | _, _ => none
    | _ => none

/-- GHDR of R44. -/
def ghdrOk (w : Word) : Bool := fld w 63 56 == 1 && fld w 55 16 == 0 && fld w 15 0 != 0 && decide (fld w 15 0 ≤ 4096)

/-- Launches a node's record through launch word 0 of the graph's hall (03 R54). -/
def State.releaseNode (s : State) (replay node : Nat) : State :=
  match tfind s.replays replay with
  | none => s
  | some r =>
    let hall := match unitOf r.graph with
      | .localStore core _ => core / 192
      | _ => 0
    let record := (r.nodes.getD node (0, [])).1
    let s := s.setHall hall fun h => { h with nodesIn := h.nodesIn ++ [(record, replay, node)] }
    s.devicePut (launchAddr hall 0) (word record)

/-- A 16-bit field of a graph word changed by `f` (R44). -/
def State.graphField (s : State) (h i : Nat) (f : Nat → Nat) : State :=
  let w := s.loadW h
  s.store h 8 (setFld w (16 * i + 15) (16 * i) (f (bits w.toNat (16 * i + 15) (16 * i)))).toNat

/-- Starts a replay at its home dispatcher: captures the current version, then releases the nodes without predecessors; a refused one
fills its future with 2 (R46, R47; 06 R143). -/
def State.startReplay (s : State) (graph hall future : Nat) : State :=
  let done := fun (s : State) => if future = 0 then s else s.complete hall (sourceOf hall 0 0 4) 0 future 2
  let ghdr := s.loadW graph
  let s := { s with graphs := if s.graphs.contains graph then s.graphs else graph :: s.graphs }
  let s := if s.isFull (graph + 0x40) then s.post (.patchApply graph) else s
  if !ghdrOk ghdr then done s
  else
    match s.readNodes hall (s.loadW (graph + 8)).toNat (s.loadW (graph + 0x10)).toNat 0 (fld ghdr 15 0) with
    | none => done s
    | some ns =>
      let succs := ns.zipIdx.map fun x => (x.2, x.1.2.2)
      if !graphOk ns.length succs then done s
      else
        let slot := fld (s.loadW (graph + 0x28)) 17 16
        let s := s.graphField (graph + 0x30) slot fun p => (p + 1) % 65536
        let id := s.nextId
        let r : Replay := { graph := graph, future := future, slot := slot, remain := ns.zipIdx.map fun x => (x.2, x.1.2.1),
                            nodes := ns.map fun x => (x.1, x.2.2) }
        let s := { s with replays := tset s.replays id r, nextId := id + 1 }
        (ns.zipIdx.filter fun x => x.1.2.1 == 0).foldl (fun s x => s.releaseNode id x.2) s

/-- GREPLAY (R143). -/
def execGreplay (d a : BitVec 5) (s : State) : Res :=
  match s.resolve (s.rg a) 0 128 64 rR .span with
  | .error f =>
    let outside := match unitOf f.addr.toNat with
      | .localStore _ _ => false
      | _ => true
    .next (if f.kind = 6 && outside then s.operand 1 a else s.raise f)
  | .ok h =>
    match unitOf h with
    | .localStore core _ => .next (s.release fun s => s.startReplay h (core / 192) (s.rg d).toNat)
    | _ => .next (s.operand 1 a)

end Sys2Proof.Machine
end

