-- ==== Sys2Proof/Machine/Fronts.lean ====
section
/-! DEFINITION. Front accumulators (21 R379 to R394): dominance, the offer, images and the instructions. -/

namespace Sys2Proof.Machine

/-! Keys and dominance (R380, R381). -/

/-- Direction of key `i`: 0 ignored, 1 minimised, 2 maximised (R380). -/
def keyDir (cfg : Word) (i : Nat) : Nat := bits cfg.toNat (2 * i + 1) (2 * i)

/-- Type of key `i`: 0 .i32, 1 .n32, 2 .f32 (R380). -/
def keyType (cfg : Word) (i : Nat) : Nat := bits cfg.toNat (9 + 2 * i) (8 + 2 * i)

/-- CAP (R380). -/
def frontCap (cfg : Word) : Nat := fld cfg 26 20

/-- Overflow policy (R380). -/
def frontOvp (cfg : Word) : Nat := fld cfg 18 17

/-- Whether a configuration word is accepted (R380). -/
def cfgOk (w : Word) : Bool :=
  fld w 63 27 == 0 && fld w 19 19 == 0 && frontCap w != 0 && decide (frontCap w ≤ 64) &&
    ([0, 1, 2, 3].all fun i => keyDir w i != 3 && keyType w i != 3) &&
    ([0, 1, 2, 3].any fun i => keyDir w i != 0) && !(frontOvp w == 2 && keyDir w 0 == 0)

/-- Key `i` of a tuple. -/
def FTuple.key (x : FTuple) (i : Nat) : Nat :=
  if i = 0 then x.k0.toNat else if i = 1 then x.k1.toNat else if i = 2 then x.k2.toNat else x.k3.toNat

/-- Place of an FP32 code in the order of VMIN, −0 below +0 (R381). -/
def floatRank (x : Nat) : Int := if bitOf x 31 then -((x % 2 ^ 31 : Nat) + 1 : Int) else (x : Int)

/-- A key as a number of its type. -/
def keyNum (cfg : Word) (i : Nat) (x : FTuple) : Int :=
  if keyType cfg i = 0 then sextN 32 (x.key i) else if keyType cfg i = 1 then (x.key i : Int) else floatRank (x.key i)

/-- A key as a cost: smaller is better. -/
def keyCost (cfg : Word) (i : Nat) (x : FTuple) : Int := if keyDir cfg i = 2 then -(keyNum cfg i x) else keyNum cfg i x

/-- Active keys. -/
def activeKeys (cfg : Word) : List Nat := [0, 1, 2, 3].filter fun i => keyDir cfg i != 0

/-- Whether an active .f32 key is NaN (R381). -/
def unorderable (cfg : Word) (x : FTuple) : Bool :=
  (activeKeys cfg).any fun i => keyType cfg i == 2 && decide (0x7F80_0000 < x.key i % 2 ^ 31)

/-- Whether `x` dominates `y` (R381). -/
def dominates (cfg : Word) (x y : FTuple) : Bool :=
  ((activeKeys cfg).all fun i => decide (keyCost cfg i x ≤ keyCost cfg i y)) &&
    (activeKeys cfg).any fun i => decide (keyCost cfg i x < keyCost cfg i y)

/-- Whether two tuples are equal in every active key (R381). -/
def equalKeys (cfg : Word) (x y : FTuple) : Bool := (activeKeys cfg).all fun i => keyNum cfg i x == keyNum cfg i y

/-- Held tuples during a step; the mark says that a tuple was offered in it. -/
abbrev Held := List (FTuple × Bool)

/-- Held tuples without the first that satisfies a test. -/
def dropFirst (f : FTuple → Bool) : Held → Held
  | [] => []
  | x :: t => if f x.1 then t else x :: dropFirst f t

/-- Worst key 0 of some tuples, as a cost (R382). -/
def worstCost (cfg : Word) (x : FTuple) (ts : Held) : Int := ts.foldl (fun acc t => max acc (keyCost cfg 0 t.1)) (keyCost cfg 0 x)

/-- The offer of R382: held tuples, OVF, status and the number removed; none for the fault of policy 3. -/
def offer (cfg : Word) (ovf : Bool) (ts : Held) (x : FTuple) : Option (Held × Bool × Nat × Nat) :=
  if unorderable cfg x then some (ts, ovf, 6, 0)
  else if ts.any fun t => dominates cfg t.1 x then some (ts, ovf, 1, 0)
  else if ts.any fun t => equalKeys cfg t.1 x then
    (if fld cfg 16 16 = 0 then some (ts, ovf, 2, 0)
     else some (dropFirst (fun t => equalKeys cfg t x) ts ++ [(x, true)], ovf, 3, 1))
  else
    let kept := ts.filter fun t => !dominates cfg x t.1
    if kept.length < frontCap cfg then some (kept ++ [(x, true)], ovf, 0, ts.length - kept.length)
    else if frontOvp cfg = 0 then some (kept, true, 4, 0)
    else if frontOvp cfg = 1 then some (kept.drop 1 ++ [(x, true)], true, 5, 1)
    else if frontOvp cfg = 2 then
      (if worstCost cfg x kept = keyCost cfg 0 x then some (kept, true, 4, 0)
       else some (dropFirst (fun t => keyCost cfg 0 t == worstCost cfg x kept) kept ++ [(x, true)], true, 5, 1))
    else none

/-! State of a front. -/

/-- Front `n` of the issuer's room (R379). -/
def State.front (s : State) (n : BitVec 2) : Front := tget {} (s.room s.myRoom).fronts n.toNat

/-- Replaces a front. -/
def State.setFront (s : State) (n : BitVec 2) (f : Front) : State :=
  s.setRoom s.myRoom fun r => { r with fronts := tset r.fronts n.toNat f }

/-- A front configured, or cleared where no word is given (R387). -/
def Front.configure (f : Front) (cfg : Option Word) : Front :=
  match cfg with
  | some w => { f with cfg := w, ovf := false, tuples := [], lost := false, epoch := f.epoch + 1 }
  | none => { f with ovf := false, tuples := [], epoch := f.epoch + 1 }

/-- The non-returning front operations of a context with numbers up to `n` reach their accumulator, in issue order (13 R310, 21 R394). -/
def State.landFronts (s : State) (ctx n : Nat) : State :=
  let now := (s.ctx ctx).frontQ.filter fun r => decide (r.id ≤ n)
  if now.isEmpty then s
  else
    let s := s.setCtx ctx fun c => { c with frontQ := c.frontQ.filter fun r => decide (n < r.id) }
    s.setRoom (roomOf (coreOf ctx)) fun x =>
      { x with fronts := now.foldl (fun t r => tset t r.front ((tget ({} : Front) t r.front).configure r.cfg)) x.fronts }

/-- A non-returning front operation has issued (R394): it reaches its accumulator by an event, before any later front operation of its context. -/
def State.sendFront (s : State) (n : BitVec 2) (cfg : Option Word) : State :=
  let id := s.nextId
  let s := s.setMe fun c => { c with frontQ := c.frontQ ++ [{ id := id, front := n.toNat, cfg := cfg }] }
  State.post { s with nextId := id + 1 } (.remoteUpdate s.cur id)

/-- Front fault (R393, 23 R399). -/
def State.frontFault (s : State) (n : BitVec 2) (reason index : Nat) : State :=
  s.raise (s.flt 0x18 reason 0 (n.toNat + s.myRoom % 24 * 256 + index * 2 ^ 16))

/-- A front with EPOCH advanced (R379). -/
def Front.step (f : Front) : Front := { f with epoch := f.epoch + 1 }

/-- EPOCH in [63:32]. -/
def Front.epochWord (f : Front) : Nat := f.epoch.toNat * 2 ^ 32

/-- A front instruction; a porch core has none (R379). The context's operations reach the accumulators in issue order (13 R310). -/
def frontOp (s : State) (go : State → State) : Res :=
  if isPorch s.myCore then .next s.porchFault else .next (go (s.landFronts s.cur s.nextId))

/-- A returning operation on a front that has not been lost (R393). -/
def liveFront (sc : BitVec 4) (n : BitVec 2) (s : State) (go : Front → State → State) : State :=
  s.scoped sc fun s => if (s.front n).lost then s.frontFault n 5 0 else go (s.front n) s

/-! The instructions. -/

/-- FCFG (R387): it commits at issue, and its front is configured when it reaches the accumulator (R394). -/
def execFcfg (a : BitVec 5) (n : BitVec 2) (s : State) : Res :=
  if isPorch s.myCore then .next s.porchFault
  else if !cfgOk (s.rg a) then .next (s.operand 1 a)
  else .next (s.sendFront n (some (s.rg a)))

/-- The tuple of an FPUT (R388). -/
def tupleOf (a b d : Word) : FTuple :=
  { k0 := a.truncate 32, k1 := BitVec.ofNat 32 (fld a 63 32), k2 := b.truncate 32, k3 := BitVec.ofNat 32 (fld b 63 32),
    payload := d.truncate 32 }

/-- A front after offers, with EPOCH advanced when something changed (R379). -/
def Front.after (f : Front) (ts : Held) (ovf changed : Bool) : Front :=
  let g := { f with tuples := ts.map (·.1), ovf := ovf }
  if changed || ovf != f.ovf then g.step else g

/-- FPUT (R382, R383, R388). -/
def execFput (d a b : BitVec 5) (sc : BitVec 4) (n : BitVec 2) (s : State) : Res :=
  frontOp s (liveFront sc n · fun f s =>
    if f.cfg = 0 then s.frontFault n 1 0
    else
      match offer f.cfg f.ovf (f.tuples.map fun t => (t, false)) (tupleOf (s.rg a) (s.rg b) (s.rg d)) with
      | none => s.frontFault n 2 0
      | some (ts, ovf, status, evict) =>
        let held := status = 0 ∨ status = 3 ∨ status = 5
        let g := f.after ts ovf (decide held)
        let index := if held then ts.length - 1 else 127
        (s.setFront n g).reply d
          (word (g.epochWord + b2n g.ovf * 2 ^ 31 + ts.length * 2 ^ 24 + index * 2 ^ 16 + evict * 256 + status)))

/-- FREAD (R389). -/
def execFread (d a : BitVec 5) (sc : BitVec 4) (n : BitVec 2) (s : State) : Res :=
  frontOp s fun s =>
    let i := (s.rg a).toNat
    if 63 < i then s.operand 1 a
    else
      liveFront sc n s fun f s =>
        let (x, y, z) : Nat × Nat × Nat :=
          match f.tuples[i]? with
          | some t => (t.k0.toNat + t.k1.toNat * 2 ^ 32, t.k2.toNat + t.k3.toNat * 2 ^ 32, t.payload.toNat)
          | none => (0, 0, 2 ^ 64 - 1)
        ((s.wr (d + 2) (word z)).wr (d + 1) (word y)).reply d (word x)

/-- Places of the words of a span for a plain access of the issuer, or the state of a context that does not go on (09 R227). -/
def State.readySpan (s : State) (right : Nat) (acc : AccKind) : List Nat → State × Option (List Phys)
  | [] => (s, some [])
  | h :: t =>
    match s.reach (s.portOf s.myCore h) h right with
    | (s, .error why) => (s.parkTranslation h acc why, none)
    | (s, .ok p) =>
      if s.physOffline p then (s.raise (s.flt 6 3 h), none)
      else if s.badWord h then (s.raise (s.flt 0x0D 3 h), none)
      else if s.conflicts h then (s.hold .fence, none)
      else
        match (s.useBank h).readySpan right acc t with
        | (s, some ps) => (s, some (p :: ps))
        | r => r

/-- Addresses of `n` consecutive 8-byte words. -/
def wordsAt (h n : Nat) : List Nat := (List.range n).map fun i => h + 8 * i

/-- The image address of FMERGE, FSAVE and FLOAD, checked for the whole span (R386). -/
def imageOp (a : BitVec 5) (right : Nat) (sc : BitVec 4) (n : BitVec 2) (s : State) (go : Nat → Front → State → State) : Res :=
  frontOp s fun s =>
    let c : Cls := if right = rR then .span else .scalarStore
    match s.resolve (s.rg a) 0 1552 8 right c 8 with
    | .error f => s.raise f
    | .ok h =>
      match s.spanFault h 1552 c with
      | some x => s.raise (s.flt 6 x.2 x.1)
      | none => liveFront sc n s (go h)

/-- The five words of a tuple's image, as three 8-byte words (R385). -/
def FTuple.image (t : FTuple) : List Word :=
  [word (t.k0.toNat + t.k1.toNat * 2 ^ 32), word (t.k2.toNat + t.k3.toNat * 2 ^ 32), word t.payload.toNat]

/-- The image of a front (R385). -/
def Front.image (f : Front) : List Word :=
  word (2 ^ 56 + fld f.cfg 26 0) :: word (f.epochWord + b2n f.ovf * 128 + f.tuples.length) :: f.tuples.flatMap FTuple.image

/-- FSAVE (R390). -/
def execFsave (d a : BitVec 5) (sc : BitVec 4) (n : BitVec 2) (s : State) : Res :=
  imageOp a rW sc n s fun h f s =>
    match s.readySpan rW .store (wordsAt h f.image.length) with
    | (s, none) => s
    | (s, some ps) =>
      ((ps.zip f.image).foldl (fun s x => s.put x.1 8 x.2.toNat) s).reply d (word (f.epochWord + f.tuples.length))

/-- Tuples of an image's words; none where a reserved field is nonzero. -/
def tuplesOf : List Word → Option (List FTuple)
  | x :: y :: z :: t => if fld z 63 32 = 0 then (tuplesOf t).map (tupleOf x y z :: ·) else none
  | _ => some []

/-- Reads an image's words: two of the header, then the tuples that its COUNT says, at most 64. -/
def State.readImage (s : State) (h : Nat) (go : Word → Word → List Word → State → State) : State :=
  match s.readySpan rR .load (wordsAt h 2) with
  | (s, none) => s
  | (s, some ps) =>
    let ws := ps.map fun p => word (s.get p 8)
    let w1 := ws.getD 1 0
    match s.readySpan rR .load (wordsAt (h + 16) (3 * min 64 (fld w1 6 0))) with
    | (s, none) => s
    | (s, some qs) => go (ws.getD 0 0) w1 (qs.map fun p => word (s.get p 8)) s

/-- Whether no tuple dominates or equals another (R390). -/
def frontSound (cfg : Word) : List FTuple → Bool
  | [] => true
  | x :: t => (t.all fun y => !dominates cfg x y && !dominates cfg y x && !equalKeys cfg x y) && frontSound cfg t

/-- FLOAD (R390); it also restores a front that was lost (R393). -/
def execFload (d a : BitVec 5) (sc : BitVec 4) (n : BitVec 2) (s : State) : Res :=
  frontOp s fun s =>
    match s.resolve (s.rg a) 0 1552 8 rR .span 8 with
    | .error f => s.raise f
    | .ok h =>
      match s.spanFault h 1552 .span with
      | some x => s.raise (s.flt 6 x.2 x.1)
      | none =>
        s.scoped sc fun s =>
          s.readImage h fun w0 w1 ws s =>
            let cfg := word (fld w0 26 0)
            match tuplesOf ws with
            | some ts =>
              if fld w0 63 56 = 1 ∧ fld w0 55 27 = 0 ∧ fld w1 31 8 = 0 ∧ cfgOk cfg = true ∧ fld w1 6 0 ≤ frontCap cfg ∧
                  (ts.all fun t => !unorderable cfg t) = true ∧ frontSound cfg ts = true then
                let f : Front := { (s.front n) with cfg := cfg, ovf := fld w1 7 7 == 1, tuples := ts, lost := false }
                (s.setFront n f.step).reply d (word (f.step.epochWord + ts.length))
              else s.frontFault n 3 0
            | none => s.frontFault n 3 0

/-- What a merge has done so far: held tuples, OVF, offers not taken, tuples removed, whether something changed. -/
structure Merge where
  held : Held
  ovf : Bool
  passed : Nat
  removed : Nat
  changed : Bool
  deriving DecidableEq, Repr

/-- Offers tuples from index `j` on; the second part is the index of an offer that raises the overflow fault (R391). -/
def mergeFrom (cfg : Word) : Nat → List FTuple → Merge → Merge × Option Nat
  | _, [], m => (m, none)
  | j, x :: t, m =>
    match offer cfg m.ovf m.held x with
    | none => (m, some j)
    | some (ts, ovf, st, ev) =>
      let held := st = 0 ∨ st = 3 ∨ st = 5
      mergeFrom cfg (j + 1) t
        { held := ts, ovf := ovf, passed := m.passed + (if held then 0 else 1), removed := m.removed + ev,
          changed := m.changed || decide held }

/-- FMERGE (R391). -/
def execFmerge (d a : BitVec 5) (sc : BitVec 4) (n : BitVec 2) (s : State) : Res :=
  imageOp a rR sc n s fun h f s =>
    if f.cfg = 0 then s.frontFault n 1 0
    else
      s.readImage h fun w0 w1 ws s =>
        match tuplesOf ws with
        | some ts =>
          if fld w0 63 56 = 1 ∧ fld w0 55 27 = 0 ∧ fld w1 31 8 = 0 ∧ fld w1 6 0 ≤ 64 ∧ fld w0 19 19 = 0 ∧
              fld w0 15 0 = fld f.cfg 15 0 then
            let m : Merge := { held := f.tuples.map (fun t => (t, false)), ovf := f.ovf, passed := 0, removed := 0, changed := false }
            let r := mergeFrom f.cfg 0 ts m
            let g := f.after r.1.held r.1.ovf r.1.changed
            let s := s.setFront n g
            match r.2 with
            | some j => s.frontFault n 2 j
            | none =>
              s.reply d (word (g.epochWord + b2n g.ovf * 2 ^ 31 + g.tuples.length * 2 ^ 24 + r.1.passed * 2 ^ 16 +
                r.1.removed * 256 + (r.1.held.filter (·.2)).length))
          else s.frontFault n 4 0
        | none => s.frontFault n 4 0

/-- FCLR (R387), like FCFG. -/
def execFclr (n : BitVec 2) (s : State) : Res :=
  if isPorch s.myCore then .next s.porchFault else .next (s.sendFront n none)

/-- FSTAT (R392). -/
def execFstat (d : BitVec 5) (sc : BitVec 4) (n : BitVec 2) (s : State) : Res :=
  frontOp s fun s =>
    s.scoped sc fun s =>
      let f := s.front n
      s.reply d (word (f.epochWord + b2n (f.cfg != 0) * 2 ^ 23 + frontCap f.cfg * 2 ^ 16 + b2n f.ovf * 128 + f.tuples.length))

end Sys2Proof.Machine
end

