-- ==== Sys2Proof/Machine/Banks.lean ====
section
/-! DEFINITION. Banks of the local stores (05 R114, R115): what the issuing context's accesses name, and which requester is granted a bank in a cycle.
Rank 0 stands for the bank ALU, 1 for the sluice port, 2 for the copy engine and 3 for the tile view. -/

namespace Sys2Proof.Machine

/-- Bytes of a row. -/
def CopyCmd.len (c : CopyCmd) : Nat := fld c.lenWord 23 0

/-- Bytes of a command's byte sequence (R246). -/
def CopyCmd.total (c : CopyCmd) : Nat := fld c.stride 15 0 * c.len

/-- Byte positions of the words of the next chunk. -/
def CopyCmd.words (c : CopyCmd) : List Nat :=
  (List.range (min 512 ((c.total - 4096 * c.chunk) / 8))).map fun i => 4096 * c.chunk + 8 * i

/-- Address of the source word at a byte position. -/
def CopyCmd.from (c : CopyCmd) (p : Nat) : Nat :=
  let h := c.src + p / c.len * fld c.stride 39 16 + p % c.len
  if c.sv then tileView h else h

/-- Address of the destination word at a byte position of CPY and CPYS. -/
def CopyCmd.to (c : CopyCmd) (p : Nat) : Nat :=
  let h := c.dst + p / c.len * fld c.stride 63 40 + p % c.len
  if c.dv then tileView h else h

/-- Where a side of a command names the tile view and its base is not a multiple of 8, each of its 8-byte units stands in two words, since the view maps every byte
(09 R217): the bytes of a unit in the word of its first byte; else all 8. -/
def headBytes (view : Bool) (base : Nat) : Nat := if view then 8 - base % 8 else 8

/-- Address of the other bytes of such a unit, whose first byte has the ordinary address `h`. -/
def tailAt (h : Nat) : Nat := tileView (h / 8 * 8 + 8)

/-- Addresses of the second parts of the units of the next chunk at the source; none where no unit has one. -/
def CopyCmd.fromTails (c : CopyCmd) : List Nat :=
  if headBytes c.sv c.src = 8 then [] else c.words.map fun p => tailAt (c.src + p / c.len * fld c.stride 39 16 + p % c.len)

/-- The same at the destination of CPY and CPYS. -/
def CopyCmd.toTails (c : CopyCmd) : List Nat :=
  if headBytes c.dv c.dst = 8 then [] else c.words.map fun p => tailAt (c.dst + p / c.len * fld c.stride 63 40 + p % c.len)

/-- Addresses that the next chunk of a command reads and writes. -/
def CopyCmd.touched (c : CopyCmd) : List Nat :=
  c.words.map c.from ++ c.fromTails ++ (if c.form = 2 then (c.dests.filterMap id).flatMap fun h => c.words.map (h + ·) else c.words.map c.to ++ c.toTails)

/-- The words that hold the `n` bytes at a house address (09 R216). -/
def wordsOver (h n : Nat) : List Nat := wordRun (h / 8 * 8) ((h % 8 + n + 7) / 8)

/-- Words that a scalar access of the executing bundle names. -/
def State.scalarWords (s : State) (a : Word) (k : Int) (size right : Nat) : List Nat :=
  match s.resolve a k size 1 right .scalarLoad with
  | .ok h => wordsOver h size
  | .error _ => []

/-- Words that the lanes of a vector access name. -/
def State.laneWords (s : State) (m : BitVec 1) (a : BitVec 5) (right : Nat) (off : Nat → Int) : List Nat :=
  (s.taking m).flatMap fun i => s.scalarWords (s.rg a) (off i) 4 right

/-- Words of the set that a tag-table instruction reads or writes whole (09 R218); `set` gives its number among SETS. -/
def State.tagWords (s : State) (a : BitVec 5) (right : Nat) (set : Nat → Nat) : List Nat :=
  match s.resolve (s.rg a) 0 8 1 right .scalarLoad with
  | .ok t => if s.own t && tagDesc (s.loadW t) then wordsOver (tagEntry t (4 * set (s.loadW t).toNat)) 64 else []
  | .error _ => []

/-- The word of a full/empty, barrier or landing operation. -/
def State.syncWord (s : State) (a : BitVec 5) (k : Int) : List Nat := s.scalarWords (s.rg a) k 8 rF

/-- Words of the image that a front instruction reads or writes (21 R391). -/
def State.frontWords (s : State) (a : BitVec 5) (right : Nat) (n : Nat → Nat) : List Nat :=
  match s.resolve (s.rg a) 0 1552 8 right .span 8 with
  | .ok h => wordsAt h (n h)
  | .error _ => []

/-- How many words an image holds whose second word stands at `h + 8`. -/
def State.imageLen (s : State) (h : Nat) : Nat := 2 + 3 * min 64 (fld (s.loadW (h + 8)) 6 0)

/-- Words of local stores that an instruction's accesses name; those elsewhere, which have no banks, may stand among them. -/
def State.wordsOf (s : State) : Instr → List Nat
  | .ldI _ a z _ _ i => s.scalarWords (s.rg a) (disp i (sizeOf2 z)) (sizeOf2 z) rR
  | .ldN _ a z _ _ i => s.scalarWords (s.rg a) (disp i (sizeOf2 z)) (sizeOf2 z) rR
  | .st _ a z _ _ i => s.scalarWords (s.rg a) (disp i (sizeOf2 z)) (sizeOf2 z) rW
  | .ldxI _ a z _ _ x => s.scalarWords (s.rg a) (indexed (s.rg x) (sizeOf2 z)) (sizeOf2 z) rR
  | .ldxN _ a z _ _ x => s.scalarWords (s.rg a) (indexed (s.rg x) (sizeOf2 z)) (sizeOf2 z) rR
  | .stx _ a z _ _ x => s.scalarWords (s.rg a) (indexed (s.rg x) (sizeOf2 z)) (sizeOf2 z) rW
  | .segld _ a => s.scalarWords (s.rg a) 0 16 rR
  | .segst _ a => s.scalarWords (s.rg a) 0 16 rW
  | .lkup _ a b => s.tagWords a rR fun n => tagSet (s.rg b) n
  | .tagset _ a b => s.tagWords a rW fun n => tagSet (s.rg b) n
  | .taginv a b => s.tagWords a rW fun n => (s.rg b).toNat / 4 % n
  | .vld m _ a _ _ => s.laneWords m a rR fun i => 4 * i
  | .vst m _ a _ _ => s.laneWords m a rW fun i => 4 * i
  | .vlds m _ a b _ _ => s.laneWords m a rR fun i => i * (s.rg b).toInt
  | .vsts m _ a b _ _ => s.laneWords m a rW fun i => i * (s.rg b).toInt
  | .vgath m t _ a i _ _ => s.laneWords m a rR (s.gatherOff t i)
  | .vscat m t _ a i _ _ => s.laneWords m a rW (s.gatherOff t i)
  | .amo _ a _ _ z _ => s.scalarWords (s.rg a) 0 (4 * (z.toNat + 1)) rA
  | .amocas _ a _ _ z => s.scalarWords (s.rg a) 0 (4 * (z.toNat + 1)) rA
  | .red a _ z _ => s.scalarWords (s.rg a) 0 (4 * (z.toNat + 1)) rA
  | .take _ a _ i => s.syncWord a (disp i 8)
  | .put _ a _ i => s.syncWord a (disp i 8)
  | .fereadD _ a _ i => s.syncWord a (disp i 8)
  | .fereadProbe _ a _ i => s.syncWord a (disp i 8)
  | .fesetEmpty a _ i => s.syncWord a (disp i 8)
  | .fesetFull _ a _ i => s.syncWord a (disp i 8)
  | .barinit a _ _ => s.syncWord a 0
  | .arrive _ a _ _ => s.syncWord a 0
  | .waitb _ a _ _ => s.syncWord a 0
  | .waitl _ a _ _ => s.syncWord a 0
  | .landset a _ _ => s.syncWord a 0
  | .fsave _ a _ n => s.frontWords a rW fun _ => (s.front n).image.length
  | .fload _ a _ _ => s.frontWords a rR s.imageLen
  | .fmerge _ a _ _ => s.frontWords a rR s.imageLen
  -- no other instruction's access takes a bank by itself
  | _ => []

/-- Whether an instruction's access is performed by the bank ALU of its word (05 R114). -/
def usesAlu : Instr → Bool
  | .amo _ _ _ _ _ _ => true
  | .amocas _ _ _ _ _ => true
  | .red _ _ _ _ => true
  | .take _ _ _ _ => true
  | .put _ _ _ _ => true
  | .fereadD _ _ _ _ => true
  | .fereadProbe _ _ _ _ => true
  | .fesetEmpty _ _ _ => true
  | .fesetFull _ _ _ _ => true
  | .barinit _ _ _ => true
  | .arrive _ _ _ _ => true
  | .waitb _ _ _ _ => true
  | .waitl _ _ _ _ => true
  -- every other access passes by the sluice port
  | _ => false

/-- Words of the issuing core's own store that an instruction's accesses name: a parked instruction whose value has come names none any more. -/
def State.ownWords (s : State) (i : Instr) : List Nat :=
  if s.src.given.isSome && i.slot == .s then [] else (s.wordsOf i).filter s.own

/-- The banks of these words. -/
def State.banksOf (s : State) (i : Instr) : List Nat := (s.ownWords i).filterMap fun h => (bankOf h).map (·.2)

/-- Words in other cores' stores that an instruction's plain accesses name as its bundle executes. A relaxed access, and a fetch-and-add that a packet carries, is
performed by an event of its own. -/
def State.afar (s : State) (i : Instr) : List Nat :=
  if starts i ≠ 0 ∨ (s.src.given.isSome && i.slot == .s) = true then []
  else
    (s.wordsOf i).filter fun h =>
      !s.own h && (match i with
                   | .amo _ _ _ _ _ o => o != 0 || !s.alone || (s.goesTo s.myCore h).isNone
                   | _ => true)

/-- Whether a bundle of a context loses a bank of its own store in this cycle. -/
def State.losesBank (s : State) (ctx : Nat) (i j : Instr) : Bool :=
  let k := s.core (coreOf ctx)
  !isPorch (coreOf ctx) && !bitOf k.forfeit (slotOf ctx) && ((s.banksOf i ++ s.banksOf j).any fun b => bitOf k.busy b)

/-- Slots in the order pointer, pointer + 1, … -/
def slotOrder (ptr : Nat) : List Nat := (List.range 16).map fun i => (ptr + i) % 16

/-- Whether a context is eligible (R108). -/
def Ctx.eligible (c : Ctx) (cc : Nat) : Bool :=
  c.status == .ready &&
    (match c.lastIssue with
     | some t => decide (t + 8 ≤ cc)
     | none => true)

/-- The context that issues next, if any. -/
def State.chosen (s : State) (core : Nat) : Option Nat :=
  ((slotOrder (s.core core).ptr).map (16 * core + ·)).find? fun c => (s.ctx c).eligible s.clock.cc

/-- Whether a bundle stands to be executed after a wait. -/
def CStatus.resumes : CStatus → Bool
  | .waiting .fence => true
  | .waiting (.parked _) => true
  | .waiting (.ebb _) => true
  | _ => false

/-- Banks that a context of a core wins in this cycle by its forfeit bit (R115): the one that issues, while the core is still to look for a bundle, and
one whose bundle goes on after a wait. -/
def State.favoured (s : State) (core : Nat) : List Nat :=
  let wins := fun ctx =>
    if !bitOf (s.core core).forfeit (slotOf ctx) then []
    else
      match decodeBundle (s.ctx ctx).bits with
      | .ok (i, j) =>
        let t := { s with cur := ctx, view := none }
        t.banksOf i ++ t.banksOf j
      | .error _ => []
  (if s.looked.contains core then [] else (s.chosen core).toList.flatMap wins) ++
    s.agenda.flatMap fun e =>
      match e with
      | .stationWake ctx _ => if coreOf ctx = core ∧ (s.ctx ctx).status.resumes = true then wins ctx else []
      | _ => []

/-- The rank of an event that asks for banks, and the words that it asks for; none for any other event. -/
def State.asksFor (s : State) : Instr → Option (Nat × List Nat)
  | .remoteUpdate ctx id =>
    ((s.ctx ctx).relaxed.find? fun r => r.id == id && !r.done).map fun r => (0, r.addrs)
  | .relaxedLoadData ctx id => ((s.ctx ctx).relaxed.find? fun r => r.id == id && !r.done).map fun r => (1, r.addrs)
  | .copyChunk room queue => ((tget [] (s.room room).copyQ queue).head?.filter fun c => !(s.room room).stopped && c.parked.isNone).map fun c => (2, c.touched)
  | .stationWake ctx _ =>
    let c := s.ctx ctx
    match c.status.resumes, decodeBundle c.bits with
    | true, .ok (i, j) =>
      let t := { s with cur := ctx, view := none }
      some (if usesAlu i then 0 else 1, t.afar i ++ t.afar j)
    | _, _ => none
  | .relaxedAcknowledgement ctx id => ((s.ctx ctx).relaxed.find? fun r => r.id == id && !r.done).map fun r => (1, r.addrs)
  | _ => none

/-- Banks of a core's store that a requester of higher rank asks for in this cycle. -/
def State.rivals (s : State) (rank core : Nat) : List Nat :=
  s.agenda.flatMap fun e =>
    match s.asksFor e with
    | some (r, hs) => if r < rank then (hs.filterMap bankOf).filterMap fun b => if b.1 = core then some b.2 else none else []
    | none => []

/-- Whether a requester of a rank loses some bank of the words at some addresses in this cycle: it has been granted already, the issuing context is favoured, or
a requester of higher rank asks for it (R115). -/
def State.bankTaken (s : State) (rank : Nat) (hs : List Nat) : Bool :=
  let bs := (hs.filterMap bankOf).eraseDups
  (bs.map (·.1)).eraseDups.any fun k =>
    let mine := (bs.filter (·.1 == k)).map (·.2)
    mine.any (fun b => bitOf (s.core k).busy b) || (s.favoured k).any mine.contains || (s.rivals rank k).any mine.contains

/-- Whether a bundle that executes after a wait loses a bank of its own core's store: one that has been granted in this cycle, or, without the forfeit
bit, one that any other requester asks for (R115). -/
def State.losesOwn (s : State) (i j : Instr) : Bool :=
  !s.issuing &&
    (if bitOf (s.core s.myCore).forfeit (slotOf s.cur) then (s.banksOf i ++ s.banksOf j).any fun b => bitOf (s.core s.myCore).busy b
     else s.bankTaken 4 ((s.ownWords i ++ s.ownWords j)))

/-- Whether a bundle that executes loses the bank of a word that it accesses (R114, R115): of another core's store, through whose sluice port or bank ALU its access
comes, or of its own where it executes after a wait, for which it asks as a context without its forfeit bit. One that issues in this cycle has been granted its
own. -/
def State.losesPort (s : State) (i j : Instr) : Bool :=
  s.bankTaken (if usesAlu i then 0 else 1) (s.afar i) || s.bankTaken 1 (s.afar j) ||
    s.losesOwn i j

/-- A bundle that loses a bank is tried again in the next cycle; where it is one of its own core's, its context's forfeit bit is set (R115). -/
def State.forgo (s : State) (i j : Instr) : State :=
  if s.losesOwn i j then
    let slot := slotOf s.cur
    ((s.setCore s.myCore fun k => { k with forfeit := if bitOf k.forfeit slot then k.forfeit else k.forfeit + 2 ^ slot }).bump s.myCore 23 1).tryLater
  else s.tryLater

/-- The packets of at most 256 bytes in which the data of an engine's step travel, where their words lie elsewhere than its room: out to them, or back from them (11 R255,
R256). They have no effect of their own: the words are read and written by the step (log 84). -/
def State.carry (s : State) (core : Nat) (out : Bool) (hs : List Nat) : State :=
  (List.range ((hs.length + 31) / 32)).foldl (fun s i =>
    let g := (hs.drop (32 * i)).take 32
    match s.goesTo core (g.headD 0) with
    | none => s
    | some (dst, on) =>
      if out then s.send (s.lineAt core) dst { cls := 1, bytes := 8 * g.length, on := on }
      else s.send (on.getD dst) (s.lineAt core) { cls := 1, bytes := 8 * g.length }) s

end Sys2Proof.Machine
end

