-- ==== Sys2Proof/Machine/Copy.lean ====
section
/-! DEFINITION. The copy engine: CPY, CPYS and CPYM at issue (10 R245 to R247) and the event COPY_CHUNK (R248 to R253). -/

namespace Sys2Proof.Machine

/-- Bytes from the first to the last of `rows` rows of `len` bytes, `stride` apart (R246). -/
def spanOf (rows len stride : Nat) : Nat := (rows - 1) * stride + len

/-- Whether a span lies in one local store. -/
def oneStore (h n : Nat) : Bool :=
  match unitOf h with
  | .localStore _ o => decide (o + n ≤ 0x4_0000)
  | _ => false

/-- House address of the word at offset `o` of the local store that holds `h`. -/
def storeWord (h o : Nat) : Nat := h / 0x4_0000 * 0x4_0000 + o

/-- Whether a length word keeps the limits of R246. -/
def lenOk (w : Word) : Bool :=
  fld w 63 51 == 0 && fld w 31 24 == 0 && decide (8 ≤ fld w 23 0) && decide (fld w 23 0 ≤ 16777208) && fld w 23 0 % 8 == 0 &&
    (fld w 50 50 == 0 || fld w 49 32 % 8 == 0)

/-- Whether the stride word of CPYS keeps the limits of R246. -/
def strideOk (w : Word) (len : Nat) : Bool :=
  fld w 15 0 != 0 && fld w 39 16 % 8 == 0 && fld w 63 40 % 8 == 0 && decide (len ≤ fld w 63 40) &&
    decide (fld w 15 0 * len ≤ 16777215)

/-- The house-address fault of a span, unless every unit it touches accepts copies (R247). -/
def State.copyUnits (s : State) (h n : Nat) : Option FaultRec := (s.spanFault h n .copy).map fun x => s.flt 6 x.2 x.1

/-- A span of a copy, resolved (09 R214) and accepted by its units (R220). -/
def State.copySpan (s : State) (a : Word) (n right : Nat) : Except FaultRec Nat :=
  match s.resolve a 0 n 8 right .copy with
  | .error f => .error f
  | .ok h =>
    match s.copyUnits h n with
    | some f => .error f
    | none => .ok h

/-- Accepts a command into its queue, or holds the bundle back when 16 commands wait there (R247). -/
def State.acceptCopy (s : State) (q : Nat) (c : CopyCmd) : State :=
  let old := tget [] (s.room s.myRoom).copyQ q
  if 16 ≤ old.length then s.hold .retry
  else
    let s' := s.setRoom s.myRoom fun r => { r with copyQ := tput [] r.copyQ q (old ++ [c]) }
    if old.isEmpty then s'.post (.copyChunk s.myRoom q) else s'

/-- The command that an instruction queues, with its issuer. -/
def State.copyCmd (s : State) (i : Instr) (form : Nat) (lenWord stride : Word) (src dst : Nat) (sv dv : Bool) : CopyCmd :=
  { ctx := s.cur, gid := s.src.gid, lrec := s.src.lrec, pc := s.src.pc, syl := (encode i).getD 0, form := form, sv := sv, dv := dv,
    lenWord := lenWord, stride := stride, src := src, dst := dst, segs := s.src.segs }

/-- CPY and CPYS at issue (R246, R247): the length words, the two spans, then what the views and the landing word require. -/
def copyOp (d a b : BitVec 5) (i : Instr) (form : Nat) (sv dv : Bool) (q : Nat) (s : State) : Res :=
  if isPorch s.myCore then .next s.porchFault
  else
    let b' := b + 1
    let w := s.rg b
    let len := fld w 23 0
    let st := if form = 1 then s.rg b' else 1
    let rows := fld st 15 0
    if !lenOk w then .next (s.operand 2 b)
    else if form = 1 ∧ strideOk st len = false then .next (s.operand 2 b')
    else
      match s.copySpan (s.rg a) (spanOf rows len (fld st 39 16)) rR, s.copySpan (s.rg d) (spanOf rows len (fld st 63 40)) rW with
      | .error f, _ => .next (s.raise f)
      | _, .error f => .next (s.raise f)
      | .ok src, .ok dst =>
        if sv && !oneStore src (spanOf rows len (fld st 39 16)) then .next (s.operand 1 a)
        else if (dv && !oneStore dst (spanOf rows len (fld st 63 40))) || (fld w 50 50 == 1 && !oneStore dst 1) then .next (s.operand 0 d)
        else .next (s.acceptCopy q (s.copyCmd i form w st src dst sv dv))

/-- CPY (R245 to R249). -/
def execCpy (d a b : BitVec 5) (e v : BitVec 1) (q : BitVec 3) (s : State) : Res :=
  copyOp d a b (.cpy d a b e v q) 0 (v == 1) (e == 1) q.toNat s

/-- CPYS (R245 to R249). -/
def execCpys (d a b : BitVec 5) (e v : BitVec 1) (q : BitVec 3) (s : State) : Res :=
  copyOp d a b (.cpys d a b e v q) 1 (v == 1) (e == 1) q.toNat s

/-- Bytes of the list of a CPYM, by the number of destinations that its first word holds as the bundle issues; those of its first two words where that cannot be read
(R250; log 41). -/
def State.listBytes (s : State) (list : Nat) : Nat :=
  match s.houseRead s.myHall list 1 with
  | .ok _ ws => 16 + 8 * min 64 (fld (ws.headD 0) 6 0)
  | _ => 16

/-- CPYM (R245 to R251): the source span and the list are checked at issue. -/
def execCpym (d a b : BitVec 5) (v : BitVec 1) (q : BitVec 3) (s : State) : Res :=
  if isPorch s.myCore then .next s.porchFault
  else
    let w := s.rg b
    if !lenOk w then .next (s.operand 2 b)
    else
      match s.copySpan (s.rg a) (fld w 23 0) rR, s.copySpan (s.rg d) 16 rR, s.copySpan (s.rg d) 16 rW with
      | .error f, _, _ => .next (s.raise f)
      | _, .error f, _ => .next (s.raise f)
      | _, _, .error f => .next (s.raise f)
      | .ok src, .ok list, .ok _ =>
        match s.copySpan (s.rg d) (s.listBytes list) rR, s.copySpan (s.rg d) (s.listBytes list) rW with
        | .error f, _ => .next (s.raise f)
        | _, .error f => .next (s.raise f)
        | .ok _, .ok _ =>
        if v = 1 ∧ oneStore src (fld w 23 0) = false then .next (s.operand 1 a)
        else .next (s.acceptCopy q.toNat { s.copyCmd (.cpym d a b v q) 2 w 1 src list (v == 1) false with list := s.rg d })

/-! The engine. -/

/-- Chunks of a command (R248). -/
def CopyCmd.chunks (c : CopyCmd) : Nat := (c.total + 4095) / 4096

/-- Whether a command names a landing word. -/
def CopyCmd.lands (c : CopyCmd) : Bool := fld c.lenWord 50 50 == 1

/-- Offset of the landing word. -/
def CopyCmd.loff (c : CopyCmd) : Nat := fld c.lenWord 49 32

/-- Places of the words at some addresses, through the engine's hall. -/
def State.places (s : State) (hall right : Nat) : List Nat → House (List Phys)
  | [] => .ok s []
  | h :: t =>
    match s.houseWord hall h right with
    | .ok s p =>
      match s.places hall right t with
      | .ok s ps => .ok s (p :: ps)
      | .wait s h why => .wait s h why
      | .bad s => .bad s
    | .wait s h why => .wait s h why
    | .bad s => .bad s

/-- Storage of a command's whole source (R248), as keys and lengths. -/
def State.sourceKeys (s : State) (hall : Nat) (c : CopyCmd) : List (Nat × Nat) :=
  let n := headBytes c.sv c.src
  let at' := fun (h len : Nat) =>
    match (s.reach (16 * hall + bits h 9 6) h rR).2 with
    | .ok p => [(p.key, len)]
    | .error _ => []
  (List.range (c.total / 8)).flatMap fun i =>
    at' (c.from (8 * i)) n ++
      if n = 8 then [] else at' (tailAt (c.src + 8 * i / c.len * fld c.stride 39 16 + 8 * i % c.len)) (8 - n)

/-- Whether a byte of memory lies in the source. -/
def inSource (source : List (Nat × Nat)) (k : Nat) : Bool := source.any fun e => decide (e.1 ≤ k) && decide (k < e.1 + e.2)

/-- The `n` bytes of `v` at a key, with those of `r` where they overlap the source. -/
def mixed (source : List (Nat × Nat)) (key n v r : Nat) : Nat :=
  (List.range n).foldl (fun acc i => acc + 256 ^ i * ((if inSource source (key + i) then r else v) / 256 ^ i % 256)) 0

/-- Writes `n` bytes at a place; those that overlap the command's source take free values (R248; log 9). -/
def State.copyPart (s : State) (source : List (Nat × Nat)) (p : Phys) (n v : Nat) : State :=
  if (List.range n).any fun i => inSource source (p.key + i) then
    let r := s.free
    r.2.put p n (mixed source p.key n v r.1.toNat)
  else s.put p n v

/-- Writes units, each whole or in two parts of which the first has `n` bytes. -/
def State.copyWords (s : State) (source : List (Nat × Nat)) (n : Nat) : List Phys → List Phys → List Nat → State
  | p :: ps, t :: ts, v :: vs => ((s.copyPart source p n (v % 256 ^ n)).copyPart source t (8 - n) (v / 256 ^ n)).copyWords source n ps ts vs
  | p :: ps, [], v :: vs => (s.copyPart source p 8 v).copyWords source n ps [] vs
  | _, _, _ => s

/-- Reads units, each whole or in two parts of which the first has `n` bytes. -/
def State.readUnits (s : State) (n : Nat) : List Phys → List Phys → List Nat
  | p :: ps, t :: ts => (s.get p n + 256 ^ n * s.get t (8 - n)) :: s.readUnits n ps ts
  | p :: ps, [] => s.get p 8 :: s.readUnits n ps []
  | [], _ => []

/-- Places of the units of the next chunk at the source, with those of their second parts. -/
def State.sourcePlaces (s : State) (hall : Nat) (c : CopyCmd) : House (List Phys × List Phys) :=
  match s.places hall rR (c.words.map c.from) with
  | .ok s ps =>
    match s.places hall rR c.fromTails with
    | .ok s ts => .ok s (ps, ts)
    | .wait s h why => .wait s h why
    | .bad s => .bad s
  | .wait s h why => .wait s h why
  | .bad s => .bad s

/-- The same at the destination of CPY and CPYS. -/
def State.targetPlaces (s : State) (hall : Nat) (c : CopyCmd) : House (List Phys × List Phys) :=
  match s.places hall rW (c.words.map c.to) with
  | .ok s ps =>
    match s.places hall rW c.toTails with
    | .ok s ts => .ok s (ps, ts)
    | .wait s h why => .wait s h why
    | .bad s => .bad s
  | .wait s h why => .wait s h why
  | .bad s => .bad s

/-- Leaves free values in the words at some addresses, where they can be reached (10 R251, 12 R279; log 9). -/
def State.scramble (s : State) (hall : Nat) : List Nat → State
  | [] => s
  | h :: t =>
    match s.houseWord hall h rW with
    | .ok s p =>
      let r := s.free
      (r.2.put p 8 r.1.toNat).scramble hall t
    | .wait s _ _ => s.scramble hall t
    | .bad s => s.scramble hall t

/-- Changes the command at the head of a queue. -/
def State.setHead (s : State) (room q : Nat) (c : CopyCmd) : State :=
  s.setRoom room fun r => { r with copyQ := tput [] r.copyQ q (c :: (tget [] r.copyQ q).tail) }

/-- The head of a queue waits for the attic (R249). -/
def State.parkCopy (s : State) (room q : Nat) (c : CopyCmd) (h : Nat) (acc : AccKind) (why : XReason) : State :=
  let n := s.nextId
  State.tell { (s.setHead room q { c with parked := some h, ask := n }) with nextId := n + 1 } (.translation c.gid c.ctx h acc why)

/-- The next chunk of a queue. -/
def State.nextChunk (s : State) (room q : Nat) : State :=
  if (tget [] (s.room room).copyQ q).isEmpty then s else s.post (.copyChunk room q)

/-- Whether a task still occupies the context it issued from. -/
def State.running (s : State) (ctx : Nat) (gid lrec : Word) : Bool :=
  let c := s.ctx ctx
  c.gid == gid && c.lrec == lrec && c.status != .vacant && c.status != .ended

/-- Whether a task has neither ended nor been killed: it stands in a context or in an image. -/
def State.alive (s : State) (gid lrec : Word) : Bool :=
  (s.ctxs.any fun e => s.running e.1 gid lrec) || s.images.any fun e => e.2.gid == gid && e.2.lrec == lrec

/-- A failure is recorded in a room, in its order among all failures (14 R321). -/
def State.recordFailure (s : State) (room : Nat) (f : Failure) : State :=
  let n := s.nextId
  State.setRoom { s with nextId := n + 1 } room fun r => { r with fails := r.fails ++ [{ f with num := n }] }

/-- The command at the head of a queue is complete. -/
def State.copyDone (s : State) (room q : Nat) (c : CopyCmd) : State :=
  let s := s.setRoom room fun r => { r with copyQ := tput [] r.copyQ q (tget [] r.copyQ q).tail }
  ((if s.running c.ctx c.gid c.lrec then s.kick c.ctx else s).nextChunk room q).forget c.lrec

/-- The command at the head of a queue has failed (R252): a trace record, and the failure for the issuer's next QFENCE, or a fault-area
record when the issuer has ended. -/
def State.copyFail (s : State) (room q : Nat) (c : CopyCmd) : State :=
  let hall := room / 24
  let src := sourceOf hall (8 * (room % 24)) 0 2
  let s := s.traceTo hall 0x04 src c.gid (c.pc.toNat + q * 2 ^ 64)
  let s :=
    if s.alive c.gid c.lrec then
      s.recordFailure room { gid := c.gid, lrec := c.lrec, queue := q, pc := c.pc, reason := 0, failed := c.failed }
    else
      s.lateRecord (s.launchKey c.gid c.lrec) hall
        { kind := 0x11, pc := c.pc, addr := c.pc, info0 := word q, info1 := c.failed, late := true, stamp := word s.now } c.gid src
  s.copyDone room q c

/-- One chunk of CPY or CPYS (R248, R249). -/
def State.plainChunk (s : State) (room q : Nat) (c : CopyCmd) : State :=
  let hall := room / 24
  let land := storeWord c.dst c.loff
  if c.bad then s.copyFail room q c
  else if c.lands && c.chunk == 0 && fld (s.loadW land) 63 56 != 0 then s.copyFail room q c
  else
    match s.sourcePlaces hall c with
    | .wait s h why => s.parkCopy room q c h .load why
    | .bad s => s.copyFail room q c
    | .ok s ps =>
      match s.targetPlaces hall c with
      | .wait s h why => s.parkCopy room q c h .store why
      | .bad s => s.copyFail room q c
      | .ok s qs =>
        let vs := s.readUnits (headBytes c.sv c.src) ps.1 ps.2
        let s := (s.copyWords (s.sourceKeys hall c) (headBytes c.dv c.dst) qs.1 qs.2 vs).useBanks c.touched
        let s := (s.carry (coreOf c.ctx) false (c.words.map c.from)).carry (coreOf c.ctx) true (c.words.map c.to)
        let go := fun (s : State) =>
          if c.chunk + 1 < c.chunks then (s.setHead room q { c with chunk := c.chunk + 1 }).nextChunk room q
          else s.copyDone room q c
        if c.lands then
          match s.landing land (8 * c.words.length) with
          | some s => go s
          | none => s.copyFail room q c
        else go s

/-- Destination `i` of a CPYM's list, resolved through the issuer's segments as they stood at issue and checked completely (R251). -/
def State.destAt (s : State) (hall : Nat) (c : CopyCmd) (i : Nat) (x : Word) : House Nat :=
  if c.refused.contains i then .bad s
  else
    match State.resolve { s with view := some { segs := c.segs } } x 0 c.len 8 rW .copy with
    | .error _ => .bad s
    | .ok h =>
      if (s.copyUnits h c.len).isSome then .bad s
      else
        match s.places hall rW (wordRun h (c.len / 8)) with
        | .wait s h why => .wait s h why
        | .bad s => .bad s
        | .ok s _ =>
          if c.lands && !(oneStore h 1 && fld (s.loadW (storeWord h c.loff)) 63 56 == 0) then .bad s else .ok s h

/-- The destinations from number `i` on, or the first whose page the engine waits for (R249). -/
def State.destsAt (s : State) (hall : Nat) (c : CopyCmd) (i : Nat) : List Word → State × Except (Nat × Nat × XReason) (List (Option Nat))
  | [] => (s, .ok [])
  | x :: t =>
    match s.destAt hall c i x with
    | .wait s h why => (s, .error (i, h, why))
    | .bad s =>
      let r := s.destsAt hall c (i + 1) t
      (r.1, r.2.map (none :: ·))
    | .ok s h =>
      let r := s.destsAt hall c (i + 1) t
      (r.1, r.2.map (some h :: ·))

/-- FAILED of a command whose destinations that stand are given (R250). -/
def failedBits : List (Option Nat) → Nat
  | [] => 0
  | d :: t => b2n d.isNone + 2 * failedBits t

/-- Reads the list of a CPYM that starts (R250, R251). -/
def State.readList (s : State) (room q : Nat) (c : CopyCmd) (go : State → CopyCmd → State) : State :=
  let hall := room / 24
  match s.houseRead hall c.dst 1 with
  | .wait s h why => s.parkCopy room q c h .load why
  | .bad s => s.copyFail room q c
  | .ok s ws =>
    let w := ws.headD 0
    let n := fld w 6 0
    if fld w 31 7 ≠ 0 ∨ fld w 63 33 ≠ 0 ∨ n = 0 ∨ 64 < n then
      go s { c with dests := List.replicate (min n 64) none, chunk := c.chunks }
    else
      -- the whole list passes the checks of R247 through the segments as they stood at issue (log 41)
      let t := { s with view := some { segs := c.segs } }
      let good : Bool := match t.resolve c.list 0 (16 + 8 * n) 8 rR .copy, t.resolve c.list 0 (16 + 8 * n) 8 rW .copy with
        | .ok _, .ok _ => true
        | _, _ => false
      if !good then go s { c with dests := List.replicate n none, chunk := c.chunks }
      else
      match s.houseRead hall (c.dst + 16) n with
      | .wait s h why => s.parkCopy room q c h .load why
      | .bad s => go s { c with dests := List.replicate n none, chunk := c.chunks }
      | .ok s xs =>
        match s.destsAt hall c 0 xs with
        | (s, .error (i, h, why)) => s.parkCopy room q { c with asking := some i } h .store why
        | (s, .ok ds) => go s { c with dests := ds }

/-- Writes the words of a chunk to each destination that stands, and drops those that fail (R251). -/
def State.spread (s : State) (hall : Nat) (c : CopyCmd) (source : List (Nat × Nat)) (vs : List Nat) : List (Option Nat) → State × List (Option Nat)
  | [] => (s, [])
  | none :: t =>
    let r := s.spread hall c source vs t
    (r.1, none :: r.2)
  | some h :: t =>
    match s.places hall rW (c.words.map (h + ·)) with
    | .ok s ps =>
      let s := ((s.copyWords source 8 ps [] vs).useBanks (c.words.map (h + ·))).carry (coreOf c.ctx) true (c.words.map (h + ·))
      if c.lands && decide (c.chunks ≤ c.chunk + 1) then
        match s.landing (storeWord h c.loff) c.len with
        | some s =>
          let r := s.spread hall c source vs t
          (r.1, some h :: r.2)
        | none =>
          let r := s.spread hall c source vs t
          (r.1, none :: r.2)
      else
        let r := s.spread hall c source vs t
        (r.1, some h :: r.2)
    | .wait s _ _ =>
      let r := (s.scramble hall (wordRun h (c.len / 8))).spread hall c source vs t
      (r.1, none :: r.2)
    | .bad s =>
      let r := (s.scramble hall (wordRun h (c.len / 8))).spread hall c source vs t
      (r.1, none :: r.2)

/-- Drops the destinations from number `i` on whose page has been refused since they passed their checks (R251). -/
def State.dropRefused (s : State) (hall : Nat) (c : CopyCmd) (i : Nat) : List (Option Nat) → State × List (Option Nat)
  | [] => (s, [])
  | d :: t =>
    let r := s.dropRefused hall c (i + 1) t
    match d with
    | none => (r.1, none :: r.2)
    | some h => if c.refused.contains i then (r.1.scramble hall (wordRun h (c.len / 8)), none :: r.2) else (r.1, some h :: r.2)

/-- The first destination from number `i` on whose part of a chunk waits for a page (R249). -/
def State.firstWait (s : State) (hall : Nat) (c : CopyCmd) (i : Nat) : List (Option Nat) → Option (Nat × Nat × XReason)
  | [] => none
  | none :: t => s.firstWait hall c (i + 1) t
  | some h :: t =>
    match s.places hall rW (c.words.map (h + ·)) with
    | .wait _ x why => some (i, x, why)
    | _ => s.firstWait hall c (i + 1) t

/-- Writes the status of a CPYM's list and completes the command (R250, R252). -/
def State.listStatus (s : State) (room q : Nat) (c : CopyCmd) : State :=
  let c := { c with failed := word (failedBits c.dests) }
  let hall := room / 24
  match s.houseRead hall c.dst 1 with
  | .wait s h why => s.parkCopy room q c h .load why
  | .bad s => s.copyFail room q c
  | .ok s ws =>
    match s.houseWrite hall c.dst [setFld (ws.headD 0) 32 32 1, c.failed] with
    | .wait s h why => s.parkCopy room q c h .store why
    | .bad s => s.copyFail room q c
    | .ok s _ => if c.failed = 0 then s.copyDone room q c else s.copyFail room q c

/-- One chunk of a CPYM whose list has been read; after the last, its status (R251). A source that cannot be read any more leaves the destinations that have been
written to undefined. -/
def State.spreadChunk (s : State) (room q : Nat) (c : CopyCmd) : State :=
  let hall := room / 24
  let all := { c with dests := c.dests.map fun _ => none, chunk := c.chunks, bad := false }
  let lose := fun (s : State) =>
    if c.chunk = 0 then s else (c.dests.filterMap id).foldl (fun s h => s.scramble hall (wordRun h (c.len / 8))) s
  if c.chunks ≤ c.chunk then (if c.bad then s.copyFail room q c else s.listStatus room q c)
  else if c.bad then (lose s).listStatus room q all
  else
    match s.sourcePlaces hall c with
    | .wait s h why => s.parkCopy room q c h .load why
    | .bad s => (lose s).listStatus room q all
    | .ok s ps =>
      let r := s.dropRefused hall c 0 c.dests
      let c := { c with dests := r.2 }
      match r.1.firstWait hall c 0 c.dests with
      | some (i, h, why) => r.1.parkCopy room q { c with asking := some i } h .store why
      | none =>
        let vs := s.readUnits (headBytes c.sv c.src) ps.1 ps.2
        let r := ((r.1.useBanks (c.words.map c.from ++ c.fromTails)).carry (coreOf c.ctx) false (c.words.map c.from)).spread hall c (r.1.sourceKeys hall c) vs c.dests
        let c := { c with dests := r.2, chunk := c.chunk + 1 }
        if c.chunks ≤ c.chunk then r.1.listStatus room q c else (r.1.setHead room q c).nextChunk room q

/-- COPY_CHUNK (R248 to R253): the engine of a room performs the next chunk of a queue. One that loses a bank is tried again in the next cycle (05 R115). -/
def execCopyChunk (room queue : Nat) (s : State) : Res :=
  match tget [] (s.room room).copyQ queue with
  | [] => .next s
  | c :: _ =>
    if (s.room room).stopped || s.attic.holding || c.parked.isSome || (c.chunk == 0 && s.pendingPc c.ctx c.pc) then .next s
    else if s.bankTaken 2 c.touched then .next (s.defer (.copyChunk room queue))
    else if c.form = 2 then
      if c.dests.isEmpty && c.chunk == 0 then
        if c.bad then .next (s.copyFail room queue c)
        else .next (s.readList room queue c fun s c => s.spreadChunk room queue c)
      else .next (s.spreadChunk room queue c)
    else .next (s.plainChunk room queue c)

end Sys2Proof.Machine
end

