-- ==== Sys2Proof/Machine/Delta.lean ====
section
/-! DEFINITION. The Delta: snapshot trees (19 R357 to R376). An operation runs over a copy of the state and gives its result with the
state of its commit, or the reason why it does not commit (R364). -/

namespace Sys2Proof.Machine

/-- Why an operation does not commit: a translation fault, a Delta fault with its handle (R372), a fault of the issuer's data, or no
room in the tree (R370). -/
inductive DErr where
  | park (h : Nat) (why : XReason)
  | delta (reason : Nat) (handle : Nat)
  | data (f : FaultRec)
  | full
  deriving DecidableEq, Repr

/-- A step of a station. -/
abbrev D (α : Type) := StateT State (Except DErr) α

/-- p = 2^61 − 1 (R360). -/
def hashP : Nat := 2 ^ 61 - 1

/-- One hash step (R360). -/
def hashStep (base h x : Nat) : Nat := (h * base + x + 1) % hashP

/-- DHASH (R368). -/
def execDhash (d a b : BitVec 5) (s : State) : Res :=
  if fld (s.rg a) 63 32 ≠ 0 then .next (s.operand 1 a)
  else if hashP ≤ (s.rg b).toNat ∨ hashP ≤ (s.rg d).toNat then .next (s.operand 2 b)
  else .next (s.wr d (word (hashStep (s.rg b).toNat (s.rg d).toNat (s.rg a).toNat)))

/-! Places. -/

/-- What a page must be (R357, R359): the descriptor's, a record's or an HBM slot's, a cellar slot's, or the issuer's data. -/
inductive DKind where
  | desc
  | node
  | hbm
  | cellar
  | data
  deriving DecidableEq, Repr

/-- Whether a place is of the kind its use requires. -/
def Tree.allows (t : Tree) : DKind → Phys → Bool
  | .desc, .hbm n _ => n == t.station
  | .node, .hbm n _ => bitOf t.home n
  | .hbm, .hbm n _ => bitOf t.home n
  | .cellar, .cellar _ _ => true
  | .data, _ => true
  | _, _ => false

/-- The port of a station: the porch port of its stack that serves the address (09 R221, R223; log 22). -/
def Tree.port (t : Tree) (h : Nat) : Nat := 512 + 4 * t.station + bits h 13 12

/-- Translates one address for the station. -/
def dReach (t : Tree) (k : DKind) (h right : Nat) : D Phys := fun s =>
  match s.reach (t.port h) h right with
  | (_, .error why) => .error (.park h why)
  | (s, .ok p) =>
    if !t.allows k p then .error (.delta 4 0)
    else if s.physOffline p then .error (.data (s.flt 6 3 h))
    else if s.badWord h then .error (.data (s.flt 0x0D 3 h))
    else .ok (p, s)

/-- Translates one address for a read or a write; a record's or descriptor's page needs R and W for either (R359). -/
def dPlace (t : Tree) (k : DKind) (h right : Nat) : D Phys := do
  if k = .desc ∨ k = .node then
    let _ ← dReach t k h rR
    dReach t k h rW
  else dReach t k h right

/-- Whether bytes lie in the part of a tree that a station touches: the descriptor, the records below NCAP, the slots below PCAP and CCAP
(R358). -/
def Tree.holds (t : Tree) (k : DKind) (h n : Nat) : Bool :=
  match k with
  | .node => decide (t.npool ≤ h ∧ h + n ≤ t.npool + 128 * t.ncap)
  | .hbm => decide (t.ppool ≤ h ∧ h + n ≤ t.ppool + t.psize * t.pcap)
  | .cellar => decide (t.cpool ≤ h ∧ h + n ≤ t.cpool + t.psize * t.ccap)
  | .desc | .data => true

/-- An undefined value of `n` bytes (00 R1). -/
def dFree (n : Nat) : D Nat := fun s => .ok (s.free.1.toNat % 2 ^ (8 * n), s.free.2)

/-- Reads `n` bytes. What stands in a tree that is not as a station left it is undefined (R358). -/
def dRead (t : Tree) (k : DKind) (h n : Nat) : D Nat := do
  if !t.holds k h n then dFree n
  else
    let p ← dPlace t k h rR
    if t.sound ∨ k = .data then return (← get).get p n else dFree n

/-- What a tree gives, as a handle, a depth, an address or a counter: undefined where the tree is not as a station left it (R358). -/
def dGive (t : Tree) (v : Nat) : D Nat := if t.sound then return v else dFree 8

/-- Writes `n` bytes, undefined ones in a tree that is not as a station left it (R358). -/
def dWrite (t : Tree) (k : DKind) (h n v : Nat) : D Unit := do
  if t.holds k h n then
    let p ← dPlace t k h rW
    let x ← if t.sound then pure v else dFree n
    modify fun s => s.store p.key n x

/-- Reads a field of a 64-bit word. -/
def dField (t : Tree) (k : DKind) (h hi lo : Nat) : D Nat := return bits (← dRead t k h 8) hi lo

/-- Changes a field of a 64-bit word. -/
def dSet (t : Tree) (k : DKind) (h hi lo : Nat) (f : Nat → Nat) : D Unit := do
  let w := word (← dRead t k h 8)
  dWrite t k h 8 (setFld w hi lo (f (fld w hi lo))).toNat

/-! Descriptors (R357, R358). -/

/-- The software fields in the first ten words of a descriptor. -/
def treeOf (w : Nat → Nat) : Tree :=
  { demote := bitOf (w 0) 55, g := 2 ^ bits (w 0) 51 48, station := bits (w 0) 39 32, home := bits (w 0) 23 0, base := w 1, seed := w 2,
    npool := bits (w 3) 57 0, ncap := bits (w 4) 23 0, low := bits (w 4) 47 24, ppool := bits (w 5) 57 0, pcap := bits (w 6) 23 0,
    psize := bits (w 7) 31 0, cpool := bits (w 8) 57 0,
    ccap := bits (w 9) 23 0 }

/-- Whether the software fields and reserved fields of a descriptor are as R357 requires (R358 step 1). -/
def treeOk (w : Nat → Nat) : Bool :=
  let t := treeOf w
  bits (w 0) 63 56 == 1 && bits (w 0) 54 52 == 0 && decide (2 ≤ bits (w 0) 51 48) && decide (bits (w 0) 51 48 ≤ 10) &&
    bits (w 0) 47 40 == 0 && decide (t.station < 24) && bits (w 0) 31 24 == 0 && bitOf t.home t.station &&
    t.base % 2 == 1 && decide (3 ≤ t.base) && decide (t.base < hashP) && decide (t.seed < hashP) &&
    decide (w 3 < 2 ^ 58) && t.npool % 128 == 0 && decide (2 ≤ t.ncap) && bits (w 4) 63 48 == 0 &&
    decide (w 5 < 2 ^ 58) && t.ppool % 64 == 0 && decide (1 ≤ t.pcap) && bits (w 6) 63 24 == 0 &&
    t.psize % 64 == 0 && decide (4 * t.g + 64 ≤ t.psize) && decide (w 7 ≤ 2 ^ 31) &&
    decide (w 8 < 2 ^ 58) && t.cpool % 64 == 0 && bits (w 9) 63 24 == 0 &&
    (if t.demote then t.ccap != 0 else t.cpool == 0 && t.ccap == 0) &&
    (List.range 6).all (fun i => w (10 + i) == 0) && bits (w 16) 62 48 == 0 && (List.range 4).all fun i => w (28 + i) == 0

/-- House address of record `i`. -/
def Tree.node (t : Tree) (i : Nat) : Nat := t.npool + 128 * i

/-- Formats a tree (R358). -/
def formatTree (d : Nat) (t : Tree) : D Unit := do
  let n := t.node 0
  for i in List.range 16 do dWrite t .node (n + 8 * i) 8 0
  dWrite t .node n 8 t.seed
  dWrite t .node (n + 0x20) 8 (2 ^ 48 + 2 ^ 55)
  for i in List.range 12 do dWrite t .desc (d + 0x80 + 8 * i) 8 0
  dWrite t .desc (d + 0x98) 8 (1 + (t.ncap - 1) * 2 ^ 24)
  dWrite t .desc (d + 0xD8) 8 (t.pcap + t.ccap * 2 ^ 24)
  dWrite t .desc (d + 0x80) 8 (2 ^ 63 + 2 ^ 24)

/-- Memory that `n` bytes at `a` take up, as keys and lengths, by units of 4 KiB; what is not mapped is left out. -/
def State.pieces (s : State) (t : Tree) (a n : Nat) : List (Nat × Nat) :=
  (List.range ((n + a % 4096 + 4095) / 4096)).filterMap fun j =>
    let lo := max a (a / 4096 * 4096 + 4096 * j)
    match (s.reach (t.port lo) lo rR).2 with
    | .ok p => some (p.key, min (a + n) (a / 4096 * 4096 + 4096 * (j + 1)) - lo)
    | .error _ => none

/-- Field of a word of a record as it stands in memory, 0 where it is not mapped. -/
def State.peek (s : State) (t : Tree) (h hi lo : Nat) : Nat :=
  match (s.reach (t.port h) h rR).2 with
  | .ok p => bits (s.load p.key 8) hi lo
  | .error _ => 0

/-- The slots of a tree that is taken over: those of its live nodes, or all of the tree where it is undefined (R358, R363). -/
def State.taken (s : State) (d : Nat) (t : Tree) : Tree :=
  if t.sound then
    { t with
      slots := (List.range (min t.ncap (s.peek t (d + 0x80) 47 24))).filterMap fun i =>
        if s.peek t (t.node i + 0x20) 55 55 = 1 ∧ i ≠ 0 then some (i, s.pieces t (s.peek t (t.node i + 0x40) 57 0) t.psize) else none }
  else
    { t with
      spoilt := [t.ncap]
      slots := [(t.ncap, s.pieces t (d + 0x80) 0x60 ++ s.pieces t t.npool (128 * t.ncap) ++ s.pieces t t.ppool (t.psize * t.pcap) ++
        s.pieces t t.cpool (t.psize * t.ccap))] }

/-- Finds a tree's software fields: as kept, as they stand in memory, or by formatting it (R358): an undefined tree is undefined anew at each
operation, but for an INIT that software has set to 0. A tree that is taken over with INIT 1 may or
may not stand as a station left it (log 51). -/
def openTree (d : Nat) : D Tree := do
  let s ← get
  -- the descriptor's place is checked before any field is acted on (R357)
  let probe := match s.walk d with
    | .ok (leaf, n) => (s.place leaf n d).toOption
    | .error _ => none
  let found := match probe with
    | some (.hbm n _) => n
    | _ => 0
  let any : Tree := { (treeOf fun _ => 0) with station := found, home := 2 ^ found }
  let w0 ← dRead any .desc d 8
  let st ← dField any .desc (d + 0x80) 63 63
  let kept := if st = 1 then tfind s.trees d else none
  let station := match kept with
    | some t => t.station
    | none => bits w0 39 32
  if station ≠ found then throw (.delta 4 0)
  match kept with
  | some t =>
    if t.sound then return t
    else
      let t := State.taken (← get) d t
      modify fun s => { s with trees := tset s.trees d t }
      return t
  | none =>
    let mut ws : List Nat := []
    for i in List.range 32 do ws := ws ++ [← dRead any .desc (d + 8 * i) 8]
    let w := fun i => ws.getD i 0
    if st = 1 then
      let t := State.taken (← get) d { treeOf w with sound := treeOk w && Config.treeAsLeft d (← get).fresh }
      let _ ← dFree 0
      modify fun s => { s with trees := tset s.trees d t }
      return t
    else if !treeOk w then throw (.delta 3 0)
    else
      let t := treeOf w
      formatTree d t
      modify fun s => { s with trees := tset s.trees d t }
      return t

/-! Records and handles (R361, R362). -/

/-- GEN of a record. -/
def nodeGen (t : Tree) (i : Nat) : D Nat := dField t .node (t.node i + 0x20) 54 48

/-- Handle of a record. -/
def handleOf (t : Tree) (i : Nat) : D Nat := do dGive t (t.node i + (← nodeGen t i))

/-- Index of the record a handle names, if it lies in the pool. -/
def Tree.index (t : Tree) (h : Nat) : Option Nat :=
  let a := h / 128 * 128
  if h = 0 ∨ a < t.npool ∨ t.npool + 128 * t.ncap ≤ a ∨ (a - t.npool) % 128 ≠ 0 then none else some ((a - t.npool) / 128)

/-- The record of a live handle (R362), or the stale fault. -/
def liveNode (t : Tree) (h : Nat) : D Nat := do
  match t.index h with
  | none => throw (.delta 1 h)
  | some i =>
    let w := word (← dRead t .node (t.node i + 0x20) 8)
    if fld w 55 55 = 1 ∧ fld w 54 48 = h % 128 then return i else throw (.delta 1 h)

/-- Changes counter CTR`i` of a tree by one (R357). -/
def count (d : Nat) (t : Tree) (i n : Nat) : D Unit := do
  let v ← dRead t .desc (d + 0xA0 + 8 * i) 8
  dWrite t .desc (d + 0xA0 + 8 * i) 8 ((v + n) % 2 ^ 64)

/-- Adds a pin and a stamp, or the pins-exhausted fault (R369, R370). -/
def pinNode (t : Tree) (i h : Nat) : D Unit := do
  let r ← dField t .node (t.node i + 0x20) 31 0
  if r = 0xFFFF_FFFF then throw (.delta 5 h)
  dSet t .node (t.node i + 0x20) 31 0 (· + 1)
  dWrite t .node (t.node i + 0x28) 8 (← get).now

/-- Whether an address is that of a payload slot of a tier: the station touches no other (R358). -/
def Tree.slotOk (t : Tree) (cell : Bool) (a : Nat) : Bool :=
  let base := if cell then t.cpool else t.ppool
  let cap := if cell then t.ccap else t.pcap
  t.psize != 0 && decide (base ≤ a) && (a - base) % t.psize == 0 && decide ((a - base) / t.psize < cap)

/-- Kind of page of a slot. -/
def slotKind (cell : Bool) : DKind := if cell then .cellar else .hbm

/-- Symbols of `n` input words from a house address. -/
def readSyms (t : Tree) (k : DKind) (a : Nat) : Nat → D (List Nat)
  | 0 => return []
  | n + 1 => do
    let x ← dRead t k a 4
    return x :: (← readSyms t k (a + 4) n)

/-- Whether a node's stored symbols equal `xs` (R369); undefined once software has written into the slot (R363). -/
def sameSyms (t : Tree) (i : Nat) (xs : List Nat) : D Bool := do
  let a ← dField t .node (t.node i + 0x40) 57 0
  let cell := (← dField t .node (t.node i + 0x38) 32 32) == 1
  if !t.slotOk cell a then return false
  let ys ← readSyms t (slotKind cell) a xs.length
  if t.spoilt.contains i then return (← dFree 1) % 2 == 1 else return ys == xs

/-- Notes the slot at `a` as that of a live node; `clean` when the station has filled it anew (R363). -/
def keepSlot (d : Nat) (t : Tree) (i a : Nat) (clean : Bool) : D Unit := modify fun s =>
  let kept := (tfind s.trees d).getD t
  { s with
    trees := tset s.trees d { kept with
      slots := tset kept.slots i (s.pieces t a t.psize)
      spoilt := if clean then kept.spoilt.filter (· != i) else kept.spoilt } }

/-- Forgets the slot of a node that has been removed. -/
def dropSlot (d : Nat) (t : Tree) (i : Nat) : D Unit := modify fun s =>
  let kept := (tfind s.trees d).getD t
  { s with trees := tset s.trees d { kept with slots := tdel kept.slots i, spoilt := kept.spoilt.filter (· != i) } }

/-- The child of a list with the key and symbols sought, and the collisions met on the way (R369, R370). -/
def findChild (t : Tree) (key : Nat) (xs : List Nat) : Nat → Nat → Nat → D (Option Nat × Nat)
  | 0, _, c => return (none, c)
  | f + 1, link, c => do
    match t.index link with
    | none => return (none, c)
    | some i =>
      if (← dField t .node (t.node i) 60 0) = key then
        if ← sameSyms t i xs then return (some i, c)
        findChild t key xs f (← dRead t .node (t.node i + 0x18) 8) (c + 1)
      else findChild t key xs f (← dRead t .node (t.node i + 0x18) 8) c

/-- Key after symbols (R360). -/
def keyOver (t : Tree) (h : Nat) (xs : List Nat) : Nat := xs.foldl (hashStep t.base) h

/-- Depth of a node. -/
def nodeDepth (t : Tree) (i : Nat) : D Nat := dField t .node (t.node i + 0x20) 47 32

/-- The walk of a lookup over whole blocks: the deepest node and the collisions (R369). -/
def walkTree (t : Tree) (input : Nat) : Nat → Nat → Nat → Nat → D (Nat × Nat)
  | 0, n, _, c => return (n, c)
  | f + 1, n, h, c => do
    if 65535 ≤ (← nodeDepth t n) then return (n, c)
    let xs ← readSyms t .data input t.g
    let h2 := keyOver t h xs
    let (r, c) ← findChild t h2 xs t.ncap (← dRead t .node (t.node n + 0x10) 8) c
    match r with
    | none => return (n, c)
    | some x => walkTree t (input + 4 * t.g) f x h2 c

/-- The lookup of R369 at the station: handle, symbols consumed and payload address, or zeros. -/
def lookTree (d input count' minimum : Nat) : D (Nat × Nat × Nat) := do
  let t ← openTree d
  let (n, c) ← walkTree t input (count' / t.g) 0 t.seed 0
  count d t 2 c
  count d t 0 1
  let depth ← nodeDepth t n
  if depth = 0 ∨ depth < minimum then return (← dGive t 0, ← dGive t 0, ← dGive t 0)
  let h ← handleOf t n
  pinNode t n h
  count d t 1 1
  return (h, ← dGive t (depth * t.g), ← dRead t .node (t.node n + 0x30) 8)

/-! Eviction, demotion and allocation (R373, R374). -/

/-- The victim among eligible nodes of indices below `n`, of a tier when one is asked for, but not `spare` (R373). -/
def victim (t : Tree) (tier : Option Bool) (spare : Nat) : Nat → D (Option (Nat × Nat))
  | 0 => return none
  | i + 1 => do
    let best ← victim t tier spare i
    let w := word (← dRead t .node (t.node i + 0x20) 8)
    let cell := (← dField t .node (t.node i + 0x38) 32 32) == 1
    let fits := match tier with
      | some x => x == cell
      | none => true
    if fld w 55 55 = 1 ∧ fld w 47 32 ≠ 0 ∧ fld w 31 0 = 0 ∧ i ≠ spare ∧ fits = true then
      if (← dRead t .node (t.node i + 0x10) 8) ≠ 0 then return best
      let stamp ← dRead t .node (t.node i + 0x28) 8
      match best with
      | some (_, old) => return (if stamp < old then some (i, stamp) else best)
      | none => return some (i, stamp)
    else return best

/-- Records that have ever been used. -/
def usedRecords (d : Nat) (t : Tree) : D Nat := return min t.ncap (← dField t .desc (d + 0x80) 47 24)

/-- Frees a slot to the pool of its tier (R363). -/
def freeSlot (d : Nat) (t : Tree) (cell : Bool) (a : Nat) : D Unit := do
  if !t.slotOk cell a then return ()
  let st := d + (if cell then 0x90 else 0x88)
  let i := (a - (if cell then t.cpool else t.ppool)) / t.psize
  dWrite t (slotKind cell) a 4 (← dField t .desc st 23 0)
  dSet t .desc st 23 0 fun _ => i + 1
  if cell then dSet t .desc (d + 0xD8) 47 24 (· + 1) else dSet t .desc (d + 0xD8) 23 0 (· + 1)

/-- A free slot of a tier, from the free list first, then from NEXT; none when the pool is used up (R374). -/
def takeSlot (d : Nat) (t : Tree) (cell : Bool) : D (Option Nat) := do
  let st := d + (if cell then 0x90 else 0x88)
  let base := if cell then t.cpool else t.ppool
  let cap := if cell then t.ccap else t.pcap
  let free ← dField t .desc st 23 0
  let next ← dField t .desc st 47 24
  let took := do
    if cell then dSet t .desc (d + 0xD8) 47 24 (· - 1) else dSet t .desc (d + 0xD8) 23 0 (· - 1)
  if free ≠ 0 ∧ free ≤ cap then
    let a := base + t.psize * (free - 1)
    let n ← dRead t (slotKind cell) a 4
    dSet t .desc st 23 0 fun _ => n
    took
    return some a
  else if next < cap then
    dSet t .desc st 47 24 (· + 1)
    took
    return some (base + t.psize * next)
  else return none

/-- Takes a child out of a sibling list: the link at `at'` that names it is replaced by its own link. -/
def unlink (t : Tree) (me next : Nat) : Nat → Nat → D Unit
  | 0, _ => return ()
  | f + 1, at' => do
    match t.index (← dRead t .node at' 8) with
    | none => return ()
    | some i => if i = me then dWrite t .node at' 8 next else unlink t me next f (t.node i + 0x18)

/-- Removes a node (R373). -/
def removeNode (d : Nat) (t : Tree) (i : Nat) : D Unit := do
  let a := t.node i
  match t.index (← dRead t .node (a + 8) 8) with
  | some p => unlink t i (← dRead t .node (a + 0x18) 8) t.ncap (t.node p + 0x10)
  | none => unlink t i (← dRead t .node (a + 0x18) 8) t.ncap (t.node 0 + 0x10)
  freeSlot d t ((← dField t .node (a + 0x38) 32 32) == 1) (← dField t .node (a + 0x40) 57 0)
  dropSlot d t i
  dSet t .node (a + 0x20) 55 55 fun _ => 0
  dSet t .node (a + 0x20) 54 48 fun g => if g = 127 then 1 else g + 1
  dWrite t .node (a + 0x48) 8 (← dField t .desc (d + 0x80) 23 0)
  dSet t .desc (d + 0x80) 23 0 fun _ => i
  dSet t .desc (d + 0x98) 23 0 (· - 1)
  dSet t .desc (d + 0x98) 47 24 (· + 1)
  count d t 5 1

/-- Copies `n` bytes between places, by 4-byte words and then bytes. -/
def dCopy (t : Tree) (ks kd : DKind) : Nat → Nat → Nat → D Unit
  | 0, _, _ => return ()
  | n + 1, src, dst => do
    dWrite t kd dst 1 (← dRead t ks src 1)
    dCopy t ks kd n (src + 1) (dst + 1)

/-- Demotes a node to a cellar slot, one of the free ones or that of the victim of tier 1 (R373, R374); false where there is none. -/
def demoteNode (d : Nat) (t : Tree) (i spare : Nat) : D Bool := do
  let slot ← match ← takeSlot d t true with
    | some a => pure (some a)
    | none =>
      match ← victim t (some true) spare (← usedRecords d t) with
      | some (j, _) => removeNode d t j; takeSlot d t true
      | none => pure none
  match slot with
  | none => return false
  | some a =>
    let r := t.node i
    let old ← dField t .node (r + 0x40) 57 0
    if t.slotOk false old then dCopy t .hbm .cellar t.psize old a
    freeSlot d t false old
    dSet t .node (r + 0x38) 32 32 fun _ => 1
    dWrite t .node (r + 0x30) 8 (a + 4 * t.g)
    dWrite t .node (r + 0x40) 8 a
    keepSlot d t i a false
    count d t 6 1
    return true

/-- A record from the free list or from NEXT (R374, R362). -/
def takeRecord (d : Nat) (t : Tree) : D (Option Nat) := do
  let free ← dField t .desc (d + 0x80) 23 0
  let next ← dField t .desc (d + 0x80) 47 24
  if free ≠ 0 ∧ free < t.ncap then
    dSet t .desc (d + 0x80) 23 0 fun _ => 0
    let n ← dField t .node (t.node free + 0x48) 23 0
    dSet t .desc (d + 0x80) 23 0 fun _ => n
    return some free
  else if next < t.ncap then
    dSet t .desc (d + 0x80) 47 24 (· + 1)
    dWrite t .node (t.node next + 0x20) 8 (2 ^ 48)
    return some next
  else return none

/-- Whether a record is left, in the free list or beyond NEXT (R374). -/
def hasRecord (d : Nat) (t : Tree) : D Bool := do
  let free ← dField t .desc (d + 0x80) 23 0
  return (free ≠ 0 && decide (free < t.ncap)) || decide ((← dField t .desc (d + 0x80) 47 24) < t.ncap)

/-- Whether an HBM slot is left, in the free list or beyond NEXT (R374). -/
def hasSlot (d : Nat) (t : Tree) : D Bool := do
  let free ← dField t .desc (d + 0x88) 23 0
  return (free ≠ 0 && decide (free ≤ t.pcap)) || decide ((← dField t .desc (d + 0x88) 47 24) < t.pcap)

/-- Removes the victim of a tier, when one is asked for; the tree is full where there is none (R374). -/
def removeVictim (d : Nat) (t : Tree) (tier : Option Bool) (p : Nat) : D Unit := do
  match ← victim t tier p (← usedRecords d t) with
  | none => throw .full
  | some (j, _) => removeNode d t j

/-- A record and an HBM slot for a DPUT under parent `p` (R370, R374): what is lacking is made free first, and both are then taken, so that
a record freed for its slot is used again (log 32). -/
def needBoth (d : Nat) (t : Tree) (p : Nat) : D (Nat × Nat) := do
  if !(← hasRecord d t) then removeVictim d t (if t.demote then some true else none) p
  if !(← hasSlot d t) then
    if t.demote then
      match ← victim t (some false) p (← usedRecords d t) with
      | none => throw .full
      | some (j, _) => if !(← demoteNode d t j p) then throw .full
    else removeVictim d t none p
  match ← takeRecord d t, ← takeSlot d t false with
  | some i, some a => return (i, a)
  | _, _ => throw .full

/-! The operations at the station. -/

/-- Adds a child with its symbols and payload under a parent (R370). -/
def addChild (d : Nat) (t : Tree) (p key syms len data : Nat) : D Nat := do
  let (i, slot) ← needBoth d t p
  dCopy t .data .hbm (4 * t.g) syms slot
  dCopy t .data .hbm len data (slot + 4 * t.g)
  let a := t.node i
  let gen ← nodeGen t i
  let depth ← nodeDepth t p
  let first ← dRead t .node (t.node p + 0x10) 8
  dWrite t .node a 8 key
  let parent ← if p = 0 then pure 0 else handleOf t p
  dWrite t .node (a + 8) 8 parent
  dWrite t .node (a + 0x10) 8 0
  dWrite t .node (a + 0x18) 8 first
  dWrite t .node (a + 0x20) 8 (1 + (depth + 1) * 2 ^ 32 + gen * 2 ^ 48 + 2 ^ 55)
  dWrite t .node (a + 0x28) 8 (← get).now
  dWrite t .node (a + 0x30) 8 (slot + 4 * t.g)
  dWrite t .node (a + 0x38) 8 len
  dWrite t .node (a + 0x40) 8 slot
  for j in List.range 7 do dWrite t .node (a + 0x48 + 8 * j) 8 0
  keepSlot d t i slot true
  dSet t .desc (d + 0x98) 23 0 (· + 1)
  dSet t .desc (d + 0x98) 47 24 (· - 1)
  let h ← handleOf t i
  dWrite t .node (t.node p + 0x10) 8 h
  count d t 3 1
  return h

/-- The address register value of a put block's field, checked under R214 (R370). -/
def dSpan (a : Word) (n : Nat) : D Nat := fun s =>
  match s.resolve a 0 n 4 rR .span 4 with
  | .error f => .error (.data f)
  | .ok h =>
    match s.spanFault h n .span with
    | some (x, r) => .error (.data (s.flt 6 r x))
    | none => .ok (h, s)

/-- DPUT at the station (R370): the handle and the status. -/
def putTree (d block : Nat) : D (Nat × Nat) := do
  let t ← openTree d
  let parent ← dRead t .data block 8
  let sa ← dRead t .data (block + 8) 8
  let pa ← dRead t .data (block + 0x10) 8
  let lw ← dRead t .data (block + 0x18) 8
  let len := bits lw 31 0
  let syms ← dSpan (word sa) (4 * t.g)
  let data ← dSpan (word pa) len
  if bits lw 63 32 ≠ 0 ∨ t.psize - 4 * t.g < len then throw (.delta 7 parent)
  let p ← if parent = 0 then pure 0 else liveNode t parent
  if (← nodeDepth t p) = 65535 then throw (.delta 6 parent)
  let xs ← readSyms t .data syms t.g
  let key := keyOver t (← dField t .node (t.node p) 60 0) xs
  let (r, c) ← findChild t key xs t.ncap (← dRead t .node (t.node p + 0x10) 8) 0
  count d t 2 c
  match r with
  | some x =>
    let h ← handleOf t x
    pinNode t x h
    count d t 4 1
    return (h, 1)
  | none =>
    let s ← get
    match addChild d t p key syms len data s with
    | .ok (h, s) => set s; return (h, 0)
    | .error .full => return (← dGive t 0, 2)
    | .error e => throw e

/-- DREL at the station (R371). -/
def relTree (d h : Nat) : D Unit := do
  let t ← openTree d
  let i ← liveNode t h
  if (← dField t .node (t.node i + 0x20) 31 0) = 0 then throw (.delta 2 h)
  dSet t .node (t.node i + 0x20) 31 0 (· - 1)

/-- DTOUCH at the station (R371). -/
def touchTree (d h : Nat) : D Unit := do
  let t ← openTree d
  let i ← liveNode t h
  dWrite t .node (t.node i + 0x28) 8 (← get).now

/-- DSTAT at the station (R371). -/
def statTree (d b : Nat) : D Nat := do
  let t ← openTree d
  let v ←
    if b < 7 then dRead t .desc (d + 0xA0 + 8 * b) 8
    else if b = 7 then dField t .desc (d + 0x98) 23 0
    else if b = 8 then dField t .desc (d + 0x98) 47 24
    else if b = 9 then dField t .desc (d + 0xD8) 23 0
    else dField t .desc (d + 0xD8) 47 24
  dGive t v

/-- The pin of a further task of a resumed launch; false where the node cannot take one, and the address where a translation fault holds it
(R376). -/
def State.addPin (s : State) (d h : Nat) : Except (Nat × XReason) (State × Bool) :=
  let go : D Unit := do
    let t ← openTree d
    let i ← liveNode t h
    pinNode t i h
  match go s with
  | .ok (_, s) => .ok (s, true)
  | .error (.park h why) => .error (h, why)
  | .error _ => .ok (s, false)

/-- One keeper step (R375). -/
def keepTree (d : Nat) : D Unit := do
  match tfind (← get).trees d with
  | none => return ()
  | some t =>
    if t.low ≤ (← dField t .desc (d + 0x98) 47 24) then return ()
    let n ← usedRecords d t
    match ← victim t (if t.demote then some true else none) t.ncap n with
    | some (j, _) => removeNode d t j
    | none =>
      if t.demote then
        match ← victim t (some false) t.ncap n with
        | some (j, _) => let _ ← demoteNode d t j t.ncap
        | none => return ()

/-! The instructions. -/

/-- A Delta operation (R364, R367): its descriptor checked at issue, the fence of its scope, then its one step at the station. -/
def deltaOp (a : BitVec 5) (sc : BitVec 4) (s : State) (pre : State → Option State) (op : Nat → D State) : Res :=
  match s.resolve (s.rg a) 0 8 256 rD .delta with
  | .error f => .next (s.raise f)
  | .ok d =>
    match pre s with
    | some s => .next s
    | none =>
      .next (s.scoped sc fun s =>
        match op d (s.toward d 8 8) with
        | .ok (s, _) => (s.await).post (.keeperStep d)
        | .error (.park h why) => s.parkTranslation h .delta why
        | .error (.delta r handle) => s.raise (s.flt 0x17 r d handle)
        | .error (.data f) => s.raise f
        | .error .full => s)

/-- An operation's result with the state of its commit. -/
def commit {α : Type} (m : D α) (f : α → State → State) : D State := do
  let r ← m
  return f r (← get)

/-- Register number `r + k`. -/
def regUp (r : BitVec 5) (k : Nat) : BitVec 5 := r + BitVec.ofNat 5 k

/-- DLOOK (R369). -/
def execDlook (d a b : BitVec 5) (sc : BitVec 4) (s : State) : Res :=
  let cw := s.rg (regUp b 1)
  let n := fld cw 31 0
  let input := s.resolve (s.rg b) 0 (4 * n) 4 rR .span 4
  let h := match input with
    | .ok h => h
    | .error _ => 0
  deltaOp a sc s
    (fun s =>
      if fld cw 63 48 ≠ 0 then some (s.operand 2 (regUp b 1))
      else if n = 0 then none
      else
        match input with
        | .error f => some (s.raise f)
        | .ok h => (s.spanFault h (4 * n) .span).map fun x => s.raise (s.flt 6 x.2 x.1))
    fun t => commit (lookTree t h n (fld cw 47 32)) fun r s =>
      ((s.wr d (word r.1)).wr (regUp d 1) (word r.2.1)).wr (regUp d 2) (word r.2.2)

/-- DPUT (R370). -/
def execDput (d a b : BitVec 5) (sc : BitVec 4) (s : State) : Res :=
  let block := s.resolve (s.rg b) 0 32 8 rR .span
  let h := match block with
    | .ok h => h
    | .error _ => 0
  deltaOp a sc s
    (fun s => match block with
      | .error f => some (s.raise f)
      | .ok h => (s.spanFault h 32 .span).map fun x => s.raise (s.flt 6 x.2 x.1))
    fun t => commit (putTree t h) fun r s => (s.wr d (word r.1)).wr (regUp d 1) (word r.2)

/-- DREL (R371). -/
def execDrel (a b : BitVec 5) (sc : BitVec 4) (s : State) : Res :=
  deltaOp a sc s (fun _ => none) fun t => commit (relTree t (s.rg b).toNat) fun _ s => s

/-- DSTAT (R371). -/
def execDstat (d a b : BitVec 5) (sc : BitVec 4) (s : State) : Res :=
  deltaOp a sc s (fun s => if 10 < (s.rg b).toNat then some (s.operand 2 b) else none)
    fun t => commit (statTree t (s.rg b).toNat) fun v s => s.wr d (word v)

/-- DTOUCH (R371). -/
def execDtouch (a b : BitVec 5) (sc : BitVec 4) (s : State) : Res :=
  deltaOp a sc s (fun _ => none) fun t => commit (touchTree t (s.rg b).toNat) fun _ s => s

end Sys2Proof.Machine
end

