-- ==== Sys2Proof/Machine/Tile.lean ====
section
/-! DEFINITION. The tile engine: the tile syllables at issue (12 R280 to R289) and the event TILE_STEP (R271 to R279). -/

namespace Sys2Proof.Machine

/-! Descriptors (R272, R273). -/

/-- Whether a write of TDn is accepted (R272). -/
def tdOk (w : Word) : Bool :=
  w == 0 ||
    (fld w 63 32 == 0 && fld w 14 12 == 0 && fld w 9 4 == 0 && decide (fld w 22 15 ≤ 127) && decide (fld w 11 10 ≤ 1) &&
      !(fld w 11 10 == 1 && (fld w 3 0 == 7 || fld w 3 0 == 8)) &&
      (fld w 3 0 == 0 ||
        (decide (7 ≤ fld w 3 0) && decide (fld w 3 0 ≤ 14) && decide (1 ≤ tdCols w) && decide (tdCols w ≤ depthOf (fld w 3 0)))))

/-- Bit of a tile register in a CLAIM word (02 R36). -/
def tregBit (n : Nat) : Nat := 2 ^ (16 + n % 16)

/-- Bit of an accumulator in a CLAIM word (02 R36). -/
def accBit (c : Nat) : Nat := 2 ^ (32 + c)

/-- TDn as the bundle found it. -/
def State.td (s : State) (n : Nat) : Word := tget 0 s.src.td (n % 16)

/-! Issue (R275, R276, R281). -/

/-- Operand fault about a descriptor of a tile register, or of plane c as 16 + c (R281). -/
def State.tileOperand (s : State) (n : Nat) (d : Word) : State := s.raise (s.flt 0x0B 0 0 (3 + n * 256) d.toNat)

/-- The claim check of R281: the task holds every part the command names. -/
def withParts (parts : Nat) (s : State) (go : State → State) : Res :=
  if isPorch s.myCore then .next s.porchFault
  else if s.src.tile = 0 ∨ s.src.tile &&& parts ≠ parts then .next (s.claimFault parts)
  else .next (go s)

/-- A failure of the tile queue that the task's next QFENCE will raise (R279). -/
def State.tileFailed (s : State) : Bool :=
  s.rooms.any fun e => e.2.fails.any fun f => f.queue == 8 && f.gid == s.src.gid && f.lrec == s.src.lrec

/-- Whether two commands belong to one task. -/
def TileCmd.mate (c d : TileCmd) : Bool := c.ctx == d.ctx && c.gid == d.gid

/-- The command that the engine works on: the oldest that neither waits for the attic nor stands behind one of its task that does (R277,
R279). -/
def nextTile (earlier : List TileCmd) : List TileCmd → Option TileCmd
  | [] => none
  | c :: t => if c.parked.isSome || (earlier.any fun e => e.mate c && e.parked.isSome) then nextTile (c :: earlier) t else some c

/-- Accepts a command, holds the bundle back when the queue is full, or discards it after a failure (R275, R276, R279). -/
def State.acceptTile (s : State) (i : Instr) (span stride : Nat) (control : Word) (descs : List Word) : State :=
  let q := (s.room s.myRoom).tileQ
  if 32 ≤ q.length ∨ 8 ≤ (s.tilesOf s.cur s.src.gid).length then s.hold .retry
  else if s.tileFailed then s
  else
    let c : TileCmd := { ctx := s.cur, gid := s.src.gid, lrec := s.src.lrec, pc := s.src.pc, syl := (encode i).getD 0, instr := i,
                         rm := fld s.src.fpc 18 16, span := span, stride := stride, control := control, descs := descs }
    let s' := s.setRoom s.myRoom fun r => { r with tileQ := r.tileQ ++ [c] }
    if (nextTile [] q).isNone then s'.post (.tileStep s.myRoom) else s'

/-- A memory span of a command: in one local store, or in paged space (R282), then R214, R215 and R220 with alignment 8 (R281). -/
def withSpan (g : BitVec 5) (n right : Nat) (paged : Bool) (s : State) (go : Nat → State) : State :=
  let a := s.rg g
  let h := segBase (s.src.seg (fld a 63 61)) + fld a 60 0
  if !(oneStore h n || (paged && unitOf h == .paged && decide (h + n ≤ runEnd h))) then s.operand 1 g
  else
    match s.resolve a 0 n 8 right .tile with
    | .error f => s.raise f
    | .ok h => go h

/-- Moves of tile rows between tA and memory (R282). -/
def rowsOp (i : Instr) (a : BitVec 4) (g h : BitVec 5) (right least : Nat) (s : State) : Res :=
  withParts (tregBit a.toNat) s fun s =>
    let d := s.td a.toNat
    let b := (s.rg h).toNat
    if b % 8 ≠ 0 ∨ b < least then s.operand 2 h
    else withSpan g (spanOf (tdRows d) 128 b) right true s fun x => s.acceptTile i x b 0 [d]

/-- TLD (R282). -/
def execTld (a : BitVec 4) (g h : BitVec 5) (s : State) : Res := rowsOp (.tld a g h) a g h rR 0 s

/-- TST (R282). -/
def execTst (a : BitVec 4) (g h : BitVec 5) (s : State) : Res := rowsOp (.tst a g h) a g h rW 128 s

/-- Whether a span lies in the local stores of a room. -/
def inRoom (room h n : Nat) : Bool :=
  decide (localAddr (8 * room) 0 ≤ h) && decide (h + n ≤ localAddr (8 * room) 0 + 8 * 0x4_0000)

/-- TLDX (R283). -/
def execTldx (a : BitVec 4) (g h : BitVec 5) (s : State) : Res :=
  withParts (tregBit a.toNat) s fun s =>
    let d := s.td a.toNat
    let f := tdFmt d
    let x := s.rg g
    let b := (s.rg h).toNat
    let at' := segBase (s.src.seg (fld x 63 61)) + fld x 60 0
    let row := 16 * boxOf f
    let n := spanOf (depthOf f) row b
    if f = 0 ∨ f = 13 then s.tileOperand a.toNat d
    else if b % 256 ≠ 0 ∨ b / 256 % 2 = 0 ∨ 1023 < b / 256 then s.operand 2 h
    else if !inRoom s.myRoom at' n || at' % row != 0 then s.operand 1 g
    else
      match s.resolve x 0 n 8 rR .tile with
      | .error f => s.raise f
      | .ok y => s.acceptTile (.tldx a g h) y b 0 [d]

/-- TSCL (R284). -/
def execTscl (a : BitVec 4) (g : BitVec 5) (s : State) : Res :=
  withParts (tregBit a.toNat) s fun s => withSpan g 1024 rR true s fun x => s.acceptTile (.tscl a g) x 0 0 []

/-- TSCL.st (R284). -/
def execTsclSt (a : BitVec 4) (g : BitVec 5) (s : State) : Res :=
  withParts (tregBit a.toNat) s fun s => withSpan g 1024 rW true s fun x => s.acceptTile (.tsclSt a g) x 0 0 []

/-- TLW (R285). -/
def execTlw (b : BitVec 4) (c : BitVec 2) (s : State) : Res :=
  withParts (tregBit b.toNat + accBit c.toNat) s fun s =>
    let d := s.td b.toNat
    if tdFmt d = 0 then s.tileOperand b.toNat d else s.acceptTile (.tlw b c) 0 0 0 [d]

/-- The descriptor that a command leaves latched in plane `c`. -/
def TileCmd.latched (q : TileCmd) (c : BitVec 2) : Option Word :=
  match q.instr with
  | .tlw _ c' => if c' = c then q.descs.head? else none
  | .tmmaW _ _ c' _ => if c' = c then q.descs.getLast? else none
  | _ => none

/-- Plane `c`'s latched descriptor as the task's earlier accepted commands will leave it (R275). -/
def State.planeDesc (s : State) (c : BitVec 2) : Word :=
  ((s.tilesOf s.cur s.src.gid).filterMap fun q => q.latched c).getLast?.getD (tget 0 (s.room s.myRoom).tile.pdesc c.toNat)

/-- TMMA without latch (R286). -/
def execTmma (a : BitVec 4) (c : BitVec 2) (s : State) : Res :=
  withParts (tregBit a.toNat + accBit c.toNat) s fun s =>
    let d := s.td a.toNat
    let w := s.planeDesc c
    if tdFmt d = 0 then s.tileOperand a.toNat d
    else if tdFmt w = 0 then s.tileOperand (16 + c.toNat) w
    else if depthOf (tdFmt d) ≠ depthOf (tdFmt w) then s.tileOperand a.toNat d
    else s.acceptTile (.tmma a c) 0 0 0 [d, w]

/-- The first pass of a TMMA.w whose descriptors do not serve, of the `k` passes from pass `p` on (R286). -/
def State.passFault (s : State) (a b p : Nat) : Nat → Option (Nat × Word)
  | 0 => none
  | k + 1 =>
    let d := s.td (a + p)
    let w := s.td (b + p)
    if tdFmt d = 0 then some ((a + p) % 16, d)
    else if tdFmt w = 0 then some ((b + p) % 16, w)
    else if depthOf (tdFmt d) ≠ depthOf (tdFmt w) then some ((a + p) % 16, d)
    else s.passFault a b (p + 1) k

/-- The parts that registers `a` to `a + k - 1` name, modulo 16. -/
def tregRun (a : Nat) : Nat → Nat
  | 0 => 0
  | k + 1 => tregRun a k ||| tregBit (a + k)

/-- TMMA with latch, N passes (R286). -/
def execTmmaW (a b : BitVec 4) (c n : BitVec 2) (s : State) : Res :=
  let k := n.toNat + 1
  withParts (tregRun a.toNat k ||| tregRun b.toNat k ||| accBit c.toNat) s fun s =>
    match s.passFault a.toNat b.toNat 0 k with
    | some (r, d) => s.tileOperand r d
    | none => s.acceptTile (.tmmaW a b c n) 0 0 0 ((List.range k).flatMap fun p => [s.td (a.toNat + p), s.td (b.toNat + p)])

/-- TZERO of an accumulator (R287). -/
def execTzero (c : BitVec 2) (s : State) : Res := withParts (accBit c.toNat) s fun s => s.acceptTile (.tzero c) 0 0 0 []

/-- TZERO of a tile register (R287). -/
def execTzeroT (a : BitVec 4) (s : State) : Res := withParts (tregBit a.toNat) s fun s => s.acceptTile (.tzeroT a) 0 0 0 []

/-- TDRAIN (R288). -/
def execTdrain (c : BitVec 2) (g h : BitVec 5) (sc : BitVec 1) (t : BitVec 4) (s : State) : Res :=
  withParts (accBit c.toNat) s fun s =>
    let w := s.rg h
    let row := 128 * drainSize t.toNat
    let b := fld w 23 0
    if fld w 63 51 ≠ 0 ∨ fld w 30 24 ≠ 0 ∨ b % 8 ≠ 0 ∨ b < row ∨ (fld w 50 50 = 1 ∧ fld w 49 32 % 8 ≠ 0) then s.operand 2 h
    else withSpan g (spanOf 128 row b) rW false s fun x => s.acceptTile (.tdrain c g h sc t) x b w []

/-- TDRAIN.byp (R289). -/
def execTdrainByp (a : BitVec 4) (c : BitVec 2) (sc z : BitVec 1) (s : State) : Res :=
  withParts (tregBit a.toNat ||| accBit c.toNat) s fun s =>
    let d := s.td a.toNat
    let n := (a.toNat + 1) % 16
    let e := s.td n
    if tdFmt d = 0 then s.tileOperand a.toNat d
    else if depthOf (tdFmt d) = 64 ∧ (s.src.tile &&& tregBit n = 0 ∨ tdFmt e ≠ tdFmt d) then s.tileOperand n e
    else s.acceptTile (.tdrainByp a c sc z) 0 0 0 [d]

/-! The engine's storage. -/

/-- Changes a room's tile storage. -/
def State.setTile (s : State) (room : Nat) (f : Tile → Tile) : State := s.setRoom room fun r => { r with tile := f r.tile }

/-- Writes 8-byte words into a table of bytes. -/
def putBytes (t : Tab Byte) (a : Nat) : List Nat → Tab Byte
  | [] => t
  | v :: vs => putBytes ((List.range 8).foldl (fun t i => tput 0 t (a + i) (BitVec.ofNat 8 (v / 256 ^ i))) t) (a + 8) vs

/-- The 8-byte word in a table of bytes. -/
def getBytes (t : Tab Byte) (a : Nat) : Nat := (List.range 8).foldl (fun x i => x + (tget 0 t (a + i)).toNat * 256 ^ i) 0

/-- Code of element `k` of the row at byte `a` (R273). -/
def elemCode (t : Tab Byte) (f a k : Nat) : Nat :=
  let b := boxOf f
  if b = 4 then (tget 0 t (a + k / 2)).toNat / 16 ^ (k % 2) % 16
  else if b = 8 then (tget 0 t (a + k)).toNat
  else (tget 0 t (a + 2 * k)).toNat + 256 * (tget 0 t (a + 2 * k + 1)).toNat

/-- The table with element `k` of the row at byte `a` replaced (R273). -/
def setElem (t : Tab Byte) (f a k v : Nat) : Tab Byte :=
  let b := boxOf f
  if b = 4 then
    let x := (tget 0 t (a + k / 2)).toNat
    tput 0 t (a + k / 2) (BitVec.ofNat 8 (setEl 4 x (k % 2) v))
  else if b = 8 then tput 0 t (a + k) (BitVec.ofNat 8 v)
  else tput 0 (tput 0 t (a + 2 * k) (BitVec.ofNat 8 v)) (a + 2 * k + 1) (BitVec.ofNat 8 (v / 256))

/-- The value that an instruction reads for element `k` of row `r` of register or plane `n` (R273). -/
def tileVal (rows scale : Tab Byte) (n : Nat) (d : Word) (r k : Nat) : FVal :=
  if tdRows d ≤ r ∨ tdCols d ≤ k then .fin false 0 0
  else
    let v := (fmt (tdFmt d)).val (elemCode rows (tdFmt d) (16384 * n + 128 * r) k)
    if fld d 11 10 = 1 then
      let x := (tget 0 scale (1024 * n + 8 * r + k / 32)).toNat
      if x = 0xFF then .nan false else v.scaled (127 - (x : Int))
    else v

/-- Latches tile register `n` with descriptor `d` into the shadow of plane `c` (R274). -/
def Tile.latch (t : Tile) (n c : Nat) (d : Word) : Tile :=
  let copy := fun (src dst : Tab Byte) (size : Nat) =>
    (List.range size).foldl (fun acc i => tput 0 acc (size * c + i) (tget 0 src (size * n + i))) dst
  { t with srow := copy t.rows t.srow 16384, sscale := copy t.scale t.sscale 1024, sdesc := tput 0 t.sdesc c d,
           svalid := tput false t.svalid c true }

/-- The shadow of plane `c` becomes the plane, unless a pass on it is under way (R274). -/
def Tile.promote (t : Tile) (c : Nat) : Tile :=
  if tget false t.svalid c && !t.passing.contains c then
    let move := fun (src dst : Tab Byte) (size : Nat) =>
      (List.range size).foldl (fun acc i => tput 0 acc (size * c + i) (tget 0 src (size * c + i))) dst
    { t with prow := move t.srow t.prow 16384, pscale := move t.sscale t.pscale 1024, pdesc := tput 0 t.pdesc c (tget 0 t.sdesc c),
             svalid := tput false t.svalid c false }
  else t

/-! The pass (07 R184, R185). -/

/-- An addend truncated to units of 2^q. -/
def truncAt (q : Int) : FVal → Int
  | .fin n m e =>
    let k : Nat := if q ≤ e then m * 2 ^ (e - q).toNat else m / 2 ^ (q - e).toNat
    if n then -(k : Int) else k
  | _ => 0

/-- Whether a value is an infinity of a sign. -/
def FVal.isInf (neg : Bool) : FVal → Bool
  | .inf n => n == neg
  | _ => false

/-- Whether a value is a zero of negative sign. -/
def FVal.isNegZero : FVal → Bool
  | .fin n m _ => n && m == 0
  | _ => false

/-- The reduction of a set of addends to an FP32 code (07 R184). -/
def reduceSet (xs : List FVal) : Nat :=
  let p := xs.any (FVal.isInf false)
  let n := xs.any (FVal.isInf true)
  if xs.any FVal.isNan || (p && n) then 0x7FC0_0000
  else if p then 0x7F80_0000
  else if n then 0xFF80_0000
  else
    match blockTop xs with
    | none => if xs.all FVal.isNegZero then 0x8000_0000 else 0
    | some top =>
      let q := top - 38
      let z := xs.foldl (fun acc x => acc + truncAt q x) 0
      if z = 0 then 0 else ((fmt 6).deliver 0 false (.fin (decide (z < 0)) z.natAbs q)).1

/-- A product of a pass: of two MXINT8 elements it is an integer product, whose zero has no sign (07 R185; log 81). -/
def passProduct (dx dw : Word) (a b : FVal) : FVal :=
  match (mulVal a b).1 with
  | .fin n m e => .fin (n && !(tdFmt dx == 14 && tdFmt dw == 14 && m == 0)) m e
  | v => v

/-- One accumulator element after a pass (R286). -/
def passElem (t : Tile) (a c : Nat) (dx dw : Word) (m n : Nat) : Lane :=
  let old := tget 0 t.acc (16384 * c + 128 * m + n)
  let ps := (List.range (min (tdCols dx) (tdCols dw))).map fun k =>
    passProduct dx dw (tileVal t.rows t.scale a dx m k) (tileVal t.prow t.pscale c dw n k)
  BitVec.ofNat 32 (reduceSet ((fmt 6).val old.toNat :: ps))

/-- Rows `m0` to `m0 + 15` of a pass (R286). -/
def Tile.passRows (t : Tile) (a c : Nat) (dx dw : Word) (m0 : Nat) : Tile :=
  let ms := ((List.range 16).map (m0 + ·)).filter fun m => decide (m < tdRows dx)
  { t with acc := ms.foldl (fun acc m =>
             (List.range (tdRows dw)).foldl (fun acc n => tput 0 acc (16384 * c + 128 * m + n) (passElem t a c dx dw m n)) acc) t.acc }

/-- One step of a pass of register `a` on accumulator `c`; after the last, the boundary lets a waiting shadow in. -/
def Tile.passStep (t : Tile) (a c : Nat) (dx dw : Word) (k : Nat) : Tile :=
  let t := { t with passing := if t.passing.contains c then t.passing else c :: t.passing }
  let t := t.passRows a c dx dw (16 * k)
  if k = 7 then ({ t with passing := t.passing.filter (· != c) } : Tile).promote c else t

/-! Drains (R288, R289). -/

/-- An accumulator element converted (07 R174, R176, R178). -/
def drained (t : Tile) (c ty rm : Nat) (sat : Bool) (m n : Nat) : Nat :=
  ((fmt ty).deliver rm sat ((fmt 6).val (tget 0 t.acc (16384 * c + 128 * m + n)).toNat)).1

/-- 8-byte words of a drained row. -/
def drainRow (t : Tile) (c ty rm : Nat) (sat : Bool) (m : Nat) : List Nat :=
  let size := drainSize ty
  let per := 8 / size
  (List.range (128 / per)).map fun j =>
    (List.range per).foldl (fun x i => x + drained t c ty rm sat m (per * j + i) * 256 ^ (size * i)) 0

/-- Row `m` of a drain into tile registers (R289). -/
def bypRow (t : Tile) (a c f rm : Nat) (sat : Bool) (rows : Tab Byte) (m : Nat) : Tab Byte :=
  if depthOf f = 64 then
    (List.range 128).foldl (fun rows n =>
      setElem rows f (16384 * ((a + n / 64) % 16) + 128 * m) (n % 64) (drained t c f rm sat m n)) rows
  else
    let rows := if f = 13 then tclear rows (16384 * a + 128 * m + 64) (16384 * a + 128 * m + 128) else rows
    (List.range 128).foldl (fun rows n => setElem rows f (16384 * a + 128 * m) n (drained t c f rm sat m n)) rows

/-- An accumulator set to +0. -/
def Tile.zeroAcc (t : Tile) (c : Nat) : Tile := { t with acc := tclear t.acc (16384 * c) (16384 * (c + 1)) }

/-! Steps (R277). -/

/-- What a step gives: done, the whole command done, waiting for the attic, failed with a reason (23 R399), or to be tried again in the next cycle. -/
inductive TStep where
  | more (s : State)
  | last (s : State)
  | wait (s : State) (h : Nat) (acc : AccKind) (why : XReason)
  | bad (s : State) (reason : Nat)
  | later (s : State)

/-- Whether step `k` of `n` is the last. -/
def stepped (k n : Nat) (s : State) : TStep := if k + 1 < n then .more s else .last s

/-- A step that reads words. -/
def State.tileRead (s : State) (hall : Nat) (hs : List Nat) (go : State → List Nat → TStep) : TStep :=
  if s.bankTaken 3 hs then .later s
  else
  match s.places hall rR hs with
  | .ok s ps => go (s.useBanks hs) (ps.map fun p => s.get p 8)
  | .wait s h why => .wait s h .load why
  | .bad s => .bad s (if hs.any s.badWord then 2 else 3)

/-- A step that writes words. -/
def State.tileWrite (s : State) (hall core : Nat) (hs vs : List Nat) (go : State → TStep) : TStep :=
  if s.bankTaken 3 hs then .later s
  else
  match s.places hall rW hs with
  | .ok s ps => go (((s.putWords ps (vs.map word)).useBanks hs).carry core true hs)
  | .wait s h why => .wait s h .store why
  | .bad s => .bad s (if hs.any s.badWord then 2 else 3)

/-- Rows of step `k`. -/
def rowsOf (k : Nat) : List Nat := (List.range 16).map (16 * k + ·)

/-- Writes the words of fragments into a transposed register (R283), each element in its container (07 R173). -/
def fragments (f a k0 : Nat) (rows : Tab Byte) : List (Nat × Nat) → Tab Byte
  | [] => rows
  | (x, v) :: t =>
    let per := 64 / boxOf f
    let k := k0 + x % 32
    let c := x / 32
    fragments f a k0 ((List.range per).foldl (fun rows i =>
      setElem rows f (16384 * a + 128 * (per * c + i)) k (v / 2 ^ (boxOf f * i) % 2 ^ (fmt f).width)) rows) t

/-- One step of TLDX: 16 fragments. -/
def State.tldxStep (s : State) (room : Nat) (c : TileCmd) (a : Nat) : TStep :=
  let f := tdFmt (c.descs.headD 0)
  let cols := 16 * boxOf f / 8
  let frag := fun i => (32 * ((16 * c.step + i) / cols), (16 * c.step + i) % cols)
  s.tileRead (room / 24) (c.fragWords c.step) fun s vs =>
    let s := s.setTile room fun t =>
      { t with rows := (List.range 16).foldl (fun rows i =>
          fragments f a (frag i).1 rows ((List.range 32).map fun r => (r + 32 * (frag i).2, vs.getD (32 * i + r) 0))) t.rows }
    stepped c.step 4 s

/-- One step of a command. -/
def State.tileDo (s : State) (room : Nat) (c : TileCmd) : TStep :=
  let hall := room / 24
  let d := c.descs.headD 0
  match c.instr with
  | .tld a _ _ =>
    let ms := rowsOf c.step
    let live := ms.filter fun m => decide (m < tdRows d)
    s.tileRead hall (rowWords c.span c.stride 128 live) fun s vs =>
      let s := s.setTile room fun t =>
        let lo := 16384 * a.toNat + 128 * 16 * c.step
        { t with rows := putBytes (tclear t.rows lo (lo + 2048)) lo vs }
      stepped c.step 8 s
  | .tst a _ _ =>
    let live := (rowsOf c.step).filter fun m => decide (m < tdRows d)
    let vs := live.flatMap fun m => (List.range 16).map fun j => getBytes (s.room room).tile.rows (16384 * a.toNat + 128 * m + 8 * j)
    s.tileWrite hall (coreOf c.ctx) (rowWords c.span c.stride 128 live) vs fun s => stepped c.step 8 s
  | .tldx a _ _ => s.tldxStep room c a.toNat
  | .tscl a _ =>
    s.tileRead hall (wordRun c.span 128) fun s vs =>
      .last (s.setTile room fun t => { t with scale := putBytes t.scale (1024 * a.toNat) vs })
  | .tsclSt a _ =>
    s.tileWrite hall (coreOf c.ctx) (wordRun c.span 128) ((List.range 128).map fun j => getBytes (s.room room).tile.scale (1024 * a.toNat + 8 * j))
      .last
  | .tlw b p => .last (s.setTile room fun t => (t.latch b.toNat p.toNat d).promote p.toNat)
  | .tmma a p =>
    stepped c.step 8 (s.setTile room fun t => t.passStep a.toNat p.toNat d (c.descs.getD 1 0) c.step)
  | .tmmaW a b p n =>
    let pass := c.step / 9
    let dx := c.descs.getD (2 * pass) 0
    let dw := c.descs.getD (2 * pass + 1) 0
    stepped c.step (9 * (n.toNat + 1)) (s.setTile room fun t =>
      if c.step % 9 = 0 then (t.latch ((b.toNat + pass) % 16) p.toNat dw).promote p.toNat
      else t.passStep ((a.toNat + pass) % 16) p.toNat dx dw (c.step % 9 - 1))
  | .tzero p => .last (s.setTile room fun t => t.zeroAcc p.toNat)
  | .tzeroT a =>
    .last (s.setTile room fun t =>
      { t with rows := tclear t.rows (16384 * a.toNat) (16384 * (a.toNat + 1)),
               scale := tclear t.scale (1024 * a.toNat) (1024 * (a.toNat + 1)) })
  | .tdrain p _ _ sat ty =>
    let size := 128 * drainSize ty.toNat
    let vs := (rowsOf c.step).flatMap (drainRow (s.room room).tile p.toNat ty.toNat c.rm (sat == 1))
    s.tileWrite hall (coreOf c.ctx) (rowWords c.span c.stride size (rowsOf c.step)) vs fun s =>
      let go := fun (s : State) =>
        if c.step < 7 then .more s
        else .last (if fld c.control 31 31 = 1 then s.setTile room fun t => t.zeroAcc p.toNat else s)
      if fld c.control 50 50 = 1 then
        let w := storeWord c.span (fld c.control 49 32)
        if s.badWord w then .bad s 2
        else
          match s.landing w (16 * size) with
          | some s => go s
          | none => .bad s 4
      else go s
  | .tdrainByp a p sat z =>
    let f := tdFmt d
    let s := s.setTile room fun t => { t with rows := (rowsOf c.step).foldl (bypRow t a.toNat p.toNat f c.rm (sat == 1)) t.rows }
    if c.step < 7 then .more s
    else
      .last (s.setTile room fun t =>
        let regs := if depthOf f = 64 then [a.toNat, (a.toNat + 1) % 16] else [a.toNat]
        let t := { t with scale := regs.foldl (fun sc r =>
                     (List.range 1024).foldl (fun sc i => tput 0 sc (1024 * r + i) (0x7F : Byte)) sc) t.scale }
        if z = 1 then t.zeroAcc p.toNat else t)
  | _ => .last s

/-- Tile registers that a failed command leaves undefined: `n` bytes of a table, from byte `a` (R279; log 9). -/
def freeBytes (t : Tab Byte) (fresh a : Nat) : Nat → Tab Byte
  | 0 => t
  | n + 1 => tput 0 (freeBytes t fresh a n) (a + n) (BitVec.ofNat 8 (Config.freeWord (fresh + n)).toNat)

/-- The destination of a failed command takes free values (R279; log 9). -/
def State.tileLoss (s : State) (room : Nat) (c : TileCmd) : State :=
  let hall := room / 24
  let freed := fun (n : Nat) (f : Tile → Tile) => { (s.setTile room f) with fresh := s.fresh + n }
  match c.instr with
  | .tld a _ _ => freed 16384 fun t => { t with rows := freeBytes t.rows s.fresh (16384 * a.toNat) 16384 }
  | .tldx a _ _ => freed 16384 fun t => { t with rows := freeBytes t.rows s.fresh (16384 * a.toNat) 16384 }
  | .tscl a _ => freed 1024 fun t => { t with scale := freeBytes t.scale s.fresh (1024 * a.toNat) 1024 }
  | _ => s.scramble hall c.dest

/-- The engine goes on while it has work. -/
def State.tileOn (s : State) (room : Nat) : State :=
  if (nextTile [] (s.room room).tileQ).isSome then s.post (.tileStep room) else s

/-- Replaces the first such command in the queue. -/
def replaceTile (c c' : TileCmd) : List TileCmd → List TileCmd
  | [] => []
  | x :: t => if x = c then c' :: t else x :: replaceTile c c' t

/-- A command is complete: its parts may pass on (R152, R291) and its issuer's waits are looked at again. The destination of one whose source its
issuer has stored to meanwhile takes free values (R278). -/
def State.tileDone (s : State) (room : Nat) (c : TileCmd) : State :=
  let s := if c.spoilt then s.tileLoss room c else s
  let s := s.setRoom room fun r => { r with tileQ := r.tileQ.erase c }
  let s := if s.running c.ctx c.gid c.lrec then s.kick c.ctx else s
  ((s.regrant room).tileOn room).forget c.lrec

/-- A command has failed: it and the task's later commands leave the queue, and the failure waits for the task's QFENCE or goes to the
fault area (R279). -/
def State.tileFail (s : State) (room : Nat) (c : TileCmd) (reason : Nat) : State :=
  let s := s.tileLoss room c
  let s := s.setRoom room fun r => { r with tileQ := r.tileQ.filter fun x => !x.mate c }
  let bits : Word := word c.syl.toNat
  let s :=
    if s.alive c.gid c.lrec then
      let s := s.recordFailure room { gid := c.gid, lrec := c.lrec, queue := 8, pc := c.pc, reason := reason, failed := bits }
      if s.running c.ctx c.gid c.lrec then (s.setCtx c.ctx fun x => { x with heldT := [] }).kick c.ctx else s
    else
      s.lateRecord (s.launchKey c.gid c.lrec) (room / 24)
        { kind := 0x12, reason := reason, pc := c.pc, addr := c.pc, info0 := bits, late := true, stamp := word s.now } c.gid
        (sourceOf (room / 24) (8 * (room % 24)) 0 3)
  ((s.regrant room).tileOn room).forget c.lrec

/-- TILE_STEP (R277 to R279, R291): the engine performs the next step of its queue. -/
def execTileStep (room : Nat) (s : State) : Res :=
  if (s.room room).stopped || s.attic.holding then .next s
  else
    match nextTile [] (s.room room).tileQ with
    | none => .next s
    | some c =>
      if c.step == 0 && s.pendingPc c.ctx c.pc then .next s
      else
      match s.tileDo room c with
      | .more s =>
        .next ((s.setRoom room fun r => { r with tileQ := replaceTile c { c with step := c.step + 1 } r.tileQ }).tileOn room)
      | .last s => .next (s.tileDone room c)
      | .wait s h acc why =>
        let n := s.nextId
        let s := s.setRoom room fun r => { r with tileQ := replaceTile c { c with parked := some h, ask := n } r.tileQ }
        .next ((State.tell { s with nextId := n + 1 } (.translation c.gid c.ctx h acc why)).tileOn room)
      | .bad s reason => .next (s.tileFail room c reason)
      | .later s => .next (s.defer (.tileStep room))

end Sys2Proof.Machine
end

