-- ==== Sys2Proof/Machine/Image.lean ====
section
/-! DEFINITION. Context images and saved state (02 R31 to R33; 23 R409, R410), halting a context at a bundle boundary (23 R406, R408),
the hand-over of a fault to a handler (23 R400, R401), gang stops (R404, R405) and frozen contexts (24 R427). -/

namespace Sys2Proof.Machine

/-! The image. -/

/-- sA.lo (09 R213). -/
def segLo (g : Seg) : Word := word (bits g.toNat 63 0)

/-- sA.hi (09 R213). -/
def segHi (g : Seg) : Word := word (bits g.toNat 127 64)

/-- CLAIM of an image: the claims held, or those still to be re-established (02 R31, 23 R410). -/
def Ctx.savedClaim (c : Ctx) : Word := if c.want = 0 then c.claim else c.want

/-- Words of a context image (02 R31). -/
def Ctx.imageWords (c : Ctx) (park parka xsave rlog : Nat) : List Word :=
  [c.pc, c.p] ++ (List.range 24).map c.rg ++
    (List.range 8).flatMap (fun k => [segLo (c.seg k), segHi (c.seg k)]) ++
    [c.stWord, c.fpc, c.gid, c.grp, c.hnd, c.tc, c.lrec, c.savedClaim, word park, word parka, word xsave, word rlog] ++
    List.replicate 9 0 ++ [0x0100_0000_0000_0000]

/-- Word of an image at byte offset `o`. -/
def imgWord (ws : List Word) (o : Nat) : Word := ws.getD (o / 8) 0

/-- Whether a stored FPC value is legal (02 R35). -/
def fpcOk (w : Word) : Bool := fld w 63 19 == 0 && fld w 15 13 == 0 && fld w 7 5 == 0 && decide (fld w 18 16 ≤ 4)

/-- Whether a CLAIM word's reserved bits are zero (02 R36). -/
def claimClean (w : Word) : Bool := fld w 63 36 == 0 && fld w 15 9 == 0 && fld w 7 3 == 0

/-- s0 to s7 of an image (02 R31). -/
def imgSeg (ws : List Word) (k : Nat) : Seg :=
  BitVec.ofNat 128 ((imgWord ws (0xD0 + 16 * k)).toNat + (imgWord ws (0xD8 + 16 * k)).toNat * 2 ^ 64)

/-- The checks of R33 that need no memory: format, reserved fields (of the segments too, 09 R213), and the device's record. -/
def imageOk (ws : List Word) (r : ImgRec) : Bool :=
  imgWord ws 0x1F8 == 0x0100_0000_0000_0000 && fld (imgWord ws 0x190) 63 8 == 0 && fld (imgWord ws 0x1A8) 63 5 == 0 &&
    (List.range 9).all (fun i => imgWord ws (0x1B0 + 8 * i) == 0) && fld (imgWord ws 0x150) 63 8 == 0 &&
    fld (imgWord ws 0x150) 6 4 == 0 && fpcOk (imgWord ws 0x158) &&
    (List.range 4).all (fun i => bits (imgWord ws 0x168).toNat (16 * i + 14) (16 * i + 8) == 0) && fld (imgWord ws 0x178) 63 2 == 0 &&
    (List.range 8).all (fun k => segClean (imgSeg ws k)) && claimClean (imgWord ws 0x188) && imgWord ws 0x160 == r.gid && imgWord ws 0x180 == r.lrec

/-- The task state that an image holds, with what the device kept of it. -/
def ctxOf (ws : List Word) (r : ImgRec) : Ctx :=
  { pc := imgWord ws 0, p := imgWord ws 8,
    g := (List.range 24).foldl (fun t i => if i = 0 then t else tput 0 t i (imgWord ws (0x10 + 8 * i))) [],
    segs := (List.range 8).foldl (fun t k => tput 0 t k (imgSeg ws k)) [],
    st := imgWord ws 0x150 &&& 0xC, fpc := imgWord ws 0x158, gid := imgWord ws 0x160, grp := imgWord ws 0x168, hnd := imgWord ws 0x170,
    tc := imgWord ws 0x178, lrec := imgWord ws 0x180, place := .walk, status := .ready, queue := r.queue, doneFuture := r.doneFuture,
    isHandler := r.handler, want := imgWord ws 0x188, xsave := (imgWord ws 0x1A0).toNat, heldT := r.tiles, lostT := r.lost, heldC := r.copies,
    entered := r.entered == some (imgWord ws 0) }

/-! State blocks (R409). -/

/-- Bytes of a block. -/
abbrev blockSize : Nat := 0x10_0000

/-- House address of block `i` of a hall's pool. -/
def Hall.block (h : Hall) (i : Nat) : Nat := h.poolBase + blockSize * i

/-- The lowest free block of a hall's pool; which of several free blocks is taken is the model's choice (log 23). -/
def Hall.freeBlock (h : Hall) : Option Nat := lowest (fun i => !h.poolUsed.contains i) 0 h.poolCount

/-- Whether a place is of the HBM tier. -/
def Phys.isHbm : Phys → Bool
  | .hbm _ _ => true
  | _ => false

/-- Places of the sixteen 64 KiB pages of a block, through a hall's ports; they are of the HBM tier (R409). -/
def State.blockPages (s : State) (hall base right : Nat) : House (List Phys) :=
  match s.places hall right ((List.range 16).map fun i => base + 0x1_0000 * i) with
  | .ok s ps => if ps.all Phys.isHbm then .ok s ps else .bad s
  | r => r

/-- Memory key of byte `o` of a block. -/
def blockKey (ps : List Phys) (o : Nat) : Nat := ((ps.getD (o / 0x1_0000) (.host 0)).key) + o % 0x1_0000

/-- Stores an `n`-byte value into a block. -/
def State.bput (s : State) (ps : List Phys) (o n v : Nat) : State := s.store (blockKey ps o) n v

/-- An `n`-byte value of a block. -/
def State.bget (s : State) (ps : List Phys) (o n : Nat) : Nat := s.load (blockKey ps o) n

/-- Free values in `n` words of a block from byte `o` (R409; log 9). -/
def State.bfree (s : State) (ps : List Phys) (o : Nat) : Nat → State
  | 0 => s
  | n + 1 =>
    let r := s.free
    (r.2.bput ps o 8 r.1.toNat).bfree ps (o + 8) n

/-- Copies `n` bytes of a table into a block. -/
def State.bputs (s : State) (ps : List Phys) (o : Nat) (t : Tab Byte) (a n : Nat) : State :=
  (List.range n).foldl (fun s i => s.bput ps (o + i) 1 (tget 0 t (a + i)).toNat) s

/-- Loads `n` bytes of a block into a table. -/
def State.bgets (s : State) (ps : List Phys) (o : Nat) (t : Tab Byte) (a n : Nat) : Tab Byte :=
  (List.range n).foldl (fun t i => tput 0 t (a + i) (BitVec.ofNat 8 (s.bget ps (o + i) 1))) t

/-- Tile registers and accumulators of a CLAIM set. -/
def tregsOf (set : Nat) : List Nat := (List.range 16).filter fun n => bitOf set (16 + n)

/-- Accumulators of a CLAIM set. -/
def accsOf (set : Nat) : List Nat := (List.range 4).filter fun c => bitOf set (32 + c)

/-- Span addresses of a saved tile command, for its entry in the block. -/
def TileCmd.words (c : TileCmd) : List Word :=
  [word (c.syl.toNat + c.step * 2 ^ 32), word c.rm, word c.span, 0] ++ (c.descs ++ List.replicate 8 0).take 8 ++ List.replicate 4 0

/-- Words of a saved copy command. -/
def copyWordsOf (c : Nat × CopyCmd) : List Word :=
  [word (c.2.syl.toNat + c.1 * 2 ^ 32), c.2.lenWord, c.2.stride, word c.2.src, word c.2.dst, word c.2.chunk, 0, 0]

/-- Stores words into a block. -/
def State.bputWs (s : State) (ps : List Phys) (o : Nat) : List Word → State
  | [] => s
  | w :: t => (s.bput ps o 8 w.toNat).bputWs ps (o + 8) t

/-- Saves a context's vector and tile state and its commands into a block, for an image at `image` (R409). -/
def State.saveBlock (s : State) (ctx : Nat) (ps : List Phys) (image : Nat) : State :=
  let c := s.ctx ctx
  let t := (s.room (roomOf (coreOf ctx))).tile
  let s := s.bfree ps 0 (blockSize / 8)
  let s := s.bputWs ps 0 [c.claim, word (c.heldT.length + c.heldC.length * 256), word image]
  let s := (List.range 16).foldl (fun s k =>
    (List.range c.lanes).foldl (fun s i => s.bput ps (0x1000 + 256 * k + 4 * i) 4 (c.lane k i).toNat) s) s
  let s := (tregsOf c.tile).foldl (fun s n =>
    let o := 0x2000 + 0x4800 * n
    ((s.bputs ps o t.rows (16384 * n) 16384).bputs ps (o + 0x4000) t.scale (1024 * n) 1024).bput ps (o + 0x4400) 8 (tget 0 c.td n).toNat) s
  let s := (accsOf c.tile).foldl (fun s a =>
    let o := 0x5_0000 + 0x2_8000 * a
    let s := (List.range 16384).foldl (fun s i => s.bput ps (o + 4 * i) 4 (tget 0 t.acc (16384 * a + i)).toNat) s
    let s := (s.bputs ps (o + 0x1_0000) t.prow (16384 * a) 16384).bputs ps (o + 0x1_4000) t.pscale (1024 * a) 1024
    let s := s.bput ps (o + 0x1_4400) 8 (tget 0 t.pdesc a).toNat
    let s := (s.bputs ps (o + 0x1_8000) t.srow (16384 * a) 16384).bputs ps (o + 0x1_C000) t.sscale (1024 * a) 1024
    (s.bput ps (o + 0x1_C400) 8 (tget 0 t.sdesc a).toNat).bput ps (o + 0x1_C408) 8 (b2n (tget false t.svalid a))) s
  let s := (c.heldT.zipIdx).foldl (fun s x => s.bputWs ps (0xF_0000 + 128 * x.2) x.1.words) s
  (c.heldC.zipIdx).foldl (fun s x => s.bputWs ps (0xF_1000 + 64 * x.2) (copyWordsOf x.1)) s

/-- Loads the vector and tile state that a context's claims name from a block (R410). -/
def State.loadBlock (s : State) (ctx : Nat) (ps : List Phys) : State :=
  let c := s.ctx ctx
  let room := roomOf (coreOf ctx)
  let vs := (List.range 16).flatMap fun k =>
    (List.range c.lanes).map fun i => (64 * k + i, BitVec.ofNat 32 (s.bget ps (0x1000 + 256 * k + 4 * i) 4))
  let td := (tregsOf c.tile).foldl (fun td n => tput 0 td n (word (s.bget ps (0x2000 + 0x4800 * n + 0x4400) 8))) []
  let t := (s.room room).tile
  let t := (tregsOf c.tile).foldl (fun (t : Tile) n =>
    let o := 0x2000 + 0x4800 * n
    { t with rows := s.bgets ps o t.rows (16384 * n) 16384, scale := s.bgets ps (o + 0x4000) t.scale (1024 * n) 1024 }) t
  let t := (accsOf c.tile).foldl (fun (t : Tile) a =>
    let o := 0x5_0000 + 0x2_8000 * a
    { t with
      acc := (List.range 16384).foldl (fun acc i => tput 0 acc (16384 * a + i) (BitVec.ofNat 32 (s.bget ps (o + 4 * i) 4))) t.acc,
      prow := s.bgets ps (o + 0x1_0000) t.prow (16384 * a) 16384, pscale := s.bgets ps (o + 0x1_4000) t.pscale (1024 * a) 1024,
      pdesc := tput 0 t.pdesc a (word (s.bget ps (o + 0x1_4400) 8)),
      srow := s.bgets ps (o + 0x1_8000) t.srow (16384 * a) 16384, sscale := s.bgets ps (o + 0x1_C000) t.sscale (1024 * a) 1024,
      sdesc := tput 0 t.sdesc a (word (s.bget ps (o + 0x1_C400) 8)),
      svalid := tput false t.svalid a (bitOf (s.bget ps (o + 0x1_C408) 8) 0) }) t
  (s.setCtx ctx fun c => { c with vregs := vs.foldl (fun v x => tput 0 v x.1 x.2) [], td := td }).setTile room fun _ => t

/-- Contexts of a hall whose image or hand-over waits are tried again, as when a block is freed or the pool is set. -/
def State.retryImages (s : State) (hall : Nat) : State :=
  s.ctxs.foldl (fun s e =>
    if s.hallOf (coreOf e.1) = hall then
      match e.2.status with
      | .halted _ => s.post (.imageWrite e.1)
      | .faulted _ => s.post (.faultHandover e.1)
      | _ => s
    else s) s

/-- Returns a block to its pool (R410). -/
def State.freeBlock (s : State) (block : Nat) : State :=
  s.halls.foldl (fun s e =>
    let h := e.2
    let i := (block - h.poolBase) / blockSize
    if h.poolBase ≤ block ∧ (block - h.poolBase) % blockSize = 0 ∧ i < h.poolCount ∧ h.poolUsed.contains i then
      (s.setHall e.1 fun h => { h with poolUsed := h.poolUsed.erase i }).retryImages e.1
    else s) s

/-! Stopping at a bundle boundary (R406, R408). -/

/-- Tile registers and accumulators that a tile command names. -/
def TileCmd.parts (q : TileCmd) : Nat :=
  match q.instr with
  | .tld a _ _ => tregBit a.toNat
  | .tst a _ _ => tregBit a.toNat
  | .tldx a _ _ => tregBit a.toNat
  | .tscl a _ => tregBit a.toNat
  | .tsclSt a _ => tregBit a.toNat
  | .tlw b c => tregBit b.toNat ||| accBit c.toNat
  | .tmma a c => tregBit a.toNat ||| accBit c.toNat
  | .tmmaW a b c n => tregRun a.toNat (n.toNat + 1) ||| tregRun b.toNat (n.toNat + 1) ||| accBit c.toNat
  | .tzero c => accBit c.toNat
  | .tzeroT a => tregBit a.toNat
  | .tdrain c _ _ _ _ => accBit c.toNat
  | .tdrainByp a c _ _ =>
    tregBit a.toNat ||| accBit c.toNat ||| if depthOf (tdFmt (q.descs.headD 0)) = 64 then tregBit (a.toNat + 1) else 0
  | _ => 0

/-- How many tile commands of a task stay in the queue as it is stopped: those up to the last that names a part which the task has released, since they are
performed before the part passes on (12 R291; DEDUCED, log 118); none where the room's service is stopped. -/
def State.stayingTiles (s : State) (ctx : Nat) : Nat :=
  let c := s.ctx ctx
  let q := s.tilesOf ctx c.gid
  if c.tile = 0 then q.length
  else if (s.room (roomOf (coreOf ctx))).stopped then 0
  else (q.reverse.dropWhile fun x => x.parts &&& c.tile == x.parts).length

/-- A list without its elements that meet `p`, but for the first `n` of them. -/
def keepFirst {α : Type} (p : α → Bool) : Nat → List α → List α
  | _, [] => []
  | 0, x :: t => if p x then keepFirst p 0 t else x :: keepFirst p 0 t
  | n + 1, x :: t => if p x then x :: keepFirst p n t else x :: keepFirst p (n + 1) t

/-- The tile commands of a task that holds a tile claim leave the queue with it, with their progress (12 R290, 13 R302); under a service stop
its copy commands do too (R409). One that waits for the attic goes on waiting for it (12 R290). -/
def State.takeCommands (s : State) (ctx : Nat) : State :=
  let c := s.ctx ctx
  let core := coreOf ctx
  if isPorch core then s
  else
    let r := s.room (roomOf core)
    let n := s.stayingTiles ctx
    let mine := (s.tilesOf ctx c.gid).drop n
    let copies := if r.stopped then
        (List.range 8).flatMap fun q => ((tget [] r.copyQ q).filter fun x => x.ctx == ctx && x.gid == c.gid).map fun x => (q, x)
      else []
    let s := s.setRoom (roomOf core) fun r =>
      { r with tileQ := keepFirst (fun x => x.ctx == ctx && x.gid == c.gid) n r.tileQ,
               copyQ := if r.stopped then
                   (List.range 8).foldl (fun t q => tput [] t q ((tget [] t q).filter fun x => !(x.ctx == ctx && x.gid == c.gid))) r.copyQ
                 else r.copyQ }
    s.setCtx ctx fun c => { c with heldT := c.heldT ++ mine, heldC := c.heldC ++ copies.map fun x => (x.1, { x.2 with parked := none, asking := none }) }

/-- Copy commands join the tails of their queues in a room. -/
def State.returnCopies (s : State) (room : Nat) (cs : List (Nat × CopyCmd)) : State :=
  cs.foldl (fun s x =>
    (s.setRoom room fun r => { r with copyQ := tput [] r.copyQ x.1 (tget [] r.copyQ x.1 ++ [x.2]) }).post (.copyChunk room x.1)) s

/-- The saved commands join the tails of their queues in the room where the task now runs (R410). -/
def State.rejoin (s : State) (ctx : Nat) : State :=
  let c := s.ctx ctx
  let core := coreOf ctx
  if isPorch core then s
  else
    let room := roomOf core
    let ts := c.heldT.map fun x => { x with ctx := ctx }
    let s := s.setRoom room fun r => { r with tileQ := r.tileQ ++ ts }
    let s := s.returnCopies room (c.heldC.map fun x => (x.1, { x.2 with ctx := ctx }))
    let s := if ts.isEmpty then s else s.post (.tileStep room)
    s.setCtx ctx fun c => { c with heldT := [], heldC := [] }

/-- Address that a wait names (02 R31 PARKA). -/
def Wait.addr : Wait → Nat
  | .translation h _ _ => h
  | .parked h => h
  | _ => 0

/-- Whether a context waits in an END, a TASKRES or a TASKKILL, which completes before a stop (06 R166). -/
def Ctx.finishes (c : Ctx) : Bool :=
  match decodeBundle c.bits with
  | .ok (.endTask _, _) => true
  | .ok (.taskres _, _) => true
  | .ok (.taskkill _, _) => true
  | _ => false

/-- Whether a context waits in a SLOTSTART for a page, which completes before a stop (06 R166). -/
def Ctx.starting (c : Ctx) : Bool :=
  match c.status, decodeBundle c.bits with
  | .waiting (.translation _ _ _), .ok (.slotstart _, _) => true
  | _, _ => false

/-- Stops a context with PARK reason `park` at a bundle boundary: at once where it stands at one, its parks and requests withdrawn (09
R231, 06 R166); after the reply where a bundle is completing. A faulted or halted context counts as stopped: its hand-over or image goes on,
which takes the commands of a room whose service has stopped (R406). The tile commands of one that waits for a reply stop at once (R406, R407). A pre-empted task
that is still re-establishing its claims leaves its image as it is; a debugger's halt waits until it holds them (R410). An ending bundle with an
access held at its port is parked, and halts (DEDUCED, log 113). -/
def State.halt (s : State) (ctx park : Nat) : State :=
  let c := s.ctx ctx
  let later := s.setCtx ctx fun c => { c with haltReq := park }
  let now := fun (s : State) (a : Nat) =>
    ((s.setCtx ctx fun c => { c with status := .halted park, parkA := a }).takeCommands ctx).post (.imageWrite ctx)
  match c.status with
  | .vacant => s
  | .ended => s
  | .faulted _ => s.post (.faultHandover ctx)
  | .halted _ => s.post (.imageWrite ctx)
  | .ready => now s 0
  | .waiting .reply => later.takeCommands ctx
  | .waiting .mfield => later.takeCommands ctx
  | .waiting w =>
    -- a grant whose bundle has not taken effect is given up like a request (06 R166)
    let s := if c.claiming then (s.setCtx ctx fun c => { c with given := none }).regrant (roomOf (coreOf ctx)) else s
    if (c.given.isSome && !c.claiming) || (w == .fence && c.finishes) || c.starting then later
    else
      match w with
      | .reestablish =>
        if park = 4 then later
        else
          let s := (s.dropRequests ctx).dropClaims ctx
          if park ≠ 2 then now s 0
          else
            -- the image and the block stand unchanged, and the image waits for the release again (R410)
            (s.setHall (s.hallOf (coreOf ctx)) fun h => { h with images := h.images ++ [c.image] }).vacate ctx
      | .claim => now (s.dropRequests ctx) 0
      | .translation _ _ _ =>
        now (s.setCtx ctx fun c => { c with parkedPc := if park = 4 then some (c.pc, w) else none, parkedAsk := c.ask }) w.addr
      | _ => now (s.withdraw ctx) w.addr

/-- A bundle of a context has completed: a fault reply or a halt that waited for the boundary takes hold (10 R236, R408), and a context
with an access held at its port parks (09 R228). -/
def State.boundary (s : State) (ctx : Nat) : State :=
  let c := s.ctx ctx
  if c.status != .ready then s
  else
    match c.lateFault with
    | some f => (s.setCtx ctx fun c => { c with lateFault := none, haltReq := 0 }).raiseAt ctx (if f.late then f else { f with pc := c.pc })
    | none =>
      if c.haltReq = 0 then (if c.relaxed.any (·.held) then s.parkHeld ctx else s)
      else (s.setCtx ctx fun c => { c with haltReq := 0 }).halt ctx c.haltReq

/-- Whether the bundle of a context is a FENCE, which has issued while it waits (13 R299). -/
def Ctx.atFence (c : Ctx) : Bool :=
  match decodeBundle c.bits with
  | .ok (.fence _, _) => true
  | _ => false

/-- A fault that stops a context at its next bundle boundary (10 R236). -/
def State.stopWith (s : State) (ctx : Nat) (f : FaultRec) : State :=
  let c := s.ctx ctx
  match c.status with
  | .vacant => s
  | .ended => s
  | .faulted _ => s.setCtx ctx fun c => { c with others := c.others ++ [f] }
  | .halted p =>
    if p = 2 ∨ p = 4 then (if c.image = 0 then s.raiseAt ctx f else s) else s.setCtx ctx fun c => { c with others := c.others ++ [f] }
  | .waiting .reply => s.setCtx ctx fun c => if c.lateFault.isSome then { c with others := c.others ++ [f] } else { c with lateFault := some f }
  | .waiting .mfield => s.setCtx ctx fun c => if c.lateFault.isSome then { c with others := c.others ++ [f] } else { c with lateFault := some f }
  | .ready => s.raiseAt ctx f
  | .waiting w =>
    if (c.given.isSome && !c.claiming) || (w == .fence && c.atFence) then
      s.setCtx ctx fun c => if c.lateFault.isSome then { c with others := c.others ++ [f] } else { c with lateFault := some f }
    else (((if c.claiming then s.regrant (roomOf (coreOf ctx)) else s).withdraw ctx).dropRequests ctx).raiseAt ctx f

/-! The end of a task that stands in no slot, or that ends without END (06 R165). -/

/-- Ends a task as TASKKILL does: its failures are recorded, its completion future takes the word of ones, LIVE falls. The trace record of a fill that is lost counts
for the core whose context it names (24 R421). -/
def State.killTask (s : State) (hall source : Nat) (core : Option Nat) (gid : Word) (doneFuture : Nat) : State :=
  let s := s.flushAll hall gid
  let s := if doneFuture = 0 then s
    else
      match s.fillOf doneFuture 0xFFFF_FFFF_FFFF_FFFF with
      | some s => s
      | none =>
        let s := s.traceTo hall 0x03 source gid (lostFill doneFuture 0xFFFF_FFFF_FFFF_FFFF)
        match core with
        | some k => s.bump k 28 1
        | none => s
  s.retired' gid

/-- Releases the claims of a context and vacates its slot, with the slot event of 03 R69 (R400 step 6). -/
def State.leave (s : State) (ctx : Nat) : State :=
  ((s.dropClaims ctx).vacate ctx).hearthEvent (coreOf ctx) 3 0 (slotOf ctx)

/-- The image of a debug-halted context, or of one that re-establishes its claims, and its block are dropped when the task leaves its slot otherwise
(R410). -/
def State.dropImage (s : State) (ctx : Nat) : State :=
  let c := s.ctx ctx
  if c.image = 0 then s
  else State.freeBlock { s with images := tdel s.images c.image } (if c.want = 0 then c.image - 0xF_FE00 else c.xsave)

/-- The image of a debug-halted context is dropped before another is written for it (24 R424). One from which claims are still being re-established is kept until then
(R410). -/
def State.dropImage' (s : State) (ctx : Nat) : State := if (s.ctx ctx).want = 0 then (s.dropImage ctx).setCtx ctx fun c => { c with image := 0 } else s

/-- The task in a slot ends as TASKKILL would end it; copy commands that a service stop has halted stay in their queues (10 R253). -/
def State.killCtx (s : State) (ctx : Nat) : State :=
  let c := s.ctx ctx
  let s := s.returnCopies (roomOf (coreOf ctx)) c.heldC
  ((s.killTask (s.hallOf (coreOf ctx)) (s.ctxSource ctx) (some (coreOf ctx)) c.gid c.doneFuture).dropImage ctx).leave ctx

/-! Writing an image. -/

/-- A hand-over or an image waits for the attic at a house address (R398). -/
def State.askAttic (s : State) (ctx h : Nat) (why : XReason) : State :=
  let n := s.nextId
  (State.setCtx { s with nextId := n + 1 } ctx fun c => { c with asked := some h, ask := n }).tell (.unit h why)

/-- What a context leaves in the device's record of its image. -/
def Ctx.imgRec (c : Ctx) (hall room : Nat) (stop : Option Nat) : ImgRec :=
  { gid := c.gid, lrec := c.lrec, queue := c.queue, doneFuture := c.doneFuture, handler := c.isHandler, hall := hall, room := room, stop := stop,
    tiles := c.heldT, lost := c.lostT, copies := c.heldC, grp := c.grp, entered := if c.entered then some c.pc else none }

/-- A task that stops while it re-establishes its claims keeps the block that holds their state, which names its new image (R409, R410). -/
def State.keepBlock (s : State) (ctx image : Nat) : State :=
  let c := s.ctx ctx
  let s := match s.blockPages (s.hallOf (coreOf ctx)) c.xsave rW with
    | .ok s ps => s.bput ps 0x10 8 image
    | _ => s
  State.setCtx { s with images := tdel s.images c.image } ctx fun c => { c with image := 0 }

/-- Takes a block of the pool of a context's hall and saves its state there when it holds claims (R409): `go` is given the address of the block that
holds the state of its claims, or 0 where it has none. The image stands at `image`, or in the block's last 512 bytes where that is none. -/
def State.withBlock (s : State) (ctx : Nat) (image : Option Nat) (go : State → Nat → List Phys → State) : State :=
  let hall := s.hallOf (coreOf ctx)
  let c := s.ctx ctx
  if image.isSome && !c.pinned && c.want = 0 then go s 0 []
  else if image.isSome && c.want ≠ 0 then go (s.keepBlock ctx (image.getD 0)) c.xsave []
  else
    match (s.hall hall).freeBlock with
    | none => s.tell (.poolEmpty hall)
    | some i =>
      let base := (s.hall hall).block i
      match s.blockPages hall base rR, s.blockPages hall base rW with
      | .wait s h why, _ => s.askAttic ctx h why
      | .bad s, _ => s.tell (.poolEmpty hall)
      | .ok s _, .wait _ h why => s.askAttic ctx h why
      | .ok s _, .bad _ => s.tell (.poolEmpty hall)
      | .ok _ _, .ok s ps =>
        let s := s.setHall hall fun h => { h with poolUsed := i :: h.poolUsed }
        let at' := image.getD (base + 0xF_FE00)
        go (if c.pinned then s.saveBlock ctx ps at' else s.bfree ps 0 (blockSize / 8)) base ps

/-- Whether an active pre-emption covers a task of a hall (R406, R408). -/
def covers (p : Preempt) (hall : Nat) (gid : Word) (queue : Nat) : Bool :=
  p.also.contains gid ||
    (if p.kind = 0 then true
     else if p.kind = 1 then bitOf p.halls hall
     else if p.kind = 2 then bitOf p.halls hall && p.which.toNat == queue
     else if p.kind = 3 then fld gid 63 48 == p.which.toNat
     else gid == p.which)

/-- Whether a pre-emption affects a task: it covers the task, which was there as it was requested (23 R406; DEDUCED, log 116). -/
def Preempt.affects (p : Preempt) (hall : Nat) (gid : Word) (queue : Nat) : Bool := covers p hall gid queue && p.who.contains gid

/-! Groups (02 R41 to R43). -/

/-- Group indices of GRP that name gangs. -/
def State.gangsOf (s : State) (lnum : Nat) (grp : Word) : List Nat :=
  match s.launch? lnum with
  | none => []
  | some l =>
    ((List.range 4).filterMap fun i =>
      let e := bits grp.toNat (16 * i + 15) (16 * i)
      if bitOf e 15 then some (e % 256) else none).filter fun j =>
        match l.groups[j]? with
        | some g => g.gang
        | none => false

/-- The tasks of a launch that are resident or in migration. -/
def State.tasksOf (s : State) (lnum : Nat) : List Ctx :=
  ((s.ctxs.map (·.2)) ++ s.flights.map fun e => e.2.task).filter fun c => c.lnum == lnum && c.status != .vacant && c.status != .ended

/-- Pre-empted images of a launch's tasks: those that belong to no gang stop and stand for no context in its slot. -/
def State.imagesOf (s : State) (lnum : Nat) : List ImgRec :=
  (s.images.filter fun e => fld e.2.gid 63 48 == lnum && e.2.stop.isNone && !s.ctxs.any fun c => c.2.image == e.1).map (·.2)

/-- Gangs reached from some gangs through the tasks of a launch that share a gang, after `n` rounds (02 R43, R404 step 1). -/
def State.gangClosure (s : State) (lnum : Nat) : Nat → List Nat → List Nat
  | 0, js => js
  | n + 1, js =>
    let more := ((s.tasksOf lnum).map Ctx.grp ++ (s.imagesOf lnum).map ImgRec.grp).flatMap fun grp =>
      let gs := s.gangsOf lnum grp
      if gs.any js.contains then gs else []
    s.gangClosure lnum n (js ++ (more.filter fun j => !js.contains j).eraseDups)

/-- Resident members of some gangs, by increasing serial. -/
def State.gangMembers (s : State) (lnum : Nat) (js : List Nat) : List Nat :=
  let ms := s.ctxs.filter fun e =>
    e.2.lnum == lnum && e.2.status != .vacant && e.2.status != .ended && (s.gangsOf lnum e.2.grp).any js.contains
  (sortUp (fun a => fld a.2.gid 47 0) ms).map (·.1)

/-- Whether a task is a member of some gangs. -/
def State.inGangs (s : State) (lnum : Nat) (js : List Nat) (c : Ctx) : Bool := c.lnum == lnum && (s.gangsOf lnum c.grp).any js.contains

/-- Whether a member of some gangs is in migration. -/
def State.gangFlying (s : State) (lnum : Nat) (js : List Nat) : Bool := s.flights.any fun e => s.inGangs lnum js e.2.task

/-- Members of some gangs that are in migration stop with a PARK reason at their owners (03 R79, R404 step 1). -/
def State.haltFlying (s : State) (lnum park : Nat) (js : List Nat) : State :=
  { s with flights := s.flights.map fun e =>
      if s.inGangs lnum js e.2.task then (e.1, { e.2 with task := { e.2.task with haltReq := park } }) else e }

/-- The members of some gangs that go on together after a pre-emption, resident, in migration or as images, each once by its GTID (02 R43). -/
def State.gangTasks (s : State) (lnum : Nat) (js : List Nat) : List Word :=
  ((((s.tasksOf lnum).filter (s.inGangs lnum js)).map Ctx.gid) ++
    ((s.imagesOf lnum).filter fun x => (s.gangsOf lnum x.grp).any js.contains).map ImgRec.gid).eraseDups

/-- The key of the gang in which the task of a pre-empted image goes on, and the hall in which its members come together (02 R43, R408): that where the gang started,
while it is in service, else the lowest in which one of their images stands. None for a task of no gang. How many they are is looked at as they start. -/
def State.gangAgain (s : State) (r : ImgRec) : Option ((Nat × Nat) × Nat) :=
  let lnum := fld r.gid 63 48
  let own := s.gangsOf lnum r.grp
  if own.isEmpty then none
  else
    let js := s.gangClosure lnum 256 own
    let key := js.foldl min (js.headD 0)
    let halls := ((s.imagesOf lnum).filter fun x => (s.gangsOf lnum x.grp).any js.contains).map ImgRec.hall
    let hall := (((s.launch? lnum).bind fun l => tfind l.gangHall key).filter s.hallOpen).getD (halls.foldl min r.hall)
    some ((2 ^ 21 + key, 0), hall)

/-- The start that resumes the task of an image at `a`; that of a device's copy stands for the image's own address (log 25). -/
def State.resumeOf (s : State) (a : Nat) (r : ImgRec) : State × Start :=
  let st : Start := { lnum := fld r.gid 63 48, gid := r.gid, entry := 0, regs := [], segs := [], hnd := 0, grp := 0, lrec := r.lrec,
                      queue := r.queue, doneFuture := r.doneFuture, handler := r.handler, image := some a }
  if copyBase ≤ a then
    ({ s with shadow := tput [] s.shadow r.home (tget [] s.shadow r.home ++ [a]) }, { st with image := some r.home })
  else (s, st)

/-- The task of an image waits to be resumed in its hall (06 R165, R408), a pre-empted gang member's with its gang; one that did not start with the others, as the
overflowing task of 02 R42, is resumed by itself. Where the hall takes no task the start waits (DESIGN CHOICE, log 115). -/
def State.requeue (s : State) (hall a : Nat) (alone : Bool := false) : State :=
  match tfind s.images a with
  | none => s
  | some r =>
    let (s, st) := s.resumeOf a r
    let (st, hall) := match if alone then none else s.gangAgain r with
      | some (g, h) => ({ st with gang := some g }, h)
      | none => (st, hall)
    (s.setHall hall fun h => { h with waiting := h.waiting ++ [st] }).post (.slotEvent hall)

/-- The context holds no access in flight, and the commands that are not saved with it are complete, so that its image may be written (02 R32,
13 R302). -/
def State.quiet (s : State) (ctx : Nat) : Bool :=
  let c := s.ctx ctx
  c.relaxed.isEmpty && c.frontQ.isEmpty && (s.copiesOf ctx c.gid).isEmpty && s.stayingTiles ctx == 0

/-- The reduction-fault record of a context whose log is handed over as its image is written (14 R318). -/
def State.logFaultRec (s : State) (c : Ctx) : FaultRec :=
  { kind := 0x13, pc := c.pc, info0 := word c.rlogWord, late := true, stamp := word s.now }

/-- Writes the image of a context halted by a pre-emption or for debug, or frozen, into a block of its hall's pool (R408, R409; 24 R424,
R427). A log that is not empty hands the task to its handler in place of the image (14 R318); that of a task of launch 0 goes to the attic by
message, and no log accompanies its image (R400; log 82). -/
def State.poolImage (s : State) (ctx park : Nat) : State :=
  let c := s.ctx ctx
  let hall := s.hallOf (coreOf ctx)
  if c.image ≠ 0 ∨ s.quiet ctx = false then s
  else if !c.rlog.isEmpty && park != 3 && c.lnum != 0 then s.raiseAt ctx (s.logFaultRec c)
  else
    let s :=
      if c.rlog.isEmpty || park == 3 then s
      else (s.setCtx ctx fun c => { c with rlog := [], rovf := false }).tell (.fault c.gid ctx (s.logFaultRec c))
    s.withBlock ctx none fun s base ps =>
      let a := base + 0xF_FE00
      let x := if c.pinned then base else 0
      let s := s.bputWs ps 0xF_FE00 (c.imageWords park c.parkA x 0)
      let s := { s with images := tset s.images a (c.imgRec hall (roomOf (coreOf ctx)) none) }
      if park = 2 then
        let held := s.preempts.any fun p => covers p hall c.gid c.queue
        let s := if held then s.setHall hall fun h => { h with images := h.images ++ [a] } else s.requeue hall a
        s.leave ctx
      else s.setCtx ctx fun c => { c with image := a }

/-! Hand-over (R398, R400, R401). -/

/-- Whether a handler can be started for a context (R400 step 4). -/
def State.canHandle (s : State) (ctx : Nat) : Bool :=
  let c := s.ctx ctx
  match s.launch? c.lnum with
  | none => false
  | some l => c.hnd != 0 && l.serialsLeft (s.hallOf (coreOf ctx) / 4)

/-- The words of a log entry: its record of KIND 0x1C and the eight slots (14 R317, R318). -/
def logWords (c : Ctx) (record : Nat) (stamp : Word) : List Word :=
  let one := fun (e : LogEntry) =>
    [word e.h, e.operand, word (e.op + 32 * e.sz + 256 * e.reason), e.pc]
  recordWords { kind := 0x1C, pc := 0, addr := word record, info0 := word c.rlogWord, stamp := stamp } c.gid 0 0 0 0 ++
    ((c.rlog.flatMap one) ++ List.replicate 64 0).take 64

/-- Spawns a handler (R401): g1 the image handle, g2 the record's address, g3 its HEAD. -/
def State.spawnHandler (s : State) (hall : Nat) (c : Ctx) (hnd : Word) (g1 g2 : Nat) (head : Word) : State :=
  s.addSpawn hall
    { lnum := c.lnum, gid := 0, entry := hnd, regs := tput 0 (tput 0 (tput 0 [] 1 (word g1)) 2 (word g2)) 3 head, segs := c.segs,
      hnd := ((s.launch? c.lnum).map Launch.handler).getD 0, grp := 0, lrec := c.lrec, queue := c.queue, handler := true, serves := c.gid }

/-- Further fault replies take entries of their own (10 R236). -/
def State.recordOthers (s : State) (hall : Nat) (c : Ctx) (source : Nat) : State :=
  c.others.foldl (fun s f => s.lateRecord (s.launchKey c.gid c.lrec) hall { f with late := true } c.gid source) s

/-- Writes words at a house address; the caller has checked that they can be written. -/
def State.houseWords (s : State) (hall h : Nat) (ws : List Word) : State :=
  match s.houseWrite hall h ws with
  | .ok s _ => s
  | .wait s _ _ => s
  | .bad s => s

/-- The record of a frozen context (24 R427): FLAGS.DUMP set and IMAGE 0. -/
def State.frozenRecord (s : State) (x : Nat × FaultRec) : List Word :=
  recordWords x.2 (s.ctx x.1).gid (s.ctxSource x.1) (flagsOf false x.2.late false + 8) 0 0

/-- The image of a frozen context that no pool holds yet, with the state block that its claims need (24 R426, R427): both as they will be written. -/
def State.unsavedImage (s : State) (ctx : Nat) : List Word :=
  let c := s.ctx ctx
  let ps := (List.range 16).map fun i => Phys.host (0x1_0000 * i)
  let t := State.saveBlock { s with mem := [] } ctx ps 0
  c.imageWords 3 c.parkA 0 0 ++ (if c.pinned then (List.range (blockSize / 8)).map fun i => word (t.bget ps (8 * i) 8) else [])

/-- A record that comes when the late records stand in the dump already joins them (24 R427). -/
def Dump.join (d : Dump) (ws : List Word) : Dump :=
  { d with area := d.area ++ ws, sections := d.sections.map fun x => if x.1 = 6 then (6, x.2 + 1) else x,
           spans := (d.sections.zip d.spans).map fun x => if x.1.1 = 6 then (x.2.1, x.2.2 + 8 * ws.length) else x.2 }

/-- Whether a faulted context is frozen: its fault was raised after the crash kernel's pre-emption was requested (24 R427, 23 R408). -/
def State.freezes (s : State) (ctx : Nat) : Bool :=
  let d := s.attic.dump
  d.requested && !(d.before.contains ctx && decide ((s.ctx ctx).lostAt ≤ d.askedAt))

/-- Frozen contexts (24 R427): the record goes to the hall's freeze log and to the dump, the image to the state pool. -/
def State.freeze (s : State) (ctx : Nat) (f : FaultRec) : State :=
  let hall := s.hallOf (coreOf ctx)
  let s := s.setHall hall fun h =>
    if h.freeze.length < 64 then { h with freeze := h.freeze ++ [(ctx, f)] } else { h with freezeOver := h.freezeOver + 1 }
  let d := s.attic.dump
  let d := if d.sections.any (·.1 == 6) then d.join (s.frozenRecord (ctx, f) ++ s.unsavedImage ctx)
    else if d.sections.any (·.1 == 2) then { d with late := d.late ++ [(ctx, f)] } else { d with images := d.images ++ [(ctx, f)] }
  let s := { s with attic := { s.attic with dump := d } }
  (s.setCtx ctx fun c => { c with status := .halted 3 }).post (.imageWrite ctx)

/-- Hand-over of a task that belongs to no gang (R400 steps 4 to 7). -/
def State.handOver (s : State) (ctx : Nat) (f : FaultRec) : State :=
  let c := s.ctx ctx
  let hall := s.hallOf (coreOf ctx)
  let source := s.ctxSource ctx
  match s.launch? c.lnum with
  | none => s.leave ctx
  | some l =>
    let can := s.canHandle ctx
    let logged := can && !c.rlog.isEmpty
    let need := if logged then 2 else 1
    match s.freeEntries hall l need 0 with
    | .wait s h why => s.askAttic ctx h why
    | .bad s => (s.worst c.lnum 4).killCtx ctx
    | .ok s es =>
      if es.length < need then (s.worst c.lnum 4).killCtx ctx
      else
        let j := es.headD 0
        let at' := l.entryAt j
        let f := if f.kind = 0x13 && logged then { f with addr := word (l.entryAt (es.getD 1 0) + 64) } else f
        let s := s.takeEntries hall l es
        if can then
          (s.dropImage' ctx).withBlock ctx (some (at' + 64)) fun s base _ =>
            let s := s.houseWords hall (at' + 64) (c.imageWords 3 c.parkA base c.rlogWord)
            let s := { s with images := tset s.images (at' + 64) (c.imgRec hall (roomOf (coreOf ctx)) none) }
            let flags := flagsOf true f.late false
            let s := s.houseWords hall at' (recordWords f c.gid source flags 0 (at' + 64))
            let s := if logged then s.houseWords hall (l.entryAt (es.getD 1 0)) (logWords c at' f.stamp) else s
            let s := (s.setUsed c.lnum (· + need)).recordOthers hall c source
            let s := s.spawnHandler hall c c.hnd (at' + 64) at' (headWord f source flags 0)
            s.leave ctx
        else
          let s := s.houseWords hall at' (recordWords f c.gid source (flagsOf false f.late false) 0 0)
          let s := (s.setUsed c.lnum (· + 1)).recordOthers hall c source
          let s := s.traceTo hall 0x05 source c.gid (at' + f.kind * 2 ^ 64 + f.reason % 256 * 2 ^ 72)
          s.killCtx ctx

/-! Gang stops (R404, R405). -/

/-- Whether a status is that of a lost member. -/
def CStatus.lost : CStatus → Option FaultRec
  | .faulted f => some f
  | _ => none

/-- The record of a stopped member: its own fault, or KIND 0x1B (R404 step 4). -/
def memberFault (c : Ctx) (stamp : Word) : FaultRec := (c.status.lost).getD { kind := 0x1B, pc := c.pc, stamp := stamp }

/-- Whether every hall's pool has a reachable free block for each member that holds claims (R409); else where the stop waits. -/
def State.blocksFor (s : State) (ctx : Nat) : List Nat → State × Bool
  | [] => (s, true)
  | m :: t =>
    let hall := s.hallOf (coreOf m)
    let needs := fun x => (s.ctx x).pinned && (s.ctx x).want == 0
    let earlier := (t.filter fun x => needs x && s.hallOf (coreOf x) == hall).length
    if !needs m then s.blocksFor ctx t
    else
      match ((List.range (s.hall hall).poolCount).filter fun i => !(s.hall hall).poolUsed.contains i)[earlier]? with
      | none => (s.tell (.poolEmpty hall), false)
      | some i =>
        match s.blockPages hall ((s.hall hall).block i) rW with
        | .wait s h why => (s.askAttic ctx h why, false)
        | .bad s => (s.tell (.poolEmpty hall), false)
        | .ok s _ => s.blocksFor ctx t

/-- Members with a reduction log, each with a log entry of its own from the entries that follow the gang record (14 R318; log 83). -/
def State.logEntries (s : State) : List Nat → List Nat → List (Nat × Nat)
  | [], _ => []
  | m :: t, es =>
    if (s.ctx m).rlog.isEmpty then s.logEntries t es
    else
      match es with
      | j :: js => (m, j) :: s.logEntries t js
      | [] => []

/-- Writes each member's image and record (R404 step 4), with its log where it has one (14 R318), or ends the members when no handler can be
started (R400 step 7). -/
def State.writeMembers (s : State) (l : Launch) (stop : Nat) (can : Bool) (logs : List (Nat × Nat)) : List (Nat × Nat) → State
  | [] => s
  | (ctx, j) :: t =>
    let c := s.ctx ctx
    let hall := s.hallOf (coreOf ctx)
    let at' := l.entryAt j
    let source := s.ctxSource ctx
    let f := memberFault c (word s.now)
    if can then
      ((s.dropImage' ctx).withBlock ctx (some (at' + 64)) fun s base _ =>
        let log := logs.find? fun e => e.1 == ctx
        let f := match log with
          | some e => if f.kind = 0x13 then { f with addr := word (l.entryAt e.2 + 64) } else f
          | none => f
        let s := s.houseWords hall (at' + 64) (c.imageWords (if c.status.lost.isSome then 3 else 5) c.parkA base (if log.isSome then c.rlogWord else 0))
        let s := { s with images := tset s.images (at' + 64) (c.imgRec hall (roomOf (coreOf ctx)) (some stop)) }
        let s := s.houseWords hall at' (recordWords f c.gid source (flagsOf true f.late true) stop (at' + 64))
        let s := match log with
          | some e => s.houseWords hall (l.entryAt e.2) (logWords c at' f.stamp)
          | none => s
        (((s.setUsed c.lnum fun u => u + if log.isSome then 2 else 1).leave ctx))).writeMembers l stop can logs t
    else
      let s := s.houseWords hall at' (recordWords f c.gid source (flagsOf false f.late true) stop 0)
      let s := s.traceTo hall 0x05 source c.gid (at' + f.kind * 2 ^ 64 + f.reason % 256 * 2 ^ 72)
      ((s.setUsed c.lnum (· + 1)).killCtx ctx).writeMembers l stop can logs t

/-- The lost member that counts as the first: the one lost earliest, and of those lost in one cycle the one of the lowest serial (R404). -/
def State.firstLost (s : State) (ms : List Nat) : Option Nat :=
  ms.foldl (fun best m =>
    if (s.ctx m).status.lost.isNone then best
    else
      match best with
      | some b => if (s.ctx m).lostAt < (s.ctx b).lostAt then some m else best
      | none => some m) none

/-- Another member of a lost member's gang stops (R404 step 1), one that a pre-emption has halted and whose image is still to be written too. -/
def State.stopMember (s : State) (ctx : Nat) : State :=
  let c := s.ctx ctx
  if c.status = .halted 2 ∧ c.image = 0 then (s.setCtx ctx fun c => { c with status := .halted 5 }).post (.imageWrite ctx) else s.halt ctx 5

/-- The members of a stop end without a record (R404 step 3); its STOP number has been assigned. -/
def State.endMembers (s : State) (lnum : Nat) (ms : List Nat) : State :=
  ms.foldl State.killCtx ((s.setLaunch lnum fun l => { l with stopNo := (l.stopNo + 1) % 256 }).worst lnum 4)

/-- Gang stop of a lost member (R404): every member of its gangs stops, one in migration at its owner; once all are quiet, their records, the
gang record, their logs and one handler follow, or all end where entries are too few. -/
def State.gangStop (s : State) (ctx : Nat) : State :=
  let c := s.ctx ctx
  let lnum := c.lnum
  match s.launch? lnum, c.status.lost with
  | some l, some _ =>
    let js := s.gangClosure lnum l.groups.length (s.gangsOf lnum c.grp)
    let ms := s.gangMembers lnum js
    let s := s.haltFlying lnum 5 js
    let s := ms.foldl (fun s m => if (s.ctx m).status.lost.isSome then s.takeCommands m else s.stopMember m) s
    let stopped := ms.all fun m =>
      match (s.ctx m).status with
      | .faulted _ => s.quiet m
      | .halted _ => s.quiet m
      | _ => false
    let first := (s.firstLost ms).getD ctx
    let c := s.ctx first
    let hall := s.hallOf (coreOf first)
    if !stopped || s.gangFlying lnum js || c.asked.isSome then s
    else
      let k := ms.length
      let lost := (ms.filter fun m => (s.ctx m).status.lost.isSome).length
      let can := s.canHandle first
      let need := k + 1 + if can then (ms.filter fun m => !(s.ctx m).rlog.isEmpty).length else 0
      match s.freeEntries hall l need 0 with
      | .wait s h why => s.askAttic first h why
      | .bad s => s.endMembers lnum ms
      | .ok s es =>
        if es.length < need then s.endMembers lnum ms
        else
          match s.blocksFor first (if can then ms else []) with
          | (s, false) => s
          | (s, true) =>
            let stop := l.stopNo
            let cs := ms.map fun m => (s.ctx m, s.hallOf (coreOf m), s.ctxSource m)
            let source := s.ctxSource first
            let stamp := (memberFault c 0).stamp
            let s := s.takeEntries hall l es
            let s := s.writeMembers l stop can (if can then s.logEntries ms (es.drop (k + 1)) else []) (ms.zip es)
            let s := s.setLaunch lnum fun l => { l with stopNo := (stop + 1) % 256 }
            let g := es.getD k 0
            let r : FaultRec := { kind := 0x1A, pc := 0, info0 := word (k + lost * 2 ^ 16 + js.headD 0 * 2 ^ 32 + stop * 2 ^ 40), stamp := stamp }
            let flags := flagsOf false false true
            let s := s.houseWords hall (l.entryAt g) (recordWords r c.gid source flags stop 0)
            let s := s.setUsed lnum (· + 1)
            let s := cs.foldl (fun s x => s.recordOthers x.2.1 x.1 x.2.2) s
            if can then s.spawnHandler hall c c.hnd 0 (l.entryAt g) (headWord r source flags stop) else s
  | _, _ => s

/-- Whether a context has halted for a pre-emption (R406): one that waits for a reply has, but for a hearth whose SLOTSTART completes first. -/
def Ctx.halted (c : Ctx) : Bool :=
  match c.status with
  | .ready => false
  | .waiting .reply => c.haltReq == 2
  | .waiting .mfield => c.haltReq == 2
  | .waiting _ => false
  | _ => true

/-- Whether every context that a pre-emption affects has halted; a task in migration has when it stands in its owner's inbox (R407). -/
def State.halted (s : State) (p : Preempt) : Bool :=
  (s.ctxs.all fun e => !p.affects (s.hallOf (coreOf e.1)) e.2.gid e.2.queue || e.2.halted) &&
    s.flights.all fun e =>
      !p.affects (s.hallOf e.2.target) e.2.task.gid e.2.task.queue || (s.core e.2.target).inbox.contains e.1

/-- The command that a pre-emption stands for (25 R430 command 0x02). -/
def Preempt.event (p : Preempt) : Command := .preempt p.kind p.halls p.which p.service

/-- Pre-emptions that are now complete give their results to the attic, and the images of their contexts are written (R407; 25 R430 command 0x02). -/
def State.reportPreempts (s : State) : State :=
  let now := s.preempts.filter fun p => !p.told && s.halted p
  let out := s.ctxs.filter fun e => e.2.status == .halted 2 && e.2.image == 0 && now.any fun p => p.affects (s.hallOf (coreOf e.1)) e.2.gid e.2.queue
  let told := s.preempts.map fun p => if !p.told && s.halted p then { p with told := true } else p
  let s := (now.filter (·.command)).foldl (fun s p => s.finished p.event 0) { s with preempts := told }
  let s := s.postAll (out.map fun e => .imageWrite e.1)
  s.postAll (((List.range 32).filter fun h => (s.hall h).service = .leaving && now.any fun p => p.kind == 1 && bitOf p.halls h).map fun h => .slotEvent h)

/-- GANG_STOP (R404). -/
def execGangStop (ctx : Nat) (s : State) : Res := .next (s.gangStop ctx)

/-- FAULT_HANDOVER (R400): a faulted task whose accesses and copy commands have completed is frozen under a dump, stopped with its gang, or
handed to a handler. -/
def execFaultHandover (ctx : Nat) (s : State) : Res :=
  let c := s.ctx ctx
  match c.status with
  | .faulted f =>
    let s := s.takeCommands ctx
    if !s.quiet ctx || c.asked.isSome then .next s
    else if s.freezes ctx then .next (s.freeze ctx f)
    else if !(s.gangsOf c.lnum c.grp).isEmpty then .next (s.gangStop ctx)
    else .next (s.handOver ctx f)
  | _ => .next s

/-- Whether a pre-emption that covers a context is still to be completed (R407): no image is written before. -/
def State.incomplete (s : State) (ctx : Nat) : Bool :=
  let c := s.ctx ctx
  s.preempts.any fun p => !p.told && p.affects (s.hallOf (coreOf ctx)) c.gid c.queue

/-- IMAGE_WRITE (R407 to R409, 24 R424): the image of a halted context, once its accesses and copy commands have completed, and the pre-emption that has halted it. A hearth that a pre-emption has stopped stays resident without an image (03 R71; log 24). -/
def execImageWrite (ctx : Nat) (s : State) : Res :=
  let c := s.ctx ctx
  match c.status with
  | .halted park =>
    let s := s.takeCommands ctx
    if c.asked.isSome then .next s
    else if park = 5 then
      let js := s.gangClosure c.lnum 256 (s.gangsOf c.lnum c.grp)
      match (s.gangMembers c.lnum js).find? fun m => (s.ctx m).status.lost.isSome with
      | some m => .next (s.gangStop m)
      | none => .next s
    else if park = 2 ∧ ((slotOf ctx = 0 ∧ isPorch (coreOf ctx) = false) ∨ s.incomplete ctx = true) then .next s
    else .next (s.poolImage ctx park)
  | _ => .next s

/-! Claims of a resumed task (R410). -/

/-- L of a CLAIM word's lane claim, or 0. -/
def claimLanes (w : Word) : Nat := if fld w 0 0 = 1 then 8 * 2 ^ fld w 2 1 else 0

/-- Tile set of a CLAIM word. -/
def claimSet (w : Word) : Nat := fld w 35 16 * 2 ^ 16

/-- Whether a saved state block stands where the image says: its header names the claims and the image (02 R33). -/
def State.blockOk (s : State) (hall : Nat) (ws : List Word) (a : Nat) : House Bool :=
  let claim := imgWord ws 0x188
  if claim = 0 then .ok s true
  else
    match s.houseRead hall (imgWord ws 0x1A0).toNat 3 with
    | .ok s hs => .ok s (hs.headD 0 == claim && (hs.getD 2 0).toNat == a)
    | .wait s h why => .wait s h why
    | .bad s => .ok s false

/-- A task that has just been started or resumed is halted where a pre-emption that affects it was requested meanwhile (23 R406; 02 R43). -/
def State.haltStarted (s : State) (ctx : Nat) : State :=
  let c := s.ctx ctx
  if s.preempts.any fun p => p.affects (s.hallOf (coreOf ctx)) c.gid c.queue then s.halt ctx 2 else s

/-- Loads the task of an image into a slot (06 R155, 24 R424); with claims to re-establish it waits for them (R410). A block of a state pool in
whose last bytes the image of a task without claims stands returns to its pool. -/
def State.loadImage (s : State) (ctx : Nat) (ws : List Word) (r : ImgRec) (a : Nat) : State :=
  let c := ctxOf ws r
  if c.want = 0 then
    (State.freeBlock { s with images := tdel s.images a, ctxs := tset s.ctxs ctx { c with xsave := 0, image := 0 } } (a - 0xF_FE00)).rejoin ctx
  else
    ({ s with ctxs := tset s.ctxs ctx { c with status := .waiting .reestablish, image := a } }).post (.claimReestablish ctx)

/-- Makes a migrated task occupy a slot (03 R78): what was asked of it on its way takes hold before it issues (03 R79). -/
def State.land (s : State) (id : Nat) (f : Flight) (ctx : Nat) : State :=
  let s := { s with flights := tdel s.flights id, ctxs := tset s.ctxs ctx f.task }
  (s.bump f.target 27 1).boundary ctx

/-- The starts on their way to a core, by their slots and the latest first, go back to where they came from, in their old order (23 R403, 25
R433; log 34): the core's inbox, or the tasks that wait in the hall. -/
def State.takeBack (s : State) (core : Nat) : List Nat → State
  | [] => s
  | i :: is =>
    let cell := 64 * (16 * core + i)
    match tfind s.cells cell with
    | none => s.takeBack core is
    | some t =>
      let s := { s with cells := tdel s.cells cell }
      match t.flight with
      | some id => (s.setCore core fun k => { k with inbox := id :: k.inbox }).takeBack core is
      | none => (s.setHall (core / 192) fun h => { h with waiting := t :: h.waiting }).takeBack core is

end Sys2Proof.Machine
end

