-- ==== Sys2Proof/Machine/Place.lean ====
section
/-! DEFINITION. Placement in a hall: groups and gangs of index tasks (02 R41 to R43), the queue table (03 R50, R66), slot ownership (R67,
R68), the pairing of waiting tasks with slots (R69, R74) and the rotation's slot classes (05 R123). -/

namespace Sys2Proof.Machine

/-! Groups. -/

/-- Whether a serial belongs to a group (R41). -/
def Group.has (g : Group) (serial : Nat) : Bool :=
  decide (g.first ≤ serial) && (serial - g.first) % g.stride == 0 && decide ((serial - g.first) / g.stride < g.count)

/-- Indices of the groups that hold a serial, in table order. -/
def Launch.groupsOf (l : Launch) (serial : Nat) : List Nat :=
  (List.range l.groups.length).filter fun j =>
    match l.groups[j]? with
    | some g => g.has serial
    | none => false

/-- GRP of an index task: its first four groups (02 R36, R42). -/
def grpWord (js : List Nat) : Word := word ((js.take 4).zipIdx.map fun x => (0x8000 + x.1) * 2 ^ (16 * x.2)).sum

/-- Members of group `j` when it is a gang, but for those in more than four groups, which do not start (R42, R43). -/
def Launch.gangSerials (l : Launch) (j : Nat) : List Nat :=
  match l.groups[j]? with
  | some g =>
    if g.gang then ((List.range g.count).map fun i => g.first + i * g.stride).filter fun s => decide ((l.groupsOf s).length ≤ 4) else []
  | none => []

/-- Gangs that share members with some gangs, after `n` rounds: they start together, since every member of each is resident or none is. -/
def Launch.component (l : Launch) : Nat → List Nat → List Nat
  | 0, js => js
  | n + 1, js =>
    let more := (js.flatMap l.gangSerials).flatMap fun s => (l.groupsOf s).filter fun j =>
      match l.groups[j]? with
      | some g => g.gang && !js.contains j
      | none => false
    if more.isEmpty then js else l.component n (js ++ more.eraseDups)

/-- The gang that an index task starts with: its lowest group and the number of tasks that start together (R43); none for a task of no
gang. -/
def Launch.gangOf (l : Launch) (serial : Nat) : Option (Nat × Nat) :=
  let js := (l.groupsOf serial).filter fun j =>
    match l.groups[j]? with
    | some g => g.gang
    | none => false
  if js.isEmpty || decide (4 < (l.groupsOf serial).length) then none
  else
    let all := l.component l.groups.length js
    some (all.foldl min (all.headD 0), ((all.flatMap l.gangSerials).eraseDups).length)

/-! Tasks in more than four groups (R42). -/

/-- Puts aside an overflowing task whose record waits for the attic. -/
def State.holdOver (s : State) (hall : Nat) (t : Start) (h : Nat) (why : XReason) : State :=
  (s.setLaunch t.lnum fun l => { l with overQ := l.overQ ++ [(hall, t)] }).tell (.unit h why)

/-- The group-overflow record of a task that is not started, and its handler, with an image whose PC is the entry header (R42). Such a task
is live until its image ends (02 R37). The SOURCE of that record is the model's choice: the hall, core 0, slot 0, unit 4 (DESIGN CHOICE, log 100). -/
def State.overflow (s : State) (hall : Nat) (t : Start) : State :=
  let lost := fun (s : State) => ((s.worst t.lnum 4).setLaunch t.lnum fun l => { l with live := l.live + 1 }).killTask hall 0 none t.gid 0
  match s.launch? t.lnum with
  | none => s
  | some l =>
    let c : Ctx := { pc := t.entry, g := t.regs, segs := t.segs, gid := t.gid, grp := t.grp, hnd := t.hnd, lrec := t.lrec, queue := t.queue }
    match s.freeEntry hall l 0 l.fcap with
    | .wait s h why => s.holdOver hall t h why
    | .bad s => lost s
    | .ok s none => lost s
    | .ok s (some j) =>
      let at' := l.entryAt j
      let f : FaultRec := { kind := 0x19, pc := t.entry, info0 := word (l.groupsOf (fld t.gid 47 0)).length, stamp := word s.now }
      let source := sourceOf hall 0 0 4
      let s := ((s.takeEntry hall at').setLaunch t.lnum fun l =>
        { l with live := l.live + 1, started := l.started + 1 }).recordWrite t.lnum 0x50 8 (l.live + 1)
      if t.hnd != 0 && l.serialsLeft (hall / 4) then
        let s := s.houseWords hall (at' + 64) (c.imageWords 3 0 0 0)
        let s := { s with images := tset s.images (at' + 64) (c.imgRec hall (24 * hall) none) }
        let s := s.houseWords hall at' (recordWords f t.gid source (flagsOf true false false) 0 (at' + 64))
        (s.setUsed t.lnum (· + 1)).spawnHandler hall c t.hnd (at' + 64) at' (headWord f source (flagsOf true false false) 0)
      else
        let s := s.houseWords hall at' (recordWords f t.gid source 0 0 0)
        let s := (s.setUsed t.lnum (· + 1)).traceTo hall 0x05 source t.gid (at' + f.kind * 2 ^ 64)
        s.killTask hall source none t.gid 0

/-! The queue table (R66). -/

/-- Contexts of the worker slots of a hall that hold a task. -/
def State.residents (s : State) (hall : Nat) : List (Nat × Ctx) :=
  s.ctxs.filter fun e => !isPorch (coreOf e.1) && coreOf e.1 / 192 == hall && slotOf e.1 != 0 && e.2.status != .vacant

/-- Tasks that have been sent their start event and have not taken their slot, with those in the inboxes of a hall's cores (R69, R78; 15 R331):
queue and launch. -/
def State.coming (s : State) (hall : Nat) : List (Nat × Nat) :=
  ((s.cells.filter fun e => coreOf (e.1 / 64) / 192 == hall).map fun e => (e.2.queue, e.2.lnum)) ++
    (s.flights.filter fun f => !isPorch f.2.target && f.2.target / 192 == hall && (s.core f.2.target).inbox.contains f.1).map fun f =>
      (f.2.task.queue, f.2.task.lnum)

/-- Queues that are runnable in a hall: a task of theirs waits to start there or occupies a slot there. Those that have been so longest come
first, then those whose tasks wait, the oldest first. -/
def State.runnable (s : State) (hall : Nat) : List Nat :=
  let qs := ((s.hall hall).waiting.map Start.queue) ++ (s.coming hall).map (·.1) ++ (s.residents hall).map fun e => e.2.queue
  ((s.hall hall).order.filter qs.contains ++ qs).eraseDups

/-- Weight of a queue in a hall: the largest of its live launches that have tasks there. -/
def State.weightOf (s : State) (hall queue : Nat) : Nat :=
  let here := ((s.hall hall).waiting.map Start.lnum) ++ (s.coming hall).map (·.2) ++ (s.residents hall).map fun e => e.2.lnum
  (s.launches.filter fun e => e.2.queue == queue && here.contains e.1).foldl (fun w e => max w e.2.weight) 0

/-- Worker slots that a queue owns on a core. -/
def State.owned (s : State) (core queue : Nat) : Nat :=
  ((List.range 15).filter fun i => tget 0 (s.core core).owners (i + 1) == queue).length

/-- Worker slots that a queue owns in a hall. -/
def State.ownedIn (s : State) (hall queue : Nat) : Nat := ((List.range 192).map fun c => s.owned (192 * hall + c) queue).sum

/-- House address of an entry of a hall's queue table (R50). -/
def queueAddr (hall i : Nat) : Nat := 0xF_0000_0000 + hall * 0x100_0000 + 0x1000 + 8 * i

/-- A queue-table entry's word (R50). -/
def queueWord (slots weight queue : Nat) : Nat := 2 ^ 63 + slots / 16 * 2 ^ 32 + weight * 2 ^ 16 + queue

/-- Frees the entries of queues that are no longer runnable, gives the lowest free entries to queues that need one, the first to become
runnable first, and shows the table's words (R50, R66). -/
def State.refreshQueues (s : State) (hall : Nat) : State :=
  let qs := s.runnable hall
  let kept := (s.hall hall).queues.filter fun e => qs.contains e.2.queue
  let t := qs.foldl (fun (t : Tab QEntry) q =>
    if t.any fun e => e.2.queue == q then t
    else
      match lowest (fun i => !(t.any fun e => e.1 == i)) 0 256 with
      | some i => tset t i { queue := q, weight := 0 }
      | none => t) kept
  let t := t.map fun e => (e.1, { e.2 with weight := s.weightOf hall e.2.queue })
  let old := (s.hall hall).queues
  let s := s.setHall hall fun h => { h with queues := t, order := qs }
  let s := old.foldl (fun s e => s.store (queueAddr hall e.1) 8 0) s
  t.foldl (fun s e => s.store (queueAddr hall e.1) 8 (queueWord (s.ownedIn hall e.2.queue) e.2.weight e.2.queue)) s

/-! The arbiter (R67). -/

/-- Place of a queue in the rotating order of core `c`. -/
def queueRank (c q : Nat) : Nat := (q + 65536 - c % 65536) % 65536

/-- The element of largest value, ties to the lowest rank. -/
def best (value rank : Nat → Nat) : List Nat → Option Nat
  | [] => none
  | x :: t =>
    match best value rank t with
    | none => some x
    | some y => if value y < value x ∨ (value x = value y ∧ rank x < rank y) then some x else some y

/-- The first `n` queues by largest fraction, ties by rank. -/
def topBy (value rank : Nat → Nat) : Nat → List Nat → List Nat
  | 0, _ => []
  | n + 1, xs =>
    match best value rank xs with
    | none => []
    | some x => x :: topBy value rank n (xs.filter (· != x))

/-- Targets of a core (R67). -/
def targets (qs : List QEntry) (c : Nat) : Tab Nat :=
  let w := (qs.map QEntry.weight).sum
  let weight := fun q => ((qs.find? fun e => e.queue == q).map QEntry.weight).getD 0
  let base := fun q => 15 * weight q / w
  let names := qs.map QEntry.queue
  let left := 15 - (names.map base).sum
  let more := topBy (fun q => 15 * weight q % w) (queueRank c) left names
  names.foldl (fun t q => tset t q (base q + b2n (more.contains q))) []

/-- Whether a slot's owner may change: no gang runs in it (R68). -/
def State.movable (s : State) (core slot : Nat) : Bool :=
  let c := s.ctx (16 * core + slot)
  c.status == .vacant || (s.gangsOf c.lnum c.grp).isEmpty

/-- Preference of a slot as the one given: vacant, lent, occupied. -/
def State.slotPreference (s : State) (core slot : Nat) : Nat :=
  let c := s.ctx (16 * core + slot)
  if c.status = .vacant then 2 else if c.lent then 1 else 0

/-- The arbiter's step for one core: at most one owner field changes (R67). A task that has landed in another queue's slot counts with its own queue's
runnable tasks and leaves the owner fields as they are (log 89). -/
def State.arbitrate (s : State) (core : Nat) : State :=
  let qs := (s.hall (core / 192)).queues.map (·.2)
  let c := core % 192
  let t := targets qs c
  let owners := ((List.range 15).map fun i => tget 0 (s.core core).owners (i + 1)).eraseDups
  let short := fun q => tget 0 t q - s.owned core q
  let excess := fun q => s.owned core q - tget 0 t q
  let slots := fun q => ((List.range 15).map (· + 1)).filter fun i => tget 0 (s.core core).owners i == q && s.movable core i
  let gain := best short (queueRank c) ((qs.map QEntry.queue).filter fun q => decide (0 < short q))
  let give := best excess (queueRank c) (owners.filter fun q => decide (0 < excess q) && !(slots q).isEmpty)
  match gain, give with
  | some q, some g =>
    match best (s.slotPreference core) id (slots g) with
    | some i => s.setCore core fun k => { k with owners := tset k.owners i q }
    | none => s
  | _, _ => s

/-! Slot classes (05 R123). -/

/-- The wait that a slot is in: its task's, or that of a task that has left it by migration and has not landed (03 R78); 0 none, else the class
of 05 R123. -/
def State.waitOf (s : State) (ctx : Nat) : Nat :=
  match (s.ctx ctx).status with
  | .waiting w => w.cls
  | .vacant => if s.flights.any fun f => f.2.origin == ctx then 3 else 0
  | _ => 0

/-- Class of a slot in the rotation that ends: 0 issued, 1 not ready on memory, 2 not ready on message, 3 vacant. -/
def State.slotClass (s : State) (core slot : Nat) : Nat :=
  let k := s.core core
  if tget 0 k.seen slot = 1 then 0
  else
    let w := s.waitOf (16 * core + slot)
    let w := if w = 0 then tget 0 k.seen (16 + slot) else w
    if w = 0 then 3 else w - 1

/-- Counts the rotation of a core (24 R421); the waits that go on are waits of the next rotation too. -/
def State.countRotation (s : State) (core : Nat) : State :=
  let s := (List.range 16).foldl (fun s i => s.bump core (s.slotClass core i) 1) (s.bump core 21 1)
  let on := (List.range 16).filterMap fun i => if s.waitOf (16 * core + i) = 0 then none else some (16 + i, s.waitOf (16 * core + i))
  s.setCore core fun k => { k with seen := on }

/-- Cores whose rotation a hall counts: its own and the porch cores that issue from it. -/
def State.coresOf (s : State) (hall : Nat) : List Nat :=
  ((List.range 192).map (192 * hall + ·)) ++
    ((List.range 12).map fun i => barrelCores + 12 * (hall / 4) + i).filter fun k => s.hallOf k == hall

/-- Whether a task of a queue waits to start in a hall: at its dispatcher, or in the inbox of one of its cores (15 R331). -/
def State.queued' (s : State) (hall queue : Nat) : Bool :=
  (s.hall hall).waiting.any (·.queue == queue) ||
    s.flights.any fun f => !isPorch f.2.target && f.2.target / 192 == hall && f.2.task.queue == queue &&
      (s.core f.2.target).inbox.contains f.1

/-- The dispatcher sends a lend event for a slot when every condition holds (09 R229). -/
def State.lend (s : State) (ctx : Nat) : State :=
  let c := s.ctx ctx
  let core := coreOf ctx
  let owner := tget 0 (s.core core).owners (slotOf ctx)
  match c.status with
  | .waiting (.translation _ _ _) =>
    if isPorch core || slotOf ctx == 0 || c.lent || decide (s.clock.cc < c.parkedAt + 2048) || c.pinned ||
        !(s.gangsOf c.lnum c.grp).isEmpty || c.relaxed.any (·.held) || !(s.queued' (core / 192) owner) then s
    else ((s.setCtx ctx fun c => { c with lent := true }).hearthEvent core 4 0 (slotOf ctx))
  | _ => s

/-- Contexts of a hall parked on a translation fault for 2,048 cc with no wake, whose slots may be lent (09 R229). -/
def State.longParked (s : State) (hall : Nat) : List Nat :=
  s.ctxs.filterMap fun x =>
    match x.2.status with
    | .waiting (.translation _ _ _) =>
      if s.hallOf (coreOf x.1) == hall && !x.2.lent && decide (x.2.parkedAt + 2048 ≤ s.clock.cc) then some x.1 else none
    | _ => none

/-- ROTATION_BOUNDARY (R67; 05 R123); the hall dispatcher then sends the lend events that it may (09 R229). -/
def execRotationBoundary (hall : Nat) (s : State) : Res :=
  if 32 ≤ hall then .fault (.noSuchUnit hall)
  else
    let s := (s.coresOf hall).foldl State.countRotation s
    let s := s.refreshQueues hall
    let s := if (s.hall hall).queues.isEmpty then s else (List.range 192).foldl (fun s c => s.arbitrate (192 * hall + c)) s
    let s := s.refreshQueues hall
    let s := (s.longParked hall).foldl State.lend s
    .next (if (s.hall hall).waiting.isEmpty then s else s.post (.slotEvent hall))

/-! Pairing (R69, R74). -/

/-- Vacant worker slots of a core that a queue owns and that no event on its way has been promised; the core's inbox goes first (15
R331). -/
def State.vacantSlots (s : State) (core queue : Nat) : List Nat :=
  let k := s.core core
  if k.closed || !k.inbox.isEmpty then []
  else ((List.range 15).map (· + 1)).filter fun i =>
    tget 0 k.owners i == queue && (s.ctx (16 * core + i)).status == .vacant && !k.promised.contains i

/-- What a dispatcher senses of a core's occupancy mark (R73). -/
def State.occupancy (s : State) (core : Nat) : Nat := (s.markAt (markAddr (core / 192) 0 + 2 * (core % 192))).2

/-- The core that a task is placed on (R74). -/
def State.placeCore (s : State) (hall lnum queue : Nat) : Option Nat :=
  let cs := ((List.range 192).map (192 * hall + ·)).filter fun k => !(s.vacantSlots k queue).isEmpty
  best s.occupancy (fun k => (k % 192 + 192 - lnum % 192) % 192) cs

/-- Sends the event that starts or resumes a task in a slot (R69): the start cell of context c stands at 64 c (log 14). What the dispatcher keeps
of a task that resumes from an image stands there too. -/
def State.sendStart (s : State) (core slot : Nat) (t : Start) : State :=
  let cell := 64 * (16 * core + slot)
  let s := s.setCore core fun k => { k with promised := slot :: k.promised }
  let s := { s with cells := tset s.cells cell t }
  match t.image with
  | some a => s.hearthEvent core 2 a slot
  | none => s.hearthEvent core 1 cell slot

/-- Whether a slot can take a task: vacant, not promised to a start that is on its way, and with no reap event outstanding (log 34). -/
def State.open' (s : State) (core slot : Nat) : Bool :=
  (s.ctx (16 * core + slot)).status == .vacant && !(s.core core).promised.contains slot &&
    !(s.core core).reaping.contains slot

/-- The slot that an arriving task takes (R78): at a barrel core a vacant worker slot owned by its queue, else any vacant worker slot; at a
porch core any vacant context. Of several the lowest is taken (log 88). -/
def State.landingSlot (s : State) (core queue : Nat) : Option Nat :=
  let k := s.core core
  if k.closed then none
  else if isPorch core then lowest (s.open' core) 0 16
  else
    match lowest (fun i => s.open' core i && tget 0 k.owners i == queue) 1 15 with
    | some i => some i
    | none => lowest (s.open' core) 1 15

/-- The oldest arrival in the inbox of a core, with the slot that its task can take. -/
def State.inboxHead (s : State) (core : Nat) : Option (Nat × Flight × Nat) :=
  match (s.core core).inbox with
  | [] => none
  | id :: _ =>
    match tfind s.flights id with
    | none => none
    | some f => (s.landingSlot core f.task.queue).map fun slot => (id, f, slot)

/-- The oldest task in the inbox of one of a hall's cores takes a slot's start event (15 R331), which names a start cell as any other does (log 98). -/
def State.inboxStart (s : State) (hall : Nat) : Option State :=
  match (List.range 192).findSome? fun c => (s.inboxHead (192 * hall + c)).map fun x => (192 * hall + c, x) with
  | none => none
  | some (core, id, f, slot) =>
    let t : Start := { lnum := f.task.lnum, gid := f.task.gid, entry := f.task.pc, regs := [], segs := [], hnd := f.task.hnd, grp := f.task.grp,
                       lrec := f.task.lrec, queue := f.task.queue, flight := some id }
    some ((s.setCore core fun k => { k with inbox := k.inbox.filter (· != id) }).sendStart core slot t)

/-- In a hall that is being taken out of service, a task in the inbox of a core whose hearth has been stopped takes a slot without it, one that
no event will reap any more at the worst, and is halted there (25 R433, 03 R79; log 34). -/
def State.landHalted (s : State) (hall : Nat) : Option State :=
  (List.range 192).findSome? fun c =>
    let core := 192 * hall + c
    if (s.ctx (16 * core)).status != .halted 2 && (s.ctx (16 * core)).status != .vacant then none
    else
      let s := (s.takeBack core (s.core core).promised).setCore core fun k => { k with promised := [] }
      match (s.core core).inbox with
      | [] => none
      | id :: rest =>
        match tfind s.flights id with
        | none => none
        | some f =>
          let ended := fun i => (s.ctx (16 * core + i)).status == .ended
          let slot := match lowest (fun i => (s.ctx (16 * core + i)).status == .vacant) 1 15 with
            | some i => some i
            | none => lowest ended 1 15
          slot.map fun i =>
            ((if ended i then s.dropClaims (16 * core + i) else s).setCore core fun k => { k with inbox := rest, reaping := k.reaping.erase i }).land id f (16 * core + i)

/-- Places tasks, each on the core that R74 gives it and there in the lowest vacant slot that its queue owns (log 88); a task for which no slot is left
stays. -/
def State.placeAll (s : State) (hall : Nat) : List Start → State
  | [] => s
  | t :: ts =>
    match s.placeCore hall t.lnum t.queue with
    | some core =>
      ((s.sendStart core ((s.vacantSlots core t.queue).headD 0) t).setHall hall fun h => { h with waiting := h.waiting.erase t }).placeAll hall ts
    | none => s

/-- Whether a waiting task is held back by a pre-emption: the handler of a task in its target set (23 R408). -/
def State.heldBack (s : State) (hall : Nat) (t : Start) : Bool :=
  t.handler && s.preempts.any fun p => covers p hall t.serves t.queue

/-- Whether an index task is in more than four groups (R42). -/
def State.overflows (s : State) (t : Start) : Bool :=
  !t.handler && t.image.isNone && decide (fld t.gid 47 0 < 2 ^ 47) &&
    (match s.launch? t.lnum with
     | some l => decide (4 < (l.groupsOf (fld t.gid 47 0)).length)
     | none => false)

/-- Tasks that start together with a waiting task (R43). -/
def State.together (s : State) (hall : Nat) (t : Start) : List Start :=
  match t.gang with
  | none => [t]
  | some g => (s.hall hall).waiting.filter fun u => u.lnum == t.lnum && u.gang.map (·.1) == some g.1

/-- How many tasks start together with a waiting task (R43): of a gang that a pre-emption has stopped, the members that there are. -/
def State.gangSize (s : State) (t : Start) : Nat :=
  match t.gang, t.image.bind (tfind s.images) with
  | none, _ => 1
  | some g, none => g.2
  | some g, some r => if g.1 < 2 ^ 21 then g.2 else (s.gangTasks t.lnum (s.gangClosure t.lnum 256 (s.gangsOf t.lnum r.grp))).length

/-- Vacant slots of a hall that a queue owns. -/
def State.vacantIn (s : State) (hall queue : Nat) : Nat :=
  ((List.range 192).map fun c => (s.vacantSlots (192 * hall + c) queue).length).sum

/-- Looks through the waiting tasks, oldest first, for those that can be placed. A gang whose members do not all wait yet is passed over;
one that lacks slots keeps its queue's slots from younger tasks (R43, R69). -/
def State.draw (s : State) (hall : Nat) (done : List Nat) : List Start → Option (List Start)
  | [] => none
  | t :: ts =>
    let ms := s.together hall t
    let n := s.gangSize t
    if done.contains t.queue || s.heldBack hall t || decide (ms.length < n) ||
        !((s.hall hall).queues.any fun e => e.2.queue == t.queue) then s.draw hall done ts
    else if s.vacantIn hall t.queue < n then s.draw hall (t.queue :: done) ts
    else some ms

/-- SLOT_EVENT (R69): the oldest event whose hearth word is empty is PUT there, else a task is paired with a slot, one of an inbox first (15
R331). In a hall that is out of service the starts wait (DESIGN CHOICE, log 115). -/
def execSlotEvent (hall : Nat) (s : State) : Res :=
  if 32 ≤ hall then .fault (.noSuchUnit hall)
  else
    match (s.hall hall).events.find? fun e => !s.isFull (hearthAddr e.1) with
    | some e =>
      let s := s.setHall hall fun h => { h with events := h.events.erase e }
      .next ((s.feFill (hearthAddr e.1) e.2).post (.slotEvent hall))
    | none =>
      if !s.hallOpen hall then
        match if (s.hall hall).service = .leaving then s.landHalted hall else none with
        | some s => .next (s.post (.slotEvent hall))
        | none => .next s
      else
        match s.inboxStart hall with
        | some s => .next (s.post (.slotEvent hall))
        | none =>
        match (s.hall hall).waiting.find? s.overflows with
        | some t =>
          let s := (s.setHall hall fun h => { h with waiting := h.waiting.erase t }).overflow hall t
          -- the index is no unstarted one any more, so that the wing may have to ask (03 R57)
          .next ((s.askChunk t.lnum (hall / 4)).post (.slotEvent hall))
        | none =>
          let s := s.refreshQueues hall
          match s.draw hall [] (s.hall hall).waiting with
          | some ms => .next ((s.placeAll hall ms).post (.slotEvent hall))
          | none => .next s

end Sys2Proof.Machine
end

