-- ==== Sys2Proof/Machine/System.lean ====
section
/-! DEFINITION. Control and segment registers (06 R146 to R148), claims (R149 to R153; 05 R116 to R121), the hearth's instructions (R154
to R158), traps, trace and counters (R159 to R163), and the end of images (R164, R165). -/

namespace Sys2Proof.Machine

/-! MOVC and MOVS. -/

/-- MOVC gD, ctl (R147). -/
def execMovcRead (d c : BitVec 5) (s : State) : Res :=
  let n := c.toNat
  let r := s.src
  if n = 0 then .next (s.wr d r.stWord)
  else if n = 1 then .next (s.wr d r.fpc)
  else if n = 2 then .next (s.wr d (word r.lanes))
  else if n = 3 then .next (s.wr d r.tc)
  else if n = 4 then .next (s.wr d r.gid)
  else if n = 5 then .next (s.wr d r.grp)
  else if n = 6 then .next (s.wr d (word s.now))
  else if n = 7 then .next (s.wr d (word s.ebbNumber))
  else if n = 8 then .next (s.wr d r.hnd)
  else if n = 9 then .next (s.wr d r.p)
  else if n < 16 then .next s.illegal
  else if r.tile &&& tregBit (n - 16) = 0 then .next (s.claimFault (tregBit (n - 16)))
  else .next (s.wr d (s.td (n - 16)))

/-- Whether a value may be written to ST: its reserved bits are zero (02 R34, R147). -/
def stOk (w : Word) : Bool := fld w 63 8 == 0 && fld w 6 4 == 0

/-- MOVC ctl, gB (R147). -/
def execMovcWrite (c b : BitVec 5) (s : State) : Res :=
  let n := c.toNat
  let w := s.rg b
  if n = 0 then
    if stOk w then .next (s.setMe fun c => { c with st := setFld c.st 3 2 (fld w 3 2) }) else .next s.illegal
  else if n = 1 then if fpcOk w then .next (s.setMe fun c => { c with fpc := w }) else .next s.illegal
  else if n = 3 then if fld w 63 2 = 0 then .next (s.setMe fun c => { c with tc := w }) else .next s.illegal
  else if n = 8 then .next (s.setMe fun c => { c with hnd := w })
  else if n = 9 then .next (s.setMe fun c => { c with p := w })
  else if n < 16 then .next s.illegal
  else if s.src.tile &&& tregBit (n - 16) = 0 then .next (s.claimFault (tregBit (n - 16)))
  else if tdOk w then .next (s.setMe fun c => { c with td := tput 0 c.td (n - 16) w })
  else .next s.illegal

/-- MOVS gD, sA.lo (R148). -/
def execMovsLo (d a : BitVec 5) (s : State) : Res := .next (s.wr d (segLo (s.src.seg a.toNat)))

/-- MOVS gD, sA.hi (R148). -/
def execMovsHi (d a : BitVec 5) (s : State) : Res := .next (s.wr d (segHi (s.src.seg a.toNat)))

/-- MOVS sD, sA (R148). -/
def execMovsSeg (d a : BitVec 5) (s : State) : Res :=
  let g := s.src.seg a.toNat
  .next (s.setMe fun c => { c with segs := tput 0 c.segs d.toNat g })

/-! Claims. -/

/-- Contexts of a room. -/
def roomCtxs (room : Nat) : List Nat := (List.range 128).map (128 * room + ·)

/-- Bytes of vector register storage that are free in a room (05 R116). -/
def State.laneSpace (s : State) (room : Nat) : Nat := 262144 - ((roomCtxs room).map fun c => 64 * (s.ctx c).reserved.1).sum

/-- Fair share of `n` contexts (05 R116). -/
def share (n : Nat) : Nat := if n ≤ 64 then 64 else if n ≤ 128 then 32 else if n ≤ 256 then 16 else 8

/-- Contexts of a room that hold a lane claim or wait for one (05 R116). -/
def State.claimants (s : State) (room : Nat) : Nat :=
  ((roomCtxs room).filter fun c => (s.ctx c).reserved.1 != 0 || (s.room room).vwait.any (·.1 == c)).length

/-- A context's lane claim becomes `l` lanes; lanes newly granted read as zero (05 R117). -/
def Ctx.setClaim (c : Ctx) (l : Nat) : Ctx := { c with lanes := l, vregs := c.vregs.filter fun e => decide (e.1 % 64 < c.lanes) }

/-- CLAIMV (R150; 05 R118). -/
def execClaimv (d a : BitVec 5) (s : State) : Res :=
  match s.src.given with
  | some v => .next ((s.setMe fun c => (c.setClaim v.toNat)).resume d v)
  | none =>
    if isPorch s.myCore then .next s.porchFault
    else
      let want := s.rg a
      let l := want.toNat
      let old := s.src.lanes
      if l ≠ 8 ∧ l ≠ 16 ∧ l ≠ 32 ∧ l ≠ 64 then .next (s.operand 1 a)
      else if l ≤ old then .next (((s.setMe fun c => c.setClaim l).regrant s.myRoom).wr d want)
      else if (s.room s.myRoom).vwait.isEmpty && decide (64 * (l - old) ≤ s.laneSpace s.myRoom) then
        .next ((s.setMe fun c => c.setClaim l).wr d want)
      else
        let me := s.cur
        let s := s.setRoom s.myRoom fun r => { r with vwait := r.vwait ++ [(me, l)] }
        .next ((s.hold .claim).regrant s.myRoom)

/-- Parts of a tile set that are not free for a context: held in another context of the room, or named by a command still in the queue
(05 R120, R152). -/
def State.tileBusy (s : State) (room ctx : Nat) : Nat :=
  let held := (roomCtxs room).foldl (fun acc c => if c = ctx then acc else acc ||| (s.ctx c).reserved.2) 0
  (s.room room).tileQ.foldl (fun acc q => acc ||| q.parts) held

/-- Engine storage of newly granted parts reads as zero (05 R117), and no pass is under way on a newly granted accumulator (12 R274). -/
def Tile.fresh (t : Tile) (set : Nat) : Tile :=
  let t := (tregsOf set).foldl (fun (t : Tile) n =>
    { t with rows := tclear t.rows (16384 * n) (16384 * (n + 1)), scale := tclear t.scale (1024 * n) (1024 * (n + 1)) }) t
  (accsOf set).foldl (fun (t : Tile) c =>
    { t with acc := tclear t.acc (16384 * c) (16384 * (c + 1)), prow := tclear t.prow (16384 * c) (16384 * (c + 1)),
             pscale := tclear t.pscale (1024 * c) (1024 * (c + 1)), pdesc := tput 0 t.pdesc c 0,
             srow := tclear t.srow (16384 * c) (16384 * (c + 1)), sscale := tclear t.sscale (1024 * c) (1024 * (c + 1)),
             sdesc := tput 0 t.sdesc c 0, svalid := tput false t.svalid c false, passing := t.passing.filter (· != c) }) t

/-- Grants tile parts to a context: the claim becomes the union (R151). -/
def State.grantTile (s : State) (ctx set : Nat) : State :=
  let c := s.ctx ctx
  let new := set - (set &&& c.tile)
  let cc := s.clock.cc
  let s := s.setTile (roomOf (coreOf ctx)) fun t => t.fresh new
  s.setCtx ctx fun c => { c with tile := c.tile ||| set, tileAt := if c.tile = 0 then cc else c.tileAt,
                                 td := c.td.filter fun e => !bitOf new (16 + e.1) }

/-- Whether a tile set has no reserved bit (R149). -/
def tileSetOk (w : Word) : Bool := fld w 63 36 == 0 && fld w 15 0 == 0

/-- CLAIMT (R151; 05 R120). -/
def execClaimt (d a : BitVec 5) (s : State) : Res :=
  match s.src.given with
  | some v =>
    let s := s.grantTile s.cur v.toNat
    .next (s.resume d (word s.me.tile))
  | none =>
    if isPorch s.myCore then .next s.porchFault
    else
      let w := s.rg a
      let set := w.toNat
      let held := s.src.tile
      let new := set - (set &&& held)
      if !tileSetOk w || w == 0 then .next (s.operand 1 a)
      else if new = 0 then .next (s.wr d (word held))
      else if (s.room s.myRoom).twait.isEmpty && s.tileBusy s.myRoom s.cur &&& new == 0 then
        let s := s.grantTile s.cur set
        .next (s.wr d (word s.me.tile))
      else
        let me := s.cur
        let s := s.setRoom s.myRoom fun r => { r with twait := r.twait ++ [(me, set)] }
        .next ((s.hold .claim).regrant s.myRoom)

/-- RELV (R152). -/
def execRelv (s : State) : Res :=
  if s.src.lanes = 0 then .next s
  else .next ((s.setMe fun c => { c with lanes := 0 }).regrant s.myRoom)

/-- RELT (R152). -/
def execRelt (a : BitVec 5) (s : State) : Res :=
  let w := s.rg a
  if !tileSetOk w then .next (s.operand 1 a)
  else if s.src.tile &&& w.toNat = 0 then .next s
  else
    let left := s.src.tile - (s.src.tile &&& w.toNat)
    .next ((s.setMe fun c => { c with tile := left, tileAt := if left = 0 then 0 else c.tileAt,
                                      td := c.td.filter fun e => bitOf left (16 + e.1) }).regrant s.myRoom)

/-! The hearth's instructions. -/

/-- Slot-state fault (23 R399): the event word, and the slot. -/
def State.slotFault (s : State) (event : Word) (slot : Nat) : State := s.raise (s.flt 9 0 event.toNat slot)

/-- Runs an instruction of the hearth program (R154). -/
def hearthOp (s : State) (go : State → State) : Res :=
  if bitOf s.src.st.toNat 0 then .next (go s) else .next s.privilege

/-- Context that a started task becomes (02 R40, 03 R72). -/
def Start.ctx (t : Start) : Ctx :=
  { status := .ready, pc := t.entry, g := t.regs, segs := t.segs, gid := t.gid, grp := t.grp, hnd := t.hnd, lrec := t.lrec,
    queue := t.queue, doneFuture := t.doneFuture, isHandler := t.handler }

/-- The Delta values of a task of a resumed launch (03 R64, R65; 19 R376): the lookup's own pin for the first task started, a further pin
for each other one, and zeros where none can be added; a translation fault holds the start. -/
def State.resumePin (s : State) (t : Start) : Except (Nat × XReason) (State × Tab Word) :=
  match s.launch? t.lnum with
  | none => .ok (s, t.regs)
  | some l =>
    match l.found with
    | none => .ok (s, t.regs)
    | some (h, n, a) =>
      if t.handler then .ok (s, t.regs)
      else
        let regs := tput 0 (tput 0 (tput 0 t.regs 4 h) 5 n) 6 a
        if !l.pinPassed then .ok (s.setLaunch t.lnum fun l => { l with pinPassed := true }, regs)
        else
          match s.addPin l.dtree h.toNat with
          | .ok (s, true) => .ok (s, regs)
          | .ok (s, false) => .ok (s, t.regs)
          | .error e => .error e

/-- Starts a fresh, spawned or handler task in a slot with its registers (R155, 02 R40). An index task counts in LIVE from here (02 R37). A task 0 whose
launch's lookup faulted starts with that fault (03 R65). -/
def State.startTask (s : State) (ctx : Nat) (t : Start) (regs : Tab Word) : State :=
  let s := { s with ctxs := tset s.ctxs ctx { t.ctx with g := regs } }
  let s :=
    if fld t.gid 47 0 < 2 ^ 47 then
      match s.launch? t.lnum with
      | some l =>
        let s := (s.setLaunch t.lnum fun l => { l with live := l.live + 1, started := l.started + 1 }).recordWrite t.lnum 0x50 8 (l.live + 1)
        if l.next < l.n then s.askChunk t.lnum (coreOf ctx / 768) else s
      | none => s
    else s
  match s.launch? t.lnum with
  | some l =>
    match l.lookFault with
    | some f =>
      if fld t.gid 47 0 = 0 then
        (s.setLaunch t.lnum fun l => { l with lookFault := none }).raiseAt ctx { f with pc := t.entry }
      else s.haltStarted ctx
    | none => s.haltStarted ctx
  | none => s.haltStarted ctx

/-- The image that a KIND 2 event names, with the device's number of it: where its entry has been taken again, the oldest copy (log 25). -/
def State.imageAt (s : State) (addr : Nat) : Option (Nat × ImgRec) :=
  match tget [] s.shadow addr with
  | k :: _ => (tfind s.images k).map fun r => (k, r)
  | [] => (tfind s.images addr).map fun r => (addr, r)

/-- A device's copy of an image has been used. -/
def State.useCopy (s : State) (addr k : Nat) : State :=
  if k = addr then s else { s with shadow := tput [] s.shadow addr ((tget [] s.shadow addr).erase k) }

/-- SLOTSTART (R155). A start cell that no dispatcher has written, or whose task has started, raises the slot-state fault (DESIGN CHOICE, log 105), and a
translation fault of what the start reads parks the hearth, whose halt waits for it (DEDUCED, log 106; R166). -/
def execSlotstart (a : BitVec 5) (s : State) : Res :=
  hearthOp s fun s =>
    let ev := s.rg a
    let slot := fld ev 3 0
    let kind := fld ev 63 60
    let addr := fld ev 57 6 * 64
    let ctx := 16 * s.myCore + slot
    let sent := (s.core s.myCore).promised
    let s := s.setCore s.myCore fun k => { k with promised := k.promised.erase slot }
    if (kind ≠ 1 ∧ kind ≠ 2) ∨ slot = 0 ∨ fld ev 59 58 ≠ 0 ∨ fld ev 5 4 ≠ 0 ∨ (s.ctx ctx).status ≠ .vacant then s.slotFault ev slot
    else if (s.core s.myCore).closed && sent.contains slot then (s.takeBack s.myCore sent).await
    else if kind = 1 then
      match tfind s.cells addr with
      | none => s.slotFault ev slot
      | some t =>
        match t.flight.bind fun id => (tfind s.flights id).map fun f => (id, f) with
        | some (id, f) => (State.land { s with cells := tdel s.cells addr } id f ctx).await
        | none =>
          match s.resumePin t with
          | .error (h, why) => s.parkTranslation h .delta why
          | .ok (s, regs) => (State.startTask { s with cells := tdel s.cells addr } ctx t regs).await
    else
      match s.imageAt addr with
      | none => s.slotFault ev slot
      | some (k, r) =>
        match s.imageRead s.myHall addr r with
        | .wait s h why => s.parkTranslation h .load why
        | .bad s => s.slotFault ev slot
        | .ok s ws =>
          match s.blockOk s.myHall ws addr with
          | .wait s h why => s.parkTranslation h .load why
          | .bad s => s.slotFault ev slot
          | .ok s good =>
            if !imageOk ws r || !good then s.slotFault ev slot
            else
              let s := State.useCopy { s with cells := tdel s.cells (64 * ctx) } addr k
              let s := s.loadImage ctx ws r k
              let s := match r.refused with
                | some (code, h, acc) => s.raiseAt ctx (s.refusal (imgWord ws 0) h code acc)
                | none => s.haltStarted ctx
              s.await

/-- SLOTREAP (R156). ADDR of its slot-state fault is 0 (DESIGN CHOICE, log 104). -/
def execSlotreap (a : BitVec 5) (s : State) : Res :=
  hearthOp s fun s =>
    let slot := (s.rg a).toNat
    let ctx := 16 * s.myCore + slot
    if slot = 0 ∨ 15 < slot then s.slotFault 0 slot
    else
      let done := fun (s : State) => s.setCore s.myCore fun k => { k with reaping := k.reaping.erase slot }
      match (s.ctx ctx).status with
      | .ended => (done (s.dropClaims ctx)).vacate ctx
      | .vacant => (done s).freed s.myCore
      | _ => s.slotFault 0 slot

/-- SLOTREAP.save (R156, R157). A task that is parked because of accesses held at their ports is saved once they have been performed; its wake
has then come, and it is sent on (09 R228). ADDR of its slot-state fault is 0 (DESIGN CHOICE, log 104). -/
def execSlotreapSave (a b : BitVec 5) (s : State) : Res :=
  hearthOp s fun s =>
    let slot := (s.rg a).toNat
    let ctx := 16 * s.myCore + slot
    let at' := (s.rg b).toNat
    let c := s.ctx ctx
    if slot = 0 ∨ 15 < slot ∨ at' % 64 ≠ 0 ∨ c.pinned = true then s.slotFault 0 slot
    else
      match c.status with
      | .waiting (.translation h acc why) =>
        if !s.quiet ctx then s.tryLater
        else if !c.rlog.isEmpty then s.raiseAt ctx (s.logFaultRec c)
        else
          match s.houseWrite s.myHall at' (c.imageWords 1 h 0 0) with
          | .wait s h why => s.parkTranslation h .store why
          | .bad s => s.slotFault 0 slot
          | .ok s _ =>
            let hall := s.myHall
            let r := { c.imgRec hall s.myRoom none with lent := true, parked := some (.translation h acc why) }
            let r := match c.heldWake with
              | some code => if code = 0 then r else { r with refused := some (code, h, acc) }
              | none => r
            let s := { s with images := tset s.images at' r }
            let s := if c.heldWake.isSome then s.requeue hall at' else s
            (s.vacate ctx).await
      | .waiting .held =>
        if !s.quiet ctx then
          (s.setCtx ctx fun c => { c with saving := true, parkA := ((c.relaxed.find? (·.held)).bind Relaxed.badAt).getD c.parkA }).tryLater
        else if !c.rlog.isEmpty then s.raiseAt ctx (s.logFaultRec c)
        else
          match s.houseWrite s.myHall at' (c.imageWords 1 c.parkA 0 0) with
          | .wait s h why => s.parkTranslation h .store why
          | .bad s => s.slotFault 0 slot
          | .ok s _ =>
            let s := { s with images := tset s.images at' (c.imgRec s.myHall s.myRoom none) }
            ((s.requeue s.myHall at').vacate ctx).await
      | _ => s.slotFault 0 slot

/-- SLOTOWN (R158). STATE of a slot whose task is halted, or stopped on a fault, is 1, and ADDR of the slot-state fault is 0 (DESIGN CHOICE, log 103, log 104). -/
def execSlotown (d a : BitVec 5) (s : State) : Res :=
  hearthOp s fun s =>
    let slot := (s.rg a).toNat
    if 15 < slot then s.slotFault 0 slot
    else if slot = 0 then s.wr d (word (5 * 2 ^ 16))
    else
      let c := s.ctx (16 * s.myCore + slot)
      let st := match c.status with
        | .vacant => 0
        | .ended => 3
        | .waiting (.translation _ _ _) => if c.lent then 4 else 2
        | .waiting .held => 2
        | _ => 1
      s.wr d (word (st * 2 ^ 16 + tget 0 (s.core s.myCore).owners slot))

/-! Traps, trace and counters. -/

/-- A fault of a bundle that completes: the record's PC names the next bundle (23 R399). -/
def State.fltNext (s : State) (kind : Nat) (info0 : Nat) (info1 : Word := 0) : FaultRec :=
  { s.flt kind 0 0 info0 info1.toNat with pc := s.me.pc, completed := true }

/-- TRAP (R160). -/
def execTrap (a : BitVec 5) (c : BitVec 10) (s : State) : Res := .next (s.raise (s.fltNext 0x0F c.toNat (s.rg a)))

/-- Whether stops are armed for a launch in the hall of the executing context (24 R422). -/
def State.armed (s : State) (lnum : Nat) : Bool :=
  (s.hall s.myHall).stops.any fun e => fld e.2.ctl 63 62 == 3 && fld e.2.who 63 48 == lnum

/-- BRK (R161): a debug halt when the launch is armed, else the breakpoint fault. -/
def execBrk (c : BitVec 10) (s : State) : Res :=
  if s.armed s.src.lnum then .next (s.setMe fun x => { x with haltReq := 4 })
  else .next (s.raise (s.fltNext 0x10 c.toNat))

/-- TRC (R162). -/
def execTrc (a b : BitVec 5) (k : BitVec 6) (s : State) : Res :=
  if bitOf s.src.tc.toNat 0 then
    .next (s.traceCtx s.cur (0xC0 + k.toNat) ((s.rg b).toNat % 2 ^ 32 + (s.rg a).toNat * 2 ^ 32))
  else .next s

/-- RDCTR (R163, 24 R421). -/
def execRdctr (d a : BitVec 5) (s : State) : Res :=
  let n := (s.rg a).toNat
  if 256 ≤ n then .next (s.operand 1 a)
  else .next (s.wr d (if n < 29 then word (tget 0 (s.core s.myCore).counters n) else 0))

/-! The end of images. -/

/-- Places of `n` words that the executing task accesses at a house address. -/
def State.ownSpan (s : State) (h right : Nat) : Nat → House (List Phys)
  | 0 => .ok s []
  | n + 1 =>
    match s.unitFault h (if right = rR then .span else .scalarStore) with
    | some _ => .bad s
    | none =>
      match s.reach (s.portOf s.myCore h) h right with
      | (s, .error why) => .wait s h why
      | (s, .ok p) =>
        if s.physOffline p || s.badWord h then .bad s
        else
          match s.ownSpan (h + 8) right n with
          | .ok s ps => .ok s (p :: ps)
          | .wait s h why => .wait s h why
          | .bad s => .bad s

/-- Goes on with words that the executing task reads or checks at a house address; a failing read is the image fault, reason 2 (R164). -/
def withOwn (h n right : Nat) (s : State) (a : Word) (go : State → List Phys → State) : State :=
  match s.ownSpan h right n with
  | .wait s h why => s.parkTranslation h (if right = rR then .load else .store) why
  | .bad s => s.raise (s.flt 8 2 a.toNat)
  | .ok s ps => go s ps

/-- The log entry of a record, if it has one (14 R318): the entry of KIND 0x1C whose ADDR is the record's address. -/
def State.logEntry (s : State) (hall : Nat) (l : Launch) (record : Nat) : Option Nat :=
  (List.range l.fcap).find? fun j =>
    match s.houseRead hall (l.entryAt j) 4 with
    | .ok _ ws => fld (ws.headD 0) 7 0 == 0x1C && (ws.getD 3 0).toNat == record
    | _ => false

/-- Members of a stop whose images all have been resumed or killed are placed together (R405), in the lowest-numbered hall that holds one of their
starts (DESIGN CHOICE, log 114). -/
def State.gangGo (s : State) (lnum stop : Nat) : State :=
  let mine := fun (t : Start) => t.lnum == lnum && t.stop == some stop
  let held := s.halls.flatMap fun h => h.2.heldStarts.filter mine
  let all := s.images.all fun e =>
    !(e.2.stop == some stop && fld e.2.gid 63 48 == lnum) || held.any fun t => t.image == some (if copyBase ≤ e.1 then e.2.home else e.1)
  match held with
  | [] => s
  | t :: _ =>
    if !all then s
    else
      let hall := ((s.halls.find? fun h => h.2.heldStarts.contains t).map (·.1)).getD 0
      let s := s.halls.foldl (fun s h => s.setHall h.1 fun h => { h with heldStarts := h.heldStarts.filter fun t => !mine t }) s
      let ts := held.map fun t => { t with stop := none, gang := some (2 ^ 20 + stop, held.length) }
      (s.setHall hall fun h => { h with waiting := h.waiting ++ ts }).post (.slotEvent hall)

/-- TASKRES and TASKKILL (R164, R165): the checks, the entries freed, then what `go` does with the image. -/
def imageEnd (a : BitVec 5) (s : State) (go : Nat → ImgRec → List Word → State → State) : Res :=
  .next (s.release fun s =>
    let h := s.rg a
    let bad := fun (s : State) n => s.raise (s.flt 8 n h.toNat)
    match s.launch? s.src.lnum with
    | none => bad s 2
    | some l =>
      let x := h.toNat
      let e := x - 64
      if x < l.farea + 64 ∨ (e - l.farea) % 576 ≠ 0 ∨ l.fcap ≤ (e - l.farea) / 576 then bad s 2
      else
        withOwn e 8 rR s h fun s hd =>
          if ((hd.take 1).map fun p => s.get p 1) = [0] then bad s 2
          else
            withOwn x 64 rR s h fun s ps =>
              let ws := ps.map fun p => word (s.get p 8)
              match tfind s.images x with
              | none => bad s 1
              | some r =>
                if imgWord ws 0x180 ≠ s.src.lrec then bad s 3
                else
                  match s.blockOk s.myHall ws x with
                  | .wait s h why => s.parkTranslation h .load why
                  | .bad s => bad s 1
                  | .ok s good =>
                    if !imageOk ws r || !good then bad s 1
                    else
                      withOwn e 1 rW s h fun s qs =>
                        let log := s.logEntry s.myHall l e
                        let s := s.putWords qs [0]
                        let s := match log with
                          | some j => s.houseWords s.myHall (l.entryAt j) [0]
                          | none => s
                        let s := s.setUsed s.src.lnum fun u => u - (if log.isSome then 2 else 1)
                        (go x r ws s).await)

/-- TASKRES (R165): the image becomes a start of the hall that wrote it; a gang member's is held until its stop is settled (R405). -/
def execTaskres (a : BitVec 5) (s : State) : Res :=
  imageEnd a s fun x r _ s =>
    match r.stop with
    | none => s.requeue r.hall x true
    | some stop =>
      let lnum := fld r.gid 63 48
      let st : Start := { lnum := lnum, gid := r.gid, entry := 0, regs := [], segs := [], hnd := 0, grp := 0, lrec := r.lrec,
                          queue := r.queue, doneFuture := r.doneFuture, handler := r.handler, image := some x, stop := some stop }
      (s.setHall r.hall fun h => { h with heldStarts := h.heldStarts ++ [st] }).gangGo lnum stop

/-- TASKKILL (R165). -/
def execTaskkill (a : BitVec 5) (s : State) : Res :=
  imageEnd a s fun x r ws s =>
    let s := State.returnCopies { s with images := tdel s.images x } r.room r.copies
    let s := if imgWord ws 0x188 = 0 then s else s.freeBlock (imgWord ws 0x1A0).toNat
    let s := s.killTask r.hall (s.ctxSource s.cur) (some s.myCore) r.gid r.doneFuture
    match r.stop with
    | some stop => s.gangGo (fld r.gid 63 48) stop
    | none => s

/-! Grants (05 R118, R120; 23 R410). -/

/-- Whether a context's request is one of 23 R410. -/
def State.restoring (s : State) (ctx : Nat) : Bool := (s.ctx ctx).status == .waiting .reestablish

/-- Serves the oldest waiting CLAIMV of a room; none where it stays waiting, and then the later requests of the room wait behind it (DEDUCED, log 102). -/
def State.serveLanes (s : State) (room : Nat) : Option State :=
  match (s.room room).vwait with
  | [] => none
  | (ctx, l) :: t =>
    let exact := s.restoring ctx
    let old := (s.ctx ctx).lanes
    let g := if exact then l else min l (share (s.claimants room))
    if g ≤ old ∨ s.laneSpace room < 64 * (g - old) then none
    else
      let s := s.setRoom room fun r => { r with vwait := t }
      if exact then some ((s.setCtx ctx fun c => c.setClaim g).post (.claimReestablish ctx))
      else some { (s.setCtx ctx fun c => { c with given := some (word g) }) with latch := some ctx }

/-- Serves the oldest waiting CLAIMT of a room; none where it stays waiting. -/
def State.serveTiles (s : State) (room : Nat) : Option State :=
  match (s.room room).twait with
  | [] => none
  | (ctx, set) :: t =>
    let held := (s.ctx ctx).tile
    if s.tileBusy room ctx &&& (set - (set &&& held)) ≠ 0 then none
    else
      let exact := s.restoring ctx
      let s := s.setRoom room fun r => { r with twait := t }
      if exact then some ((s.grantTile ctx set).post (.claimReestablish ctx))
      else some { (s.setCtx ctx fun c => { c with given := some (word set) }) with latch := some ctx }

/-- CLAIM_GRANT (05 R118, R120): one waiting request of the room is served, and the room is looked at again. -/
def execClaimGrant (room : Nat) (s : State) : Res :=
  match s.serveLanes room with
  | some s => .next (s.post (.claimGrant room))
  | none =>
    match s.serveTiles room with
    | some s => .next (s.post (.claimGrant room))
    | none => .next s

/-- CLAIM_REESTABLISH (23 R410): asks for the lane claim at the saved L, then for the tile set; with both held, the state is loaded and the
saved commands rejoin their queues. -/
def execClaimReestablish (ctx : Nat) (s : State) : Res :=
  let c := s.ctx ctx
  if c.status != .waiting .reestablish || c.asked.isSome then .next s
  else
    let room := roomOf (coreOf ctx)
    let r := s.room room
    let l := claimLanes c.want
    let set := claimSet c.want
    if c.lanes ≠ l then
      if r.vwait.any (·.1 == ctx) then .next s
      else .next ((s.setRoom room fun r => { r with vwait := r.vwait ++ [(ctx, l)] }).post (.claimGrant room))
    else if c.tile ≠ set then
      if r.twait.any (·.1 == ctx) then .next s
      else .next ((s.setRoom room fun r => { r with twait := r.twait ++ [(ctx, set)] }).post (.claimGrant room))
    else
      match s.blockPages (s.hallOf (coreOf ctx)) c.xsave rR with
      | .wait s h why => .next (s.askAttic ctx h why)
      | .bad s => .next s
      | .ok s ps =>
        let s := s.loadBlock ctx ps
        let s := c.lostT.foldl (fun s t => s.tileLoss room { t with ctx := ctx }) s
        let block := c.xsave
        let s := s.setCtx ctx fun x => { x with want := 0, xsave := 0, image := 0, lostT := [], status := .ready }
        let s := { s with images := tdel s.images c.image }
        .next (((s.rejoin ctx).freeBlock block).boundary ctx)

end Sys2Proof.Machine
end

