-- ==== Sys2Proof/Machine/Launching.lean ====
section
/-! DEFINITION. Launches: intake and its checks (02 R37 to R43, R443; 03 R51 to R56), chunks and grants (03 R57 to R59), the loss of a
wing (R60 to R63), the lookup of a resumed launch (R64, R65), completion (23 R411, R412), and graphs (02 R44 to R49). -/

namespace Sys2Proof.Machine

/-! The record. -/

/-- Word at byte offset `o` of a launch record. -/
def recW (ws : List Word) (o : Nat) : Word := ws.getD (o / 8) 0

/-- Whether a house-address field has its upper bits zero (R37). -/
def houseField (w : Word) : Bool := fld w 63 58 == 0

/-- Whether the record's own fields pass the checks of R38. -/
def recordOk (ws : List Word) : Bool :=
  fld (recW ws 0) 63 56 == 1 && fld (recW ws 0) 55 51 == 0 && fld (recW ws 0) 48 9 == 0 && decide (fld (recW ws 0) 8 0 ≤ 256) &&
    fld (recW ws 0x10) 63 48 == 0 && decide (fld (recW ws 0x10) 47 0 ≤ 2 ^ 47) &&
    fld (recW ws 0x20) 63 32 == 0 && fld (recW ws 0x20) 15 0 != 0 && fld (recW ws 0x20) 31 16 != 0 &&
    houseField (recW ws 0x28) && houseField (recW ws 0x38) && fld (recW ws 0x48) 63 33 == 0 && houseField (recW ws 0x58) &&
    houseField (recW ws 0x60) && fld (recW ws 0x70) 63 48 == 0 && fld (recW ws 0x80) 31 8 == 0 && houseField (recW ws 0x88) && fld (recW ws 0x90) 63 32 == 0 &&
    (List.range 12).all fun i => recW ws (0xA0 + 8 * i) == 0

/-- Groups in the four words each of a table. -/
def readGroups (ws : List Word) : Nat → List Group
  | 0 => []
  | n + 1 =>
    { first := fld (ws.headD 0) 47 0, gang := bitOf (ws.headD 0).toNat 56, count := fld (ws.getD 1 0) 31 0,
      stride := fld (ws.getD 1 0) 63 32, bar := fld (ws.getD 2 0) 57 0 } :: readGroups (ws.drop 4) n

/-- Whether the four words of each group keep the rules of R41 and R43 for `n` indices. -/
def groupsOk (ws : List Word) (n : Nat) : Nat → Bool
  | 0 => true
  | k + 1 =>
    let f := ws.headD 0
    let c := fld (ws.getD 1 0) 31 0
    let st := fld (ws.getD 1 0) 63 32
    fld f 55 48 == 0 && fld f 63 57 == 0 && c != 0 && st != 0 && decide (fld f 47 0 + (c - 1) * st < n) &&
      houseField (ws.getD 2 0) && ws.getD 3 0 == 0 && !(bitOf f.toNat 56 && decide (2880 < c)) && groupsOk (ws.drop 4) n k

/-- Segments in pairs of words (R37). -/
def readSegs (ws : List Word) : Nat → Tab Seg
  | 0 => []
  | n + 1 => tput 0 (readSegs ws n) n (BitVec.ofNat 128 ((ws.getD (2 * n) 0).toNat + (ws.getD (2 * n + 1) 0).toNat * 2 ^ 64))

/-! Intake. -/

/-- The lowest number that no live launch holds (R29). -/
def State.freeLnum (s : State) : Option Nat := lowest (fun n => (s.launch? n).isNone) 1 65535

/-- The key under which a refused launch, which has no launch number, stands while it completes. -/
def State.refusedKey (s : State) : Nat := (lowest (fun n => (s.launch? n).isNone) 65536 30000).getD 65536

/-- A launch that is refused with a status, the highest that applies (R38, R39): no task of it starts, and it completes. -/
def State.refuseLaunch (s : State) (hall v : Nat) (ws : List Word) (node : Option (Nat × Nat)) (code : Nat) : State :=
  let k := s.refusedKey
  let code := if s.freeLnum.isNone then max code 3 else code
  let l : Launch := { record := v, done := if bitOf (recW ws 0x48).toNat 32 then some (fld (recW ws 0x48) 31 0) else none,
                      losta := 0, lostn := 0, status := code, hall := some hall, leader := hall / 4, node := node }
  ({ s with launches := tset s.launches k l }).post (.launchCompletion k)

/-- A discarded value leaves a trace record of kind "launch refused" (R52, 02 R443). Its SOURCE is the model's choice: the hall, core 0, slot 0,
unit 4 (DESIGN CHOICE, log 100). -/
def State.discard (s : State) (hall : Nat) (v : Word) : State := s.traceTo hall 0x02 (sourceOf hall 0 0 4) 0 v.toNat

/-- Whether a wing is healthy: in service, and declared lost by no other (R56). One that has been declared lost takes part in no later launch (log 90). -/
def State.healthy (s : State) (w : Nat) : Bool := s.wingUp w && s.wings.all fun e => !e.2.lost.contains w

/-- The replay and node for which a record was PUT, if launch word 0 of a hall received it for one (R54). -/
def State.nodeOf (s : State) (hall word v : Nat) : Option (Nat × Nat) :=
  if word = 0 then ((s.hall hall).nodesIn.find? fun x => x.1 == v).map (·.2) else none

/-- Forgets that a node's record waits for intake. -/
def State.takeNode (s : State) (hall v : Nat) (node : Option (Nat × Nat)) : State :=
  match node with
  | some x => s.setHall hall fun h => { h with nodesIn := h.nodesIn.erase (v, x) }
  | none => s

/-- GNODE of a node's launch (R37): the version slot in [63:62], the version number's low 14 bits in [61:48], the node's index (log 21). -/
def State.gnodeWord (s : State) (node : Option (Nat × Nat)) : Word :=
  match node with
  | none => 0
  | some (r, i) =>
    match tfind s.replays r with
    | none => 0
    | some r =>
      let v := bits (s.loadW (r.graph + 0x38)).toNat (16 * r.slot + 15) (16 * r.slot)
      word (r.slot * 2 ^ 62 + v % 2 ^ 14 * 2 ^ 48 + i)

/-- g1 of an index task (R40): ARGS, from the base of the replay's parameter version where PV is set for a node. -/
def State.argsOf (s : State) (ws : List Word) (node : Option (Nat × Nat)) : Word :=
  let args := recW ws 0x18
  if bitOf (recW ws 0).toNat 50 then
    match node.bind fun x => tfind s.replays x.1 with
    | some r => args + s.loadW (r.graph + 0x18) + word (r.slot * fld (s.loadW (r.graph + 0x20)) 31 0)
    | none => args
  else args

/-- A launch is accepted (R29, R56, R57): its number, its wings, its chunk size and the device's fields of its record. With no healthy wing it is refused
with 1, or with 3 where no number is free either (log 57). -/
def State.accept (s : State) (hall wd v : Nat) (ws gs segs : List Word) (node : Option (Nat × Nat)) : State :=
  let wings := (if wd = 0 then [hall / 4] else (List.range 8).filter fun w => bitOf wd w).filter s.healthy
  match wings with
  | [] => s.refuseLaunch hall v ws node 1
  | leader :: _ =>
    match s.freeLnum with
    | none => s.refuseLaunch hall v ws node 3
    | some n =>
      let count := fld (recW ws 0x10) 47 0
      let l : Launch :=
        { record := v, entry := recW ws 8, args := s.argsOf ws node, n := count, queue := fld (recW ws 0x20) 15 0,
          weight := fld (recW ws 0x20) 31 16, segset := readSegs segs 8, handler := recW ws 0x30, farea := (recW ws 0x38).toNat,
          fcap := fld (recW ws 0x40) 31 0, done := if bitOf (recW ws 0x48).toNat 32 then some (fld (recW ws 0x48) 31 0) else none,
          groups := readGroups gs (fld (recW ws 0) 8 0), dr := bitOf (recW ws 0).toNat 49, pv := bitOf (recW ws 0).toNat 50,
          dtree := (recW ws 0x60).toNat, din := recW ws 0x68, dlen := fld (recW ws 0x70) 31 0, dmin := fld (recW ws 0x70) 47 32,
          gnode := s.gnodeWord node, node := node, losta := (recW ws 0x88).toNat, lostn := fld (recW ws 0x90) 31 0, wings := wings,
          leader := leader, hall := if wd = 0 then some hall else none,
          chunk := max 1 (min 4096 (count / (64 * wings.length))) }
      let s := { s with launches := tset s.launches n l, clock := { s.clock with launched := true } }
      let s := (((s.recordWrite n 0x98 8 n).recordWrite n 0x78 8 l.gnode.toNat).recordWrite n 0x50 8 0).recordWrite n 0x44 4 0
      let s := if l.dr then s.post (.leaderDeltaLookup n) else wings.foldl (fun s w => s.askChunk n w) s
      s.post (.launchCompletion n)

/-- A value whose reads wait for the attic is kept with its launch word (R443). -/
def State.keepIntake (s : State) (hall wd v : Nat) (ws : List Word) (h : Nat) (why : XReason) : State :=
  (s.setHall hall fun x => { x with intakes := tset x.intakes wd (v, ws) }).tell (.unit h why)

/-- The intake of a value has ended: the next value of its launch word may be taken. -/
def State.endIntake (s : State) (hall wd : Nat) : State :=
  let s := s.setHall hall fun x => { x with intakes := tdel x.intakes wd }
  if s.isFull (launchAddr hall wd) then s.post (.launchIntake hall wd) else s

/-- Checks a record that has been read, and reads its group table and its segment set (R38, R41, R443). -/
def State.checkRecord (s : State) (hall wd v : Nat) (ws : List Word) (node : Option (Nat × Nat)) : State :=
  let refuse := fun (s : State) => ((s.takeNode hall v node).refuseLaunch hall v ws node 2).endIntake hall wd
  let k := fld (recW ws 0) 8 0
  if !recordOk ws then refuse s
  else
    match s.houseRead hall (recW ws 0x58).toNat (4 * k) with
    | .wait s h why => s.keepIntake hall wd v ws h why
    | .bad s => refuse s
    | .ok s gs =>
      if !groupsOk gs (fld (recW ws 0x10) 47 0) k then refuse s
      else
        match s.houseRead hall (recW ws 0x28).toNat 16 with
        | .wait s h why => s.keepIntake hall wd v ws h why
        | .bad s => refuse s
        | .ok s segs => ((s.takeNode hall v node).accept hall wd v ws gs segs node).endIntake hall wd

/-- Reads and checks the record that a taken value names (R38, R52, R443). In a hall that is being taken out of service, the launch is refused
with status 5 (25 R433). -/
def State.intake (s : State) (hall wd v : Nat) (ws : List Word) : State :=
  let node := s.nodeOf hall wd v
  if !ws.isEmpty then s.checkRecord hall wd v ws node
  else
    match s.houseRead hall v 32 with
    | .wait s h why => s.keepIntake hall wd v [] h why
    | .bad s => ((s.takeNode hall v node).discard hall (word v)).endIntake hall wd
    | .ok s ws =>
      if (s.hall hall).service ≠ .inService then ((s.takeNode hall v node).refuseLaunch hall v ws node 5).endIntake hall wd
      else s.checkRecord hall wd v ws node

/-- Takes the value of a launch word; in a hall that is being taken out of service only the value that stands there, so that parked putters
stay parked (25 R433). -/
def State.takeLaunch (s : State) (hall wd : Nat) : Option (Word × State) :=
  let h := launchAddr hall wd
  if (s.hall hall).service = .leaving then (if s.isFull h then some (s.loadW h, s.setFull h false) else none) else s.feTake h

/-- LAUNCH_INTAKE (R52). -/
def execLaunchIntake (hall wd : Nat) (s : State) : Res :=
  if 32 ≤ hall ∨ 256 ≤ wd then .fault (.noSuchUnit hall)
  else if (tfind (s.hall hall).intakes wd).isSome || !s.hallUp hall || s.attic.holding then .next s
  else
    match s.takeLaunch hall wd with
    | none => .next s
    | some (v, s) =>
      if fld v 63 58 ≠ 0 ∨ fld v 5 0 ≠ 0 ∨ unitOf v.toNat = .unassigned then .next ((s.discard hall v).endIntake hall wd)
      else .next (s.intake hall wd v.toNat [])

/-- INTAKE_READ_RETRY (R443). -/
def execIntakeReadRetry (hall wd : Nat) (s : State) : Res :=
  if 32 ≤ hall ∨ 256 ≤ wd then .fault (.noSuchUnit hall)
  else
    match tfind (s.hall hall).intakes wd with
    | some (v, ws) => .next (if s.attic.holding then s else s.intake hall wd v ws)
    | none => .next s

/-- The attic refuses a page that an intake reads (R443): the value is discarded, or the launch is refused. -/
def State.refuseIntake (s : State) (hall wd : Nat) : State :=
  match tfind (s.hall hall).intakes wd with
  | none => s
  | some (v, ws) =>
    let node := s.nodeOf hall wd v
    let s := s.takeNode hall v node
    if ws.isEmpty then (s.discard hall (word v)).endIntake hall wd
    else (s.refuseLaunch hall v ws node 2).endIntake hall wd

/-! The lookup of a resumed launch. -/

/-- LEADER_DELTA_LOOKUP (R64, R65): as a DLOOK of a task of the launch, with its segments; without symbols its input is not looked at. -/
def execLeaderDeltaLookup (lnum : Nat) (s : State) : Res :=
  match s.launch? lnum with
  | none => .next s
  | some l =>
    if !l.dr || l.looked || s.attic.holding then .next s
    else
      let view : Ctx := { segs := l.segset, gid := word (lnum * 2 ^ 48) }
      let t := { s with view := some view }
      let n := l.dlen
      let settle := fun (s : State) (f : Launch → Launch) =>
        l.wings.foldl (fun s w => s.askChunk lnum w) (State.setLaunch { s with view := none } lnum fun l => f { l with looked := true })
      let bad := fun (f : FaultRec) => .next (settle s fun l => { l with lookFault := some { f with pc := 0 } })
      if l.dtree % 256 ≠ 0 then bad (t.flt 5 0 l.dtree 8)
      else
        match t.unitFault l.dtree .delta with
        | some r => bad (t.flt 6 r l.dtree)
        | none =>
          let input := t.resolve l.din 0 (4 * n) 4 rR .span 4
          match if n = 0 then .ok (input.toOption.getD 0) else input with
          | .error f => bad f
          | .ok h =>
            match if n = 0 then none else t.spanFault h (4 * n) .span with
            | some (x, r) => bad (t.flt 6 r x)
            | none =>
              match lookTree l.dtree h n l.dmin t with
              | .ok ((h, k, a), s) =>
                .next ((settle s fun l => { l with found := if h = 0 then none else some (word h, word k, word a) }).post (.keeperStep l.dtree))
              | .error (.park h why) => .next ((s.setLaunch lnum fun l => { l with lookHeld := some h }).tell (.unit h why))
              | .error (.delta r handle) => bad (t.flt 0x17 r l.dtree handle)
              | .error (.data f) => bad f
              | .error .full => .next (settle s id)

/-! Chunks (R57 to R59). -/

/-- Whether every member of a waiting task's gang has been granted, so that it waits for slots only (R43). -/
def Launch.gangGranted (l : Launch) (t : Start) : Bool :=
  match t.gang with
  | none => true
  | some _ =>
    let js := (l.groupsOf (fld t.gid 47 0)).filter fun j => !(l.gangSerials j).isEmpty
    ((l.component l.groups.length js).flatMap l.gangSerials).all (· < l.next)

/-- Indices granted to a wing that have not been started: those of chunks not handed out yet, those that wait in its halls, unless their gang waits for the grant of
others (log 27), and those whose start event has not been carried out. -/
def State.unstarted (s : State) (lnum : Nat) (l : Launch) (wing : Nat) : Nat :=
  let pending := (l.notices.filter fun q => !q.spawn && q.grantee == wing && !q.handed && !q.reported).map fun q => q.last - q.first
  let waiting := (List.range 4).map fun i =>
    ((s.hall (4 * wing + i)).waiting.filter fun t => t.lnum == lnum && t.image.isNone && l.gangGranted t && decide (fld t.gid 47 0 < 2 ^ 47)).length
  let sent := s.cells.filter fun e =>
    coreOf (e.1 / 64) / 768 == wing && e.2.lnum == lnum && e.2.image.isNone && e.2.flight.isNone && decide (fld e.2.gid 47 0 < 2 ^ 47)
  pending.sum + waiting.sum + sent.length

/-- CHUNK_REQUEST (R57): a wing with fewer than C / 2 unstarted indices asks for its next chunk. -/
def execChunkRequest (lnum wing : Nat) (s : State) : Res :=
  match s.launch? lnum with
  | none => .next s
  | some l =>
    if l.wings.contains wing && (!l.dr || l.looked) && decide (l.next < l.n) && decide (2 * s.unstarted lnum l wing < l.chunk) then
      .next (s.post (.grantNotice lnum wing false))
    else .next s

/-- GRANT_NOTICE (R58): the leader grants the next chunk, or the next block of 256 spawn serials, and every participant acknowledges. -/
def execGrantNotice (lnum wing : Nat) (spawn : Bool) (s : State) : Res :=
  match s.launch? lnum with
  | none => .next s
  | some l =>
    let first := if spawn then l.spawnNext else l.next
    let last := if spawn then min (first + 256) serialEnd else min (first + l.chunk) l.n
    if (!spawn && (!l.wings.contains wing || (l.dr && !l.looked))) || decide (last ≤ first) then .next s
    else
      let q : Notice := { first := first, last := last, grantee := wing, spawn := spawn, holders := [], left := last - first }
      let s := s.setLaunch lnum fun l =>
        { l with notices := l.notices ++ [q], next := if spawn then l.next else last, spawnNext := if spawn then last else l.spawnNext }
      .next (l.wings.foldl (fun s w => s.convey (wingPort l.leader) (wingPort w) 16 [.grantAcknowledgement lnum first w] (some 0)) s)

/-- The launch with a changed notice. -/
def Launch.setNotice (l : Launch) (first : Nat) (f : Notice → Notice) : Launch :=
  { l with notices := l.notices.map fun q => if q.first = first then f q else q }

/-- Whether every participant holds a notice. -/
def Launch.heldByAll (l : Launch) (q : Notice) : Bool := l.wings.all q.holders.contains

/-- GRANT_ACKNOWLEDGEMENT (R58). -/
def execGrantAcknowledgement (lnum first wing : Nat) (s : State) : Res :=
  match s.launch? lnum with
  | none => .next s
  | some l =>
    if !l.wings.contains wing then .next s
    else
      let l := l.setNotice first fun q => if q.holders.contains wing then q else { q with holders := q.holders ++ [wing] }
      let s := s.setLaunch lnum fun _ => l
      match l.notices.find? (·.first == first) with
      | some q => if l.heldByAll q && !q.committed then .next (s.post (.grantCommit lnum first)) else .next s
      | none => .next s

/-- The spawned tasks of a wing that wait for a serial receive those of its block (R58). -/
def State.drainSpawns (s : State) (lnum wing : Nat) : List (Nat × Start) → State
  | [] => s
  | (hall, st) :: t =>
    if hall / 4 ≠ wing then s.drainSpawns lnum wing t
    else
      match (s.launch? lnum).bind fun l => l.takeSerial wing with
      | none => s
      | some (k, l) =>
        let st' := { st with gid := word (lnum * 2 ^ 48 + k), regs := if st.handler then st.regs else tput 0 st.regs 2 (word k) }
        let s := s.setLaunch lnum fun _ => { l with spawnQ := l.spawnQ.erase (hall, st) }
        ((s.setHall hall fun h => { h with waiting := h.waiting ++ [st'] }).post (.slotEvent hall)).drainSpawns lnum wing t

/-- GRANT_COMMIT (R58). -/
def execGrantCommit (lnum first : Nat) (s : State) : Res :=
  match s.launch? lnum with
  | none => .next s
  | some l =>
    match l.notices.find? (·.first == first) with
    | none => .next s
    | some q =>
      if q.committed || !l.heldByAll q || q.reported then .next s
      else
        let s := s.setLaunch lnum fun l => l.setNotice first fun q => { q with committed := true }
        if q.spawn then
          let s := s.setLaunch lnum fun l => { l with spawnBlk := tset l.spawnBlk q.grantee (q.first, q.last) }
          let s := s.drainSpawns lnum q.grantee l.spawnQ
          let more := ((s.launch? lnum).map fun l => l.spawnQ.any fun x => x.1 / 4 == q.grantee).getD false
          .next (if more then s.post (.grantNotice lnum q.grantee true) else s)
        else .next (s.convey (wingPort l.leader) (wingPort q.grantee) 16 [.chunkHandout lnum first])

/-- Halls that receive indices of a wing's chunk, each with its end: in increasing order and in proportion to the vacant slots that the
queue owns there, or in equal parts where it owns none (R59; log 28). -/
def State.shares (s : State) (l : Launch) (wing first count : Nat) : List (Nat × Nat) :=
  let hs := match l.hall with
    | some h => if s.hallOpen h then [h] else []
    | none => ((List.range 4).map (4 * wing + ·)).filter s.hallOpen
  let vac := hs.map fun h => s.vacantIn h l.queue
  let vac := if vac.sum = 0 then hs.map fun _ => 1 else vac
  (hs.zipIdx).map fun x => (x.1, first + count * (vac.take (x.2 + 1)).sum / vac.sum)

/-- The start of an index task (R40). -/
def Launch.indexStart (l : Launch) (lnum i : Nat) : Start :=
  { lnum := lnum, gid := word (lnum * 2 ^ 48 + i), entry := l.entry,
    regs := tput 0 (tput 0 (tput 0 [] 1 l.args) 2 (word i)) 3 (word l.n), segs := l.segset, hnd := l.handler,
    grp := grpWord (l.groupsOf i), lrec := word l.record, queue := l.queue, gang := l.gangOf i }

/-- An index is handed to a hall; a member of a gang goes to the hall that the gang's first member was handed to (R43; log 27). -/
def State.handIndex (s : State) (lnum hall i : Nat) : State :=
  match s.launch? lnum with
  | none => s
  | some l =>
    let t := l.indexStart lnum i
    let put := fun (s : State) h => s.setHall h fun x => { x with waiting := x.waiting ++ [t] }
    match t.gang with
    | none => put s hall
    | some (k, _) =>
      match tfind l.gangHall k with
      | some h => put s h
      | none => put (s.setLaunch lnum fun l => { l with gangHall := tset l.gangHall k hall }) hall

/-- Hands indices `i`, `i + 1`, … out, each to the hall whose part it falls in. -/
def State.handOut (s : State) (lnum : Nat) (hs : List (Nat × Nat)) (i : Nat) : Nat → State
  | 0 => s
  | n + 1 =>
    match hs.find? fun h => decide (i < h.2) with
    | some h => (s.handIndex lnum h.1 i).handOut lnum hs (i + 1) n
    | none => s

/-- CHUNK_HANDOUT (R59). -/
def execChunkHandout (lnum first : Nat) (s : State) : Res :=
  match s.launch? lnum with
  | none => .next s
  | some l =>
    match l.notices.find? (·.first == first) with
    | none => .next s
    | some q =>
      let hs := s.shares l q.grantee q.first (q.last - q.first)
      if !q.committed || q.spawn || q.handed || q.reported || hs.isEmpty then .next s
      else
        let s := s.setLaunch lnum fun l => l.setNotice first fun q => { q with handed := true }
        let s := s.handOut lnum hs q.first (q.last - q.first)
        let halls := (hs.map (·.1) ++ ((s.launch? lnum).map fun l => l.gangHall.map (·.2)).getD []).eraseDups
        .next ((halls.foldl (fun s h => s.convey (wingPort q.grantee) (hallPort h) 16 [.slotEvent h]) s).askChunk lnum q.grantee)

/-- CHUNK_COMPLETION_REPORT (R58). -/
def execChunkCompletionReport (lnum first : Nat) (s : State) : Res :=
  match s.launch? lnum with
  | none => .next s
  | some l =>
    match l.notices.find? (·.first == first) with
    | none => .next s
    | some q =>
      if q.spawn || !q.handed || q.left ≠ 0 then .next s
      else .next ((s.setLaunch lnum fun l => l.setNotice first fun q => { q with reported := true }).post (.launchCompletion lnum))

/-! Losing a wing (R60 to R63). -/

/-- The wing with a changed state. -/
def State.setWing (s : State) (w : Nat) (f : Wing → Wing) : State := { s with wings := tset s.wings w (f (tget {} s.wings w)) }

/-- A wing's heartbeat reaches every other wing (R60); a wing out of service sends none. -/
def State.beat (s : State) (wing : Nat) : State :=
  if !s.wingUp wing then s
  else
    ((List.range 8).filter fun w => w != wing && s.wingUp w).foldl (fun s w =>
      s.setWing w fun x => { x with heard := tset x.heard wing s.now }) s

/-- HEARTBEAT (R60). -/
def execHeartbeat (wing : Nat) (s : State) : Res := if 8 ≤ wing then .fault (.noSuchUnit wing) else .next (s.beat wing)

/-- A wing that has heard nothing of another for 10 µs, and has not declared it lost, tells every participant that it is (R60). -/
def State.declareLost (s : State) (wing silent : Nat) : State :=
  let w : Wing := tget {} s.wings wing
  if wing = silent ∨ s.wingUp wing = false ∨ w.lost.contains silent = true ∨ s.now < tget 0 w.heard silent + 10000 then s
  else ((List.range 8).filter fun x => x != silent && s.wingUp x).foldl (fun s x => s.convey (wingPort wing) (wingPort x) 8 [.lossDeclaration x silent]) s

/-- WING_LOST (R60): a wing notices 10 µs of silence and declares the silent wing lost. -/
def execWingLost (wing silent : Nat) (s : State) : Res :=
  if 8 ≤ wing ∨ 8 ≤ silent then .fault (.noSuchUnit (max wing silent)) else .next (s.declareLost wing silent)

/-- Wing that a core belongs to. -/
def wingOf (core : Nat) : Nat := if isPorch core then (core - barrelCores) / 12 else core / 768

/-- Whether a migration packet is lost with a wing: it goes there, or a sender there keeps it (03 R78). -/
def Flight.inWing (f : Flight) (w : Nat) : Bool := wingOf f.target == w || (f.resendAt.isSome && wingOf (coreOf f.origin) == w)

/-- Whether a launch has a task in a wing: in one of its slots, or on its way there, to start or as an image. -/
def State.hasTasks (s : State) (lnum w : Nat) : Bool :=
  (s.ctxs.any fun e => wingOf (coreOf e.1) == w && e.2.lnum == lnum) || (s.flights.any fun e => e.2.inWing w && e.2.task.lnum == lnum) ||
    (s.cells.any fun e => wingOf (coreOf (e.1 / 64)) == w && e.2.lnum == lnum) ||
    (s.halls.any fun h => h.1 / 4 == w && (h.2.waiting ++ h.2.heldStarts).any (·.lnum == lnum)) ||
    s.images.any fun x => x.2.hall / 4 == w && fld x.2.gid 63 48 == lnum

/-- LOSS_DECLARATION (R60, R61, R63): a wing adopts it, and the launches that it takes part in, or that have a task there, elect again; the
attic reroutes (11 R270). -/
def execLossDeclaration (wing lost : Nat) (s : State) : Res :=
  if 8 ≤ wing ∨ 8 ≤ lost then .fault (.noSuchUnit (max wing lost))
  else
    let s := s.setWing wing fun x => if x.lost.contains lost then x else { x with lost := x.lost ++ [lost] }
    .next ((s.postAll ((s.launches.filter fun e => e.2.wings.contains lost || s.hasTasks e.1 lost).map fun e => .leaderElection e.1)).post .reroute)

/-- The tasks of a launch in a lost wing are gone (R63): those in its slots, in migration to them, on the way to start or resume, waiting to start,
pre-empted there, and saved there as their slots were lent. -/
def State.loseTasks (s : State) (lnum w : Nat) : State :=
  let gone := s.ctxs.filter fun e => wingOf (coreOf e.1) == w && e.2.lnum == lnum && e.2.status != .vacant && e.2.status != .ended
  let s := gone.foldl (fun s e =>
    ({ (s.withdraw e.1) with ctxs := tdel s.ctxs e.1 }).retired' e.2.gid) s
  let lostF := s.flights.filter fun e => e.2.inWing w && e.2.task.lnum == lnum
  let s := { s with flights := s.flights.filter fun e => !(e.2.inWing w && e.2.task.lnum == lnum) }
  let s := lostF.foldl (fun s e => s.retired' e.2.task.gid) s
  let sent := s.cells.filter fun e => wingOf (coreOf (e.1 / 64)) == w && e.2.lnum == lnum
  let s := { s with cells := s.cells.filter fun e => !(wingOf (coreOf (e.1 / 64)) == w && e.2.lnum == lnum) }
  let s := { s with images := s.images.filter fun i => !(sent.any fun e => e.2.image == some i.1) }
  let s := (sent.filter fun e => e.2.flight.isNone && (e.2.image.isSome || decide (2 ^ 47 ≤ fld e.2.gid 47 0))).foldl (fun s e => s.retired' e.2.gid) s
  (List.range 4).foldl (fun s i =>
    let h := s.hall (4 * w + i)
    let mine := fun (t : Start) => t.lnum == lnum
    let live := (h.waiting ++ h.heldStarts).filter fun t => mine t && (t.image.isSome || decide (2 ^ 47 ≤ fld t.gid 47 0))
    let images := (h.images.filterMap fun a => (tfind s.images a).map fun r => (a, r)).filter fun x => fld x.2.gid 63 48 == lnum
    let s := s.setHall (4 * w + i) fun h =>
      { h with waiting := h.waiting.filter fun t => !mine t, heldStarts := h.heldStarts.filter fun t => !mine t,
               images := h.images.filter fun a => !images.any fun x => x.1 == a }
    let s := live.foldl (fun s t => s.retired' t.gid) s
    let lent := s.images.filter fun x => x.2.lent && x.2.hall == 4 * w + i && fld x.2.gid 63 48 == lnum
    (images ++ lent).foldl (fun s x => ({ s with images := tdel s.images x.1 }).retired' x.2.gid) s) s

/-- The leader resets its counters, commits what a survivor holds for a survivor, and records the lost chunks (R61). -/
def Launch.survive (l : Launch) (lost : List Nat) : Launch :=
  let left := l.wings.filter fun w => !lost.contains w
  let newLeader := lost.contains l.leader
  let held := l.notices.filter fun q => !newLeader || q.holders.any left.contains || left.isEmpty
  let top := fun (spawn : Bool) (b : Nat) => (held.filter fun q => q.spawn == spawn).foldl (fun m q => max m q.last) b
  let gone := held.filter fun q => !q.spawn && lost.contains q.grantee && !q.reported
  { l with
    wings := left, leader := if newLeader then left.headD l.leader else l.leader,
    next := if left.isEmpty then l.n else if newLeader then top false 0 else l.next,
    spawnNext := if newLeader then top true (2 ^ 47) else l.spawnNext,
    notices := held.map fun q =>
      if lost.contains q.grantee then { q with reported := true, left := 0, committed := true, handed := true }
      else { q with holders := left },
    lost := l.lost ++ gone.map fun q => (q.first, q.last), spawnQ := l.spawnQ.filter fun x => !lost.contains (x.1 / 4),
    status := max l.status 1 }

/-- LEADER_ELECTION (R61): once every survivor has declared the same wings lost. The launch's tasks that migration had brought into a lost wing that took no part in it are
gone as well (R63). -/
def execLeaderElection (lnum : Nat) (s : State) : Res :=
  match s.launch? lnum with
  | none => .next s
  | some l =>
    let seen := fun w => (tget ({} : Wing) s.wings w).lost
    let lost := l.wings.filter fun w => s.wings.any fun e => e.2.lost.contains w
    let left := l.wings.filter fun w => !lost.contains w
    let far := (List.range 8).filter fun w => !l.wings.contains w && (s.wings.any fun e => e.2.lost.contains w) && left.all fun x => (seen x).contains w
    let s := far.foldl (fun s w => if s.hasTasks lnum w then s.loseTasks lnum w else s) s
    if lost.isEmpty || !(left.all fun w => lost.all (seen w).contains) then .next s
    else
      let s := lost.foldl (fun s w => s.loseTasks lnum w) s
      let queued := (l.spawnQ.filter fun x => lost.contains (x.1 / 4)).length
      let s := s.setLaunch lnum fun l => { (l.survive lost) with live := l.live - queued }
      let s := if queued = 0 then s else s.recordWrite lnum 0x50 8 (((s.launch? lnum).map Launch.live).getD 0)
      let s := s.postAll ((((s.launch? lnum).map Launch.notices).getD []).filterMap fun q =>
        if q.committed then none else some (.grantCommit lnum q.first))
      .next ((left.foldl (fun s w => s.askChunk lnum w) s).post (.launchCompletion lnum))

/-! Completion (23 R411, R412). -/

/-- Whether every index has been started, or lies in a lost chunk, and no task is live (R411). -/
def Launch.isOver (l : Launch) : Bool :=
  decide (l.n ≤ l.next) && l.live == 0 && l.spawnQ.isEmpty && l.overQ.isEmpty && l.notices.all fun q => q.spawn || (q.handed && q.left == 0)

/-- The lost ranges in increasing order (03 R62). -/
def Launch.ranges (l : Launch) : List (Nat × Nat) := sortUp (·.1) l.lost

/-- STATUS of a completed launch (02 R37, R39). -/
def Launch.statusWord (l : Launch) : Nat := l.status + l.lost.length * 2 ^ 32

/-- Writes ranges into LOSTA. -/
def State.writeRanges (s : State) (n addr : Nat) : List (Nat × Nat) → State
  | [] => s
  | (a, b) :: t => ((s.launchWrite n addr 8 a).launchWrite n (addr + 8) 8 b).writeRanges n (addr + 16) t

/-- The pin of a lookup that passed to no task is released (19 R376); the address where a translation fault holds that. -/
def State.dropPin (s : State) (l : Launch) : Except (Nat × XReason) State :=
  match l.found, l.pinPassed with
  | some (h, _, _), false =>
    match relTree l.dtree h.toNat s with
    | .ok (_, s) => .ok s
    | .error (.park h why) => .error (h, why)
    | .error _ => .ok s
  | _, _ => .ok s

/-- LAUNCH_COMPLETION (R412): once every late record is written, LOSTA and STATUS; then, once every held write has been performed, the future, the node and the
number. The fill is the STATUS word as it was written. -/
def execLaunchCompletion (lnum : Nat) (s : State) : Res :=
  command s <|
  match s.launch? lnum with
  | none => .next s
  | some l =>
    if l.outlived then .next (s.forget (word l.record))
    else if !l.isOver || !l.lateQ.isEmpty then .next s
    else
      let s :=
        if l.closing = some l.statusWord then s
        else
          ((s.setLaunch lnum fun l => { l with closing := some l.statusWord }).writeRanges lnum l.losta (l.ranges.take l.lostn)).recordWrite lnum 0x80 8
            l.statusWord
      if ((s.launch? lnum).map fun l => !l.heldW.isEmpty || l.pinHeld).getD false then .next s
      else
        match s.dropPin l with
        | .error (h, why) => .next ((s.setLaunch lnum fun l => { l with pinHeld := true }).tell (.unit h why))
        | .ok s =>
        let hall := s.launchHall l
        let s := match l.done with
          | some f => s.complete hall (sourceOf hall 0 0 4) 0 f (word l.statusWord)
          | none => s
        let s := match l.node with
          | some (r, i) => s.post (.graphNodeComplete r i l.status)
          | none => s
        let s := { s with launches := tdel s.launches lnum }
        if lnum < 65536 && s.leftOver (word l.record) then
          .next { s with launches := tset s.launches s.refusedKey { l with outlived := true, live := 0, wings := [], notices := [], groups := [] } }
        else .next s

/-! Graphs (02 R46 to R49). -/

/-- Takes one from the remaining counts of a node's successors; those that reach 0 are released (R46). -/
def State.release1 (s : State) (replay : Nat) : List Nat → State
  | [] => s
  | j :: t =>
    match tfind s.replays replay with
    | none => s
    | some r =>
      let k := tget 0 r.remain j
      let s := { s with replays := tset s.replays replay { r with remain := tset r.remain j (k - 1) } }
      (if k = 1 then s.releaseNode replay j else s).release1 replay t

/-- GRAPH_NODE_COMPLETE (R46; 23 R412): the replay's last node fills its future and releases its version. -/
def execGraphNodeComplete (replay node status : Nat) (s : State) : Res :=
  match tfind s.replays replay with
  | none => .next s
  | some r =>
    if r.nodes.length ≤ node ∨ r.ended.contains node = true then .next s
    else
      let s := { s with replays := tset s.replays replay { r with ended := node :: r.ended, status := max r.status (status % 256) } }
      let s := s.release1 replay (r.nodes.getD node (0, [])).2
      match tfind s.replays replay with
      | none => .next s
      | some r =>
        if r.ended.length < r.nodes.length then .next s
        else
          let hall := match unitOf r.graph with
            | .localStore core _ => core / 192
            | _ => 0
          let s := if r.future = 0 then s else s.complete hall (sourceOf hall 0 0 4) 0 r.future (word r.status)
          let s := s.graphField (r.graph + 0x30) r.slot fun p => p - 1
          let s := { s with replays := tdel s.replays replay }
          .next (if s.isFull (r.graph + 0x40) then s.post (.patchApply r.graph) else s)

/-- PATCH_APPLY (R48): the lowest slot that is not current and carries no pin takes the parameters, and becomes current. A patch whose
parameters cannot be read or written stays in PATCH (log 21). -/
def execPatchApply (graph : Nat) (s : State) : Res :=
  command s <|
  if !s.graphs.contains graph || !s.isFull (graph + 0x40) then .next s
  else
    let hall := match unitOf graph with
      | .localStore core _ => core / 192
      | _ => 0
    let cur := s.loadW (graph + 0x28)
    let pins := (s.loadW (graph + 0x30)).toNat
    match lowest (fun i => decide (i ≠ fld cur 17 16) && bits pins (16 * i + 15) (16 * i) == 0) 0 4 with
    | none => .next s
    | some i =>
      let n := fld (s.loadW (graph + 0x20)) 31 0
      let src := (s.loadW (graph + 0x40)).toNat
      let dst := (s.loadW (graph + 0x18)).toNat + i * n
      match s.houseRead hall src (n / 8) with
      | .wait s h why => .next (s.tell (.unit h why))
      | .bad s => .next s
      | .ok s ws =>
        match s.houseWrite hall dst ws with
        | .wait s h why => .next (s.tell (.unit h why))
        | .bad s => .next s
        | .ok s _ =>
          match s.feTake (graph + 0x40) with
          | none => .next s
          | some (_, s) =>
            let v := (fld cur 15 0 + 1) % 65536
            let s := s.graphField (graph + 0x38) i fun _ => v
            let s := s.store (graph + 0x28) 8 (i * 65536 + v)
            .next (s.devicePut (graph + 0x48) (word v))

end Sys2Proof.Machine
end

