-- ==== Sys2Proof/Machine/HostRequest.lean ====
section
/-! DEFINITION. Requests of the host (25 R431, R432; 03 R55): the launch window, the registers and the aperture, in PCIe order. -/

namespace Sys2Proof.Machine

/-- Changes the attic. -/
def State.setAttic (s : State) (f : Attic → Attic) : State := { s with attic := f s.attic }

/-- What a host request that completes with Completer Abort leaves among the completions: a value that no result of up to 4,096 bytes has. -/
abbrev completerAbort : Nat := 2 ^ 32768

/-- A host request completes with a value. -/
def State.complete' (s : State) (v : Nat) : State := s.setAttic fun a => { a with completions := a.completions ++ [v] }

/-- Every bit of a completion set. -/
abbrev allOnes : Nat := 2 ^ 64 - 1

/-- The reply to an attestation request (R439): measurements of the boot ROM, the attic image and the active slot, the rollback counter, the
nonce and the signature over them (log 11). Slot 2 stands for the attic image that runs. -/
def State.attest (s : State) (nonce : Nat) : State :=
  if s.attic.keyErased || !s.attic.running then s
  else
    let a := s.attic
    let m := [Config.measure Config.bootRom, Config.measure (tget 0 a.slots 2), Config.measure (tget 0 a.slots (b2n a.slotB)), a.rollback, nonce]
    let r := m ++ [Config.sign m]
    s.setAttic fun a => { a with reply := r, mbuf := Config.mbufReply r % 2 ^ 32768, go := false }

/-- GO is set (R431): the request in MBUF passes to the attic, which answers it once it runs. -/
def State.setGo (s : State) : State :=
  let s := s.setAttic fun a => { a with go := true }
  s.attest (s.attic.mbuf % 2 ^ 256)

/-- A request on the aperture (R431): performed, waiting for the attic's wake, or completed with Completer Abort. A write carries at most 512 bytes, a read
asks for at most 4,096, and neither crosses a 4 KiB boundary; an atomic, which BAR 4 does not perform, is a request of size 0 (log 87). -/
def State.aperture (s : State) (write : Bool) (offset size : Nat) (data : Nat) : State :=
  if size = 0 ∨ (if write then 512 else 4096) < size ∨ 4096 < offset % 4096 + size ∨ 2 ^ 40 < offset + size then s.complete' completerAbort
  else
    let h := 0x100_0000_0000 + offset
    match s.reach 608 h (if write then rW else rR) with
    | (s, .error why) => (s.setAttic fun a => { a with hostQ := a.hostQ ++ [.aperture write offset size data] }).tell (.unit h why)
    | (s, .ok p) =>
      if s.physOffline p then s.complete' completerAbort
      else if write then s.put p size data
      else s.complete' (s.get p size)

/-- A compare-and-swap on a launch word (03 R55; R433). -/
def State.launchCas (s : State) (hall wd : Nat) (compare swap : Word) : State :=
  if !s.hallOpen hall then s.complete' allOnes
  else
    let h := launchAddr hall wd
    if s.isFull h then s.complete' (s.loadW h).toNat
    else if compare ≠ 0 then s.complete' 0
    else (s.feFill h swap).complete' 0

/-- Performs one host request. -/
def State.hostDo (s : State) : HostReq → State
  | .aperture write offset size data => s.aperture write offset size data
  | .launchCas hall wd compare swap => s.launchCas hall wd compare swap
  | .misuse => (s.setAttic fun a => { a with misuse := min (a.misuse + 1) (2 ^ 64 - 1) }).complete' completerAbort
  | .otherRead => s.complete' allOnes
  | .misuseClear => s.setAttic fun a => { a with misuse := 0 }
  | .registerWrite offset value =>
    if 0x1000 ≤ offset ∧ offset + 8 ≤ 0x2000 then
      let o := 8 * (offset - 0x1000)
      s.setAttic fun a => { a with mbuf := a.mbuf % 2 ^ o + value.toNat * 2 ^ o + a.mbuf / 2 ^ (o + 64) * 2 ^ (o + 64) }
    else if offset = 0x10 then s.setAttic fun a => { a with misuse := 0 }
    else if offset = 0x18 ∧ bitOf value.toNat 0 then s.setGo
    else s
  | .mboxGo => s.setGo

/-- What a read of 8 bytes of BAR 0 at an aligned offset shows (R431): ID, HSTAT, MISUSE, MBOX and MBUF; other offsets read as 0. -/
def State.register (s : State) (offset : Nat) : Word :=
  let a := s.attic
  if offset = 0 then word (s.fit.form + Config.revision % 65536 * 65536)
  else if offset = 8 then word (b2n a.running + 2 * b2n a.bootFailed + 4 * (a.alarm % 4) + 16 * b2n a.keyErased)
  else if offset = 0x10 then word a.misuse
  else if offset = 0x18 then word (b2n a.go)
  else if 0x1000 ≤ offset ∧ offset + 8 ≤ 0x2000 then word (a.mbuf / 2 ^ (8 * (offset - 0x1000)) % 2 ^ 64)
  else 0

/-- Whether a waiting request is a posted write, which no later request passes (R432). -/
def HostReq.isWrite : HostReq → Bool
  | .aperture write _ _ _ => write
  | _ => false

/-- A host request in PCIe order (R432): it waits behind a write that waits. -/
def State.admitHost (s : State) (r : HostReq) : State :=
  if s.attic.hostQ.any HostReq.isWrite then s.setAttic fun a => { a with hostQ := a.hostQ ++ [r] } else s.hostDo r

/-- A request reaches the host port; while the attic holds, the port is stopped (R440). -/
def State.hostRequest (s : State) (r : HostReq) : State := if s.attic.holding then s else s.admitHost r

/-- Requests that waited are made again, in order. -/
def State.retryHost (s : State) : State :=
  s.attic.hostQ.foldl State.admitHost (s.setAttic fun a => { a with hostQ := [] })

end Sys2Proof.Machine
end

