-- ==== Sys2Proof/Machine/Scalar.lean ====
section
/-! DEFINITION. The scalar instructions of 06 R126 to R136: arithmetic, constants, bit fields, conditions and skips. Each has a
fixed latency and no memory effect. -/

namespace Sys2Proof.Machine

/-- Result of a two-operand form: d ← f(a, b), both read before the bundle issued (R125). -/
def op2 (f : Word → Word → Word) (d a b : BitVec 5) (s : State) : Res := .next (s.wr d (f (s.rg a) (s.rg b)))

/-- Result of a form with one register and an immediate. -/
def opI (f : Word → Word) (d a : BitVec 5) (s : State) : Res := .next (s.wr d (f (s.rg a)))

/-- High half of the signed product (R127). -/
def mulHi (a b : Word) : Word := wordI (a.toInt * b.toInt / (2 ^ 64 : Nat))

/-- High half of the natural product (R127). -/
def mulHn (a b : Word) : Word := word (a.toNat * b.toNat / 2 ^ 64)

/-- MIN of R129. -/
def minInt : Word := 0x8000_0000_0000_0000

/-- Signed quotient (R129). -/
def divI (a b : Word) : Word :=
  if b = 0 then 0xFFFF_FFFF_FFFF_FFFF
  else if a = minInt ∧ b = 0xFFFF_FFFF_FFFF_FFFF then minInt
  else wordI (a.toInt.tdiv b.toInt)

/-- Signed remainder, with the sign of a (R129). -/
def remI (a b : Word) : Word :=
  if b = 0 then a
  else if a = minInt ∧ b = 0xFFFF_FFFF_FFFF_FFFF then 0
  else wordI (a.toInt - a.toInt.tdiv b.toInt * b.toInt)

/-- Natural quotient (R129). -/
def divN (a b : Word) : Word := if b = 0 then 0xFFFF_FFFF_FFFF_FFFF else word (a.toNat / b.toNat)

/-- Natural remainder (R129). -/
def remN (a b : Word) : Word := if b = 0 then a else word (a.toNat % b.toNat)

/-- SHL by n (R130). -/
def shlW (a : Word) (n : Nat) : Word := a <<< (n % 64)

/-- SHR by n (R130). -/
def shrW (a : Word) (n : Nat) : Word := a >>> (n % 64)

/-- SAR by n (R130). -/
def sarW (a : Word) (n : Nat) : Word := a.sshiftRight (n % 64)

/-- ROL by n (R130); n = 0 gives a. -/
def rolW (a : Word) (n : Nat) : Word := a <<< (n % 64) ||| a >>> (64 - n % 64)

/-- ROR by n (R130); n = 0 gives a. -/
def rorW (a : Word) (n : Nat) : Word := a >>> (n % 64) ||| a <<< (64 - n % 64)

/-- Signed minimum and maximum (R127). -/
def minI (a b : Word) : Word := if a.toInt ≤ b.toInt then a else b

/-- Signed maximum. -/
def maxI (a b : Word) : Word := if a.toInt ≤ b.toInt then b else a

/-- Natural minimum. -/
def minN (a b : Word) : Word := if a.toNat ≤ b.toNat then a else b

/-- Natural maximum. -/
def maxN (a b : Word) : Word := if a.toNat ≤ b.toNat then b else a

/-- Bits [hi:lo] of `d` replaced by the low bits of `x`, its other bits kept (R132, R134). -/
def insW (d : Word) (hi lo : Nat) (x : Nat) : Word := setFld d hi lo x

/-- ADD (R127). -/
def execAdd (d a b : BitVec 5) (s : State) : Res := op2 (· + ·) d a b s

/-- SUB (R127). -/
def execSub (d a b : BitVec 5) (s : State) : Res := op2 (· - ·) d a b s

/-- MUL (R127). -/
def execMul (d a b : BitVec 5) (s : State) : Res := op2 (· * ·) d a b s

/-- MULH_I (R127). -/
def execMulhI (d a b : BitVec 5) (s : State) : Res := op2 mulHi d a b s

/-- MULH_N (R127). -/
def execMulhN (d a b : BitVec 5) (s : State) : Res := op2 mulHn d a b s

/-- DIV_I (R129). -/
def execDivI (d a b : BitVec 5) (s : State) : Res := op2 divI d a b s

/-- DIV_N (R129). -/
def execDivN (d a b : BitVec 5) (s : State) : Res := op2 divN d a b s

/-- REM_I (R129). -/
def execRemI (d a b : BitVec 5) (s : State) : Res := op2 remI d a b s

/-- REM_N (R129). -/
def execRemN (d a b : BitVec 5) (s : State) : Res := op2 remN d a b s

/-- AND (R127). -/
def execAnd (d a b : BitVec 5) (s : State) : Res := op2 (· &&& ·) d a b s

/-- OR (R127). -/
def execOr (d a b : BitVec 5) (s : State) : Res := op2 (· ||| ·) d a b s

/-- XOR (R127). -/
def execXor (d a b : BitVec 5) (s : State) : Res := op2 (· ^^^ ·) d a b s

/-- ANDN (R127). -/
def execAndn (d a b : BitVec 5) (s : State) : Res := op2 (fun a b => a &&& ~~~b) d a b s

/-- SHL (R130). -/
def execShl (d a b : BitVec 5) (s : State) : Res := op2 (fun a b => shlW a b.toNat) d a b s

/-- SHR (R130). -/
def execShr (d a b : BitVec 5) (s : State) : Res := op2 (fun a b => shrW a b.toNat) d a b s

/-- SAR (R130). -/
def execSar (d a b : BitVec 5) (s : State) : Res := op2 (fun a b => sarW a b.toNat) d a b s

/-- ROL (R130). -/
def execRol (d a b : BitVec 5) (s : State) : Res := op2 (fun a b => rolW a b.toNat) d a b s

/-- ROR (R130). -/
def execRor (d a b : BitVec 5) (s : State) : Res := op2 (fun a b => rorW a b.toNat) d a b s

/-- MIN_I (R127). -/
def execMinI (d a b : BitVec 5) (s : State) : Res := op2 minI d a b s

/-- MAX_I (R127). -/
def execMaxI (d a b : BitVec 5) (s : State) : Res := op2 maxI d a b s

/-- MIN_N (R127). -/
def execMinN (d a b : BitVec 5) (s : State) : Res := op2 minN d a b s

/-- MAX_N (R127). -/
def execMaxN (d a b : BitVec 5) (s : State) : Res := op2 maxN d a b s

/-- CLZ (R131). -/
def execClz (d a : BitVec 5) (s : State) : Res := opI (fun a => word (clzN 64 a.toNat)) d a s

/-- CTZ (R131). -/
def execCtz (d a : BitVec 5) (s : State) : Res := opI (fun a => word (ctzN 64 a.toNat)) d a s

/-- POPC (R131). -/
def execPopc (d a : BitVec 5) (s : State) : Res := opI (fun a => word (popN 64 a.toNat)) d a s

/-- BREV (R127). -/
def execBrev (d a : BitVec 5) (s : State) : Res := opI (fun a => word (revN 64 a.toNat)) d a s

/-- BSWAP (R127). -/
def execBswap (d a : BitVec 5) (s : State) : Res := opI (fun a => word (swapN 8 a.toNat)) d a s

/-- ADD_IMM (R128). -/
def execAddImm (d a : BitVec 5) (i : BitVec 15) (s : State) : Res := opI (fun a => a + sextI i) d a s

/-- MUL_IMM (R128). -/
def execMulImm (d a : BitVec 5) (i : BitVec 15) (s : State) : Res := opI (fun a => a * sextI i) d a s

/-- AND_IMM (R128). -/
def execAndImm (d a : BitVec 5) (i : BitVec 15) (s : State) : Res := opI (fun a => a &&& zextI i) d a s

/-- OR_IMM (R128). -/
def execOrImm (d a : BitVec 5) (i : BitVec 15) (s : State) : Res := opI (fun a => a ||| zextI i) d a s

/-- XOR_IMM (R128). -/
def execXorImm (d a : BitVec 5) (i : BitVec 15) (s : State) : Res := opI (fun a => a ^^^ zextI i) d a s

/-- RSUB (R128). -/
def execRsub (d a : BitVec 5) (i : BitVec 15) (s : State) : Res := opI (fun a => sextI i - a) d a s

/-- MIN_I_IMM (R128). -/
def execMinIImm (d a : BitVec 5) (i : BitVec 15) (s : State) : Res := opI (fun a => minI a (sextI i)) d a s

/-- MAX_I_IMM (R128). -/
def execMaxIImm (d a : BitVec 5) (i : BitVec 15) (s : State) : Res := opI (fun a => maxI a (sextI i)) d a s

/-- MIN_N_IMM (R128). -/
def execMinNImm (d a : BitVec 5) (i : BitVec 15) (s : State) : Res := opI (fun a => minN a (zextI i)) d a s

/-- MAX_N_IMM (R128). -/
def execMaxNImm (d a : BitVec 5) (i : BitVec 15) (s : State) : Res := opI (fun a => maxN a (zextI i)) d a s

/-- SHL_IMM (R128). -/
def execShlImm (d a : BitVec 5) (n : BitVec 6) (s : State) : Res := opI (fun a => shlW a n.toNat) d a s

/-- SHR_IMM (R128). -/
def execShrImm (d a : BitVec 5) (n : BitVec 6) (s : State) : Res := opI (fun a => shrW a n.toNat) d a s

/-- SAR_IMM (R128). -/
def execSarImm (d a : BitVec 5) (n : BitVec 6) (s : State) : Res := opI (fun a => sarW a n.toNat) d a s

/-- ROL_IMM (R128). -/
def execRolImm (d a : BitVec 5) (n : BitVec 6) (s : State) : Res := opI (fun a => rolW a n.toNat) d a s

/-- LI (R132). -/
def execLi (d : BitVec 5) (i : BitVec 20) (s : State) : Res := .next (s.wr d (sextI i))

/-- LIH (R132): bits [39:20] of gD, its other bits kept. -/
def execLih (d : BitVec 5) (i : BitVec 20) (s : State) : Res := .next (s.wr d (insW (s.rg d) 39 20 i.toNat))

/-- LIX (R132): bits [59:40] of gD, its other bits kept. -/
def execLix (d : BitVec 5) (i : BitVec 20) (s : State) : Res := .next (s.wr d (insW (s.rg d) 59 40 i.toNat))

/-- LIT (R132): bits [63:60] of gD, its other bits kept. -/
def execLit (d : BitVec 5) (i : BitVec 4) (s : State) : Res := .next (s.wr d (insW (s.rg d) 63 60 i.toNat))

/-- EXT.n (R134): the field of width w + 1 at p, zero-extended. -/
def execExtN (d a : BitVec 5) (p w : BitVec 6) (s : State) : Res :=
  opI (fun a => word (fld a (p.toNat + w.toNat) p.toNat)) d a s

/-- EXT.i (R134): the field, sign-extended. -/
def execExtI (d a : BitVec 5) (p w : BitVec 6) (s : State) : Res :=
  opI (fun a => sextW (w.toNat + 1) (fld a (p.toNat + w.toNat) p.toNat)) d a s

/-- INS (R134): the low bits of gA into the field of gD, its other bits kept. -/
def execIns (d a : BitVec 5) (p w : BitVec 6) (s : State) : Res :=
  .next (s.wr d (insW (s.rg d) (p.toNat + w.toNat) p.toNat (s.rg a).toNat))

/-- DEP (R134): the low bits of gA at p, every other bit zero. -/
def execDep (d a : BitVec 5) (p w : BitVec 6) (s : State) : Res :=
  opI (fun a => word (fld a w.toNat 0 * 2 ^ p.toNat)) d a s

/-- SET.cc (R135). -/
def execSetCc (d a b : BitVec 5) (c : BitVec 4) (s : State) : Res :=
  .next (s.wr d (b2w (condHolds c.toNat (s.rg a) (s.rg b) s.src.p)))

/-- The PC after the bundle at `pc` of the block in `place` and `n` further bundles (04 R84, 05 R113): the next bundle, or the word
after the block's last bundle, which is entered as a header. -/
def advance (c : Ctx) (n : Nat) : Word × Place :=
  let next := pcWord c.pc ((fld c.pc 60 0 : Int) + 8 * (n + 1))
  match c.place with
  | .block hdr b => (next, if next = pcWord hdr ((fld hdr 60 0 : Int) + 8 * (fld b 7 0 + 1)) then .header else c.place)
  | p => (next, p)

/-- Annuls the next n bundles (05 R113); the core counts them (24 R421). -/
def State.skip (s : State) (n : Nat) : State :=
  let t := advance s.src n
  (s.setMe fun c => { c with pc := t.1, place := t.2 }).bump s.myCore 24 n

/-- The effect of CMP: the skip when the condition holds, nothing otherwise (R136). -/
def compare (c : BitVec 4) (k : BitVec 2) (a b : Word) (s : State) : Res :=
  .next (if condHolds c.toNat a b s.src.p then s.skip k.toNat else s)

/-- CMP.cc.skN, register form (R136). -/
def execCmpSkn (c : BitVec 4) (k : BitVec 2) (a b : BitVec 5) (s : State) : Res := compare c k (s.rg a) (s.rg b) s

/-- CMP.cc.skN, immediate form (R136). -/
def execCmpSknImm (c : BitVec 4) (k : BitVec 2) (a : BitVec 5) (i : BitVec 14) (s : State) : Res :=
  compare c k (s.rg a) (cmpImm c i) s

/-- NOP in the S slot (04 R90). -/
def execNopS (s : State) : Res := .next s

/-- NOP in the V slot (04 R90). -/
def execNopV (s : State) : Res := .next s

end Sys2Proof.Machine
end

