-- ==== Sys2Proof/Machine/Issue.lean ====
section
/-! DEFINITION. Issue: block entry and header walks (04 R80 to R87), the rotation (05 R108 to R115, R124), stops (24 R423), the checks on a
bundle before it issues (04 R88, R91; 05 R112) and what its completion does (07 R177, 23 R402, 24 R423). -/

namespace Sys2Proof.Machine

/-! Headers (04 R80 to R83). -/

/-- The check byte that a header's other bytes call for (R81). -/
def hdrChk (w : Word) : Nat :=
  0x5A ^^^ fld w 55 48 ^^^ fld w 47 40 ^^^ fld w 39 32 ^^^ fld w 31 24 ^^^ fld w 23 16 ^^^ fld w 15 8 ^^^ fld w 7 0

/-- LEN of a header. -/
def hdrLen (w : Word) : Nat := fld w 7 0

/-- The filler word (R83). -/
abbrev filler : Word := 0x5A00_0000_0000_0000

/-- Whether a word passes the checks of R82. -/
def hdrOk (w : Word) : Bool :=
  fld w 63 56 == hdrChk w && !bitOf w.toNat 8 && (bitOf w.toNat 52 || fld w 51 32 == 0) && (hdrLen w != 0 || w == filler)

/-- Moves an address register value by `k` bytes within its segment. -/
def pcAdd (pc : Word) (k : Int) : Word := pcWord pc ((fld pc 60 0 : Int) + k)

/-- What a fetch gives: the word and its house address, or the state of a context that does not go on. -/
inductive Fetch where
  | got (s : State) (w : Word) (h : Nat)
  | stop (s : State)

/-- Fetches the word at a PC with right X (09 R214, R215, R227). The current context is the executing one. -/
def State.fetch (s : State) (pc : Word) : Fetch :=
  match s.resolve pc 0 8 8 rX .fetch with
  | .error f => .stop (s.raise f)
  | .ok h =>
    match s.reach (s.portOf s.myCore h) h rX with
    | (s, .error why) => .stop (s.parkTranslation h .fetch why)
    | (s, .ok p) =>
      if s.physOffline p then .stop (s.raise (s.flt 6 3 h))
      else if s.badWord h then .stop (s.raise (s.flt 0x0D 3 h))
      else .got s (word (s.get p 8)) h

/-- Block-header fault (23 R399): the header, the failing word and the PC of the walk or 0. -/
def State.headerFault (s : State) (failing walk : Word) : State :=
  s.raise { s.flt 7 0 failing.toNat walk.toNat with pc := failing }

/-! Block entry (04 R82, R84; 05 R119, R120; 24 R417). -/

/-- What RN does at entry: a lane claim above the fair share shrinks while a CLAIMV waits (05 R119), and a tile claim that overlaps a
waiting set is given up once it has been held for 4,096 cc (05 R120); the second part says that the entry waits for that. -/
def State.renegotiate (s : State) : State × Bool :=
  if isPorch s.myCore then (s, false)
  else
    let r := s.room s.myRoom
    let sh := share (s.claimants s.myRoom)
    let s :=
      if !r.vwait.isEmpty && decide (sh < s.me.lanes) then (s.setMe fun c => c.setClaim sh).regrant s.myRoom else s
    let held := s.me.tile
    if held ≠ 0 ∧ 4096 ≤ s.clock.cc - s.me.tileAt ∧ (r.twait.any fun w => w.2 &&& held != 0) = true then
      let cc := s.clock.cc
      let s := (s.setMe fun c => { c with status := .waiting .giveUp, parkedAt := cc }).noteWait s.cur .giveUp
      (s.post (.rnTileGiveUp s.cur), true)
    else (s, false)

/-- Enters the word at the PC as a header. A filler moves the PC on; a block is entered, and its first bundle, whose issue writes the block-entry
record (24 R417, R420), is the next to issue. -/
def State.enterHeader (s : State) : State :=
  let pc := s.me.pc
  match s.fetch pc with
  | .stop s => s
  | .got s w _ =>
    if !hdrOk w then s.headerFault pc 0
    else if hdrLen w = 0 then s.setMe fun c => { c with pc := pcAdd pc 8, place := .header }
    else
      let g := s.me.seg (fld pc 63 61)
      if segLimit g < fld pc 60 0 + 8 * hdrLen w + 8 then
        s.raise (s.flt 4 0 (pcAdd pc (8 * hdrLen w)).toNat (fld pc 63 61))
      else
        match if bitOf w.toNat 55 then s.renegotiate else (s, false) with
        | (s, true) => s
        | (s, false) =>
          s.setMe fun c => { c with pc := pcAdd pc 8, place := .block pc w, written := 0, entered := bitOf w.toNat 53 && bitOf c.tc.toNat 1 }

/-- RN_TILE_GIVE_UP (05 R120): with every tile command of the task complete, its tile claim is released and it enters its block. -/
def execRnTileGiveUp (ctx : Nat) (s : State) : Res :=
  let c := s.ctx ctx
  if c.status != .waiting .giveUp || !(s.tilesOf ctx c.gid).isEmpty then .next s
  else
    let s := s.setCtx ctx fun c => { c with status := .ready, tile := 0, tileAt := 0, td := [] }
    .next ((s.regrant (roomOf (coreOf ctx))).boundary ctx)

/-- Walks a code line for the block that holds a PC, from the word at `at'` (R85); `n` words are left to the line, and `last` is the last
word read. -/
def State.walkLine (s : State) (pc at' last : Word) : Nat → State
  | 0 => s.headerFault last pc
  | n + 1 =>
    if fld pc 60 0 / 2048 ≠ fld at' 60 0 / 2048 then s.headerFault last pc
    else
      match s.fetch at' with
      | .stop s => s
      | .got s w _ =>
        if !hdrOk w then s.headerFault at' pc
        else if at' = pc then s.setMe fun c => { c with status := .ready, place := .header }
        else if hdrLen w ≠ 0 ∧ fld at' 60 0 < fld pc 60 0 ∧ fld pc 60 0 < fld at' 60 0 + 8 * (hdrLen w + 1) then
          s.setMe fun c => { c with status := .ready, place := .block at' w }
        else s.walkLine pc (pcAdd at' (8 * (hdrLen w + 1))) at' n

/-- HEADER_WALK (R85). -/
def execHeaderWalk (ctx : Nat) (s : State) : Res :=
  let c := s.ctx ctx
  if c.status != .waiting .walk then .next s
  else
    let old := s.cur
    let line := pcWord c.pc (fld c.pc 60 0 / 2048 * 2048 : Nat)
    let s := State.walkLine { s with cur := ctx } c.pc line line 256
    .next (State.boundary { s with cur := old } ctx)

/-! The rotation (05 R108, R124). -/

/-- Contexts of a core that are in the rotation. -/
def State.inRotation (s : State) (core : Nat) : Nat :=
  ((List.range 16).filter fun i => (s.ctx (16 * core + i)).status == .ready).length

/-- Counts the ready histogram up to and with the present cycle (R124): the cycles in which the core was not looked at fall into bin 0. -/
def State.histogram (s : State) (core : Nat) : State :=
  let k := s.core core
  if s.clock.cc < k.counted then s
  else
    let s := s.bump core 4 (s.clock.cc - k.counted)
    let s := s.bump core (4 + s.inRotation core) 1
    let cc := s.clock.cc
    s.setCore core fun k => { k with counted := cc + 1 }

/-! Stops (24 R422, R423). -/

/-- Whether a stop entry matches a bundle: the context's GTID or launch, the header's house address and the bundle's number. -/
def StopEntry.hits (e : StopEntry) (gid : Word) (hdr k : Nat) : Bool :=
  fld e.ctl 63 63 == 1 &&
    (if fld e.ctl 62 62 = 1 then fld e.who 63 48 == fld gid 63 48 else e.who == gid) &&
    e.hdr.toNat == hdr && (fld e.ctl 7 0 == 255 || fld e.ctl 7 0 == k)

/-- HITS advanced, saturating. -/
def StopEntry.hit (e : StopEntry) : StopEntry := { e with ctl := setFld e.ctl 47 16 (min (fld e.ctl 47 16 + 1) 0xFFFF_FFFF) }

/-- The entry of its hall's table that stops the executing context's next bundle. -/
def State.stopFor (s : State) : Option (Nat × Nat × Nat) :=
  let c := s.me
  match c.place with
  | .block hdr _ =>
    let h := segBase (c.seg (fld hdr 63 61)) + fld hdr 60 0
    let k := (fld c.pc 60 0 - fld hdr 60 0) / 8 - 1
    if c.stopSkip then none
    else ((s.hall s.myHall).stops.find? fun e => e.2.hits c.gid h k).map fun e => (e.1, h, k)
  | _ => none

/-- The executing context is debug-halted where a stop of its hall's table names its next bundle, which has not issued (R423). -/
def State.stopped? (s : State) : Option State :=
  s.stopFor.map fun x =>
    let t := s.setHall s.myHall fun h => { h with stops := tset h.stops x.1 (tget ({} : StopEntry) h.stops x.1).hit }
    (t.traceTo (s.hallOf s.myCore) 0x09 (s.ctxSource s.cur) s.me.gid (x.2.1 + x.2.2 * 2 ^ 64 + x.1 * 2 ^ 72)).halt s.cur 4

/-- Bundles that follow the executing one in its block. -/
def Ctx.following (c : Ctx) : Nat :=
  match c.place with
  | .block hdr w => (fld hdr 60 0 + 8 * hdrLen w - fld c.pc 60 0) / 8
  | _ => 0

/-- Whether a bundle breaks a placement rule (R88, R91). -/
def misplaced (left : Nat) (i j : Instr) : Bool :=
  clash i j ||
    (match i with
     | .call _ => left != 0
     | .callr _ => left != 0
     | .cmpSkn _ k _ _ => decide (left < k.toNat)
     | .cmpSknImm _ k _ _ => decide (left < k.toNat)
     | _ => false)

/-- Looks at the executing context's next bundle: a stop, a fetch that fails, an illegal bundle, a pending register or a lost bank keep it
from issuing; otherwise it is latched, and the step executes it. -/
def State.issueBundle (s : State) : State :=
  let ctx := s.cur
  let pc := s.me.pc
  match s.stopped? with
  | some s => s
  | none =>
    match s.fetch pc with
    | .stop s => s
    | .got s w _ =>
      let s := s.setMe fun c => { c with bits := w }
      match decodeBundle w with
      | .error _ => s.illegal
      | .ok (i, j) =>
        if misplaced s.me.following i j then s.illegal
        else if hindered s.me.relaxed i j then s.hold .register
        else if s.losesBank ctx i j then
          let slot := slotOf ctx
          let cc := s.clock.cc
          let s := s.setMe fun c => { c with lastIssue := some cc }
          ((s.setCore (coreOf ctx) fun k => { k with forfeit := k.forfeit + 2 ^ slot }).bump (coreOf ctx) 23 1).noteWait ctx .forfeit
        else { s.takeBanks (coreOf ctx) (s.banksOf i ++ s.banksOf j) with latch := some ctx, issuing := true }

/-- The next action of a context in the rotation: the walk for its header, the entry of a header, or the issue of a bundle; a block just
entered issues its first bundle in the same cycle. -/
def State.issueCtx (s : State) (ctx : Nat) : State :=
  let s := { s with cur := ctx, view := none }
  match s.me.place with
  | .walk =>
    let cc := s.clock.cc
    ((s.setMe fun c => { c with status := .waiting .walk, parkedAt := cc }).noteWait ctx .walk).post (.headerWalk ctx)
  | .block _ _ => s.issueBundle
  | .header =>
    let s := s.enterHeader
    match s.me.status, s.me.place with
    | .ready, .block _ _ => s.issueBundle
    | _, _ => s

/-- The choice of a cycle (R108): the first eligible context issues, forfeits, or is held back. One that leaves the rotation before its bundle
issues, as at a header walk or a pending register, and one that passes a filler, costs the others nothing (R110, R122; 04 R84): the cycle
goes to the next that is eligible. -/
def State.issueFrom (s : State) (core : Nat) : Nat → State
  | 0 => s
  | n + 1 =>
    match s.chosen core with
    | none => s
    | some ctx =>
      let t := s.issueCtx ctx
      if t.latch.isSome || (t.ctx ctx).lastIssue == some t.clock.cc then t else t.issueFrom core n

/-- ISSUE_CYCLE (R108): one cycle of a core; each of its contexts meets at most the words of a code line (04 R83). -/
def execIssueCycle (core : Nat) (s : State) : Res :=
  if allCores ≤ core then .fault (.noSuchUnit core) else .next ((s.histogram core).issueFrom core 4112)

/-! Completion of a bundle. -/

/-- A bundle of a context is complete: its flags go to FLG, an enabled one raises the FP exception (07 R177, 23 R402), single-step halts
the context (02 R34), and what waited for the boundary takes hold. A task that the bundle has ended or halted takes no FP exception (DEDUCED, log 107). -/
def State.bundleDone (s : State) (ctx : Nat) : State :=
  let c := s.ctx ctx
  let on := c.raised &&& fld c.fpc 12 8
  let s := s.setCtx ctx fun c =>
    { c with raised := 0, stopSkip := false, fpc := setFld c.fpc 4 0 (fld c.fpc 4 0 ||| c.raised), st := if on = 0 then c.st else setFld c.st 2 2 1 }
  let c := s.ctx ctx
  if c.status != .ready then s
  else if on ≠ 0 then s.raiseAt ctx { kind := 0x14, pc := c.pc, info0 := word on, completed := true, stamp := word s.now }
  else
    (if bitOf c.st.toNat 3 && c.haltReq == 0 then s.setCtx ctx fun c => { c with haltReq := 4 } else s).boundary ctx

/-- What the issue of a bundle does to its core (R108, R115; 24 R421). -/
def State.countIssue (s : State) (ctx : Nat) : State :=
  let core := coreOf ctx
  let slot := slotOf ctx
  (s.setCore core fun k =>
    { k with ptr := (slot + 1) % 16, forfeit := if bitOf k.forfeit slot then k.forfeit - 2 ^ slot else k.forfeit,
             seen := tset k.seen slot 1 }).bump core 22 1

/-- The block-entry record of the block that a context has just entered, stamped as its first bundle issues (24 R417, R420): it sets out before what that bundle has sent in the
same cycle. -/
def State.traceEntry (s : State) (ctx : Nat) (start : Ctx) : State :=
  if start.entered then
    let at' := match start.place with
      | .block pc w => segBase (start.seg (fld pc 63 61)) + fld pc 60 0 + fld w 31 0 * 2 ^ 64
      | _ => 0
    let s := (s.traceTo (s.hallOf (coreOf ctx)) 0x01 (s.ctxSource ctx) start.gid at').bump (coreOf ctx) 28 1
    let n := s.net.sluice.length - 1
    { s with net := { s.net with sluice := s.net.sluice.drop n ++ s.net.sluice.take n } }
  else s

/-- How the execution of a syllable leaves its context, seen from the bundle's start. -/
inductive Stop where
  | none
  | waits
  | faults
  deriving DecidableEq, Repr

/-- Whether a syllable keeps its bundle from completing. -/
def State.stopOf (s : State) (ctx : Nat) (start : Ctx) : Stop :=
  let c := s.ctx ctx
  match c.status with
  | .ready => .none
  | .ended => .none
  | .waiting .reply => .none
  | .waiting .mfield => .none
  | .waiting _ => .waits
  | .faulted f => if f.completed then .none else .faults
  | .halted _ => if c.pc == start.pc && c.place == start.place then .faults else .none
  | .vacant => .waits

end Sys2Proof.Machine
end

