-- ==== Sys2Proof/Machine/Marks.lean ====
section
/-! DEFINITION. The mark instructions (17 R346 to R354) and the region table (R338 to R340). -/

namespace Sys2Proof.Machine

/-- A deposit (R347): checked at issue, then a relaxed access that travels in the sluice. -/
def depositOp (a b : BitVec 5) (k : Nat → RelOp) (s : State) : Res :=
  match s.resolve (s.rg a) 0 2 2 rK .mark with
  | .error f => .next (s.raise f)
  | .ok h =>
    let x := s.rg b
    if fld x 63 16 ≠ 0 then .next (s.operand 2 b)
    else .next (s.relax (k x.toNat) h false .remoteUpdate)

/-- MDEP (R347). -/
def execMdep (a b : BitVec 5) (s : State) : Res := depositOp a b .mdep s

/-- MDEPX (R347). -/
def execMdepx (a b : BitVec 5) (s : State) : Res := depositOp a b .mdepx s

/-- Addresses of the eight marks of a sense, or the fault of the first that fails (R349). -/
def State.senseAddrs (s : State) (a pattern : Word) : Nat → Except FaultRec (List Nat)
  | 0 => .ok []
  | j + 1 =>
    match s.senseAddrs a pattern j with
    | .error f => .error f
    | .ok hs =>
      match s.resolve a (2 * sextN 8 (bits pattern.toNat (8 * j + 7) (8 * j))) 2 2 rK .mark with
      | .error f => .error f
      | .ok h => .ok (hs ++ [h])

/-- Values of marks as of one instant (R344). -/
def State.sense (s : State) : List Nat → State × List Nat
  | [] => (s, [])
  | h :: t =>
    let (s, v) := s.markAt h
    let (s, r) := s.sense t
    (s, v :: r)

/-- The result of a sense: the maximum and the lowest index that holds it, or 0xFF (R349). -/
def senseWord (vs : List Nat) : Word :=
  let mx := vs.foldl max 0
  if mx = 0 then 0xFF else word (mx * 256 + vs.findIdx (· == mx))

/-- MSENSE (R349). -/
def execMsense (d a b : BitVec 5) (s : State) : Res :=
  match s.senseAddrs (s.rg a) (s.rg b) 8 with
  | .error f => .next (s.raise f)
  | .ok hs =>
    if !(hs.all fun h => (markOf h).1 == (markOf (hs.headD 0)).1) then .next (s.operand 2 b)
    else if hs.any s.conflicts then .next (s.hold .fence)
    else
      let r := (s.toward (hs.headD 0) 0 8).sense hs
      .next (r.1.reply d (senseWord r.2))

/-- A read of one mark (R350). -/
def markOp (d a : BitVec 5) (s : State) (go : Nat → State → State) : Res :=
  match s.resolve (s.rg a) 0 2 2 rK .mark with
  | .error f => .next (s.raise f)
  | .ok h =>
    if s.conflicts h then .next (s.hold .fence)
    else
      let r := (s.toward h 0 8).markAt h
      .next ((go h r.1).reply d (word r.2))

/-- MREAD (R350). -/
def execMread (d a : BitVec 5) (s : State) : Res := markOp d a s fun _ s => s

/-- MCLR (R350). -/
def execMclr (d a : BitVec 5) (s : State) : Res := markOp d a s fun h s => s.store h 2 0

/-- MWAIT (R351): parks until the first ebb instant after its issue. -/
def execMwait (d : BitVec 5) (s : State) : Res :=
  match s.src.given with
  | some v => .next (s.resume d v)
  | none => .next (s.hold (.ebb (s.ebbNumber + 1)))

/-- MWAIT.until (R351). -/
def execMwaitUntil (d a : BitVec 5) (s : State) : Res :=
  match s.src.given with
  | some v => .next (s.resume d v)
  | none =>
    let wanted := (s.rg a).toNat
    if wanted ≤ s.ebbNumber then .next (s.wr d (word s.ebbNumber)) else .next (s.hold (.ebb wanted))

/-- EBB (R352). -/
def execEbb (d : BitVec 5) (s : State) : Res := .next (s.wr d (word s.ebbNumber))

/-- EBB.period (R352). -/
def execEbbPeriod (d : BitVec 5) (s : State) : Res := .next (s.wr d (word s.clock.ebbE))

/-! Regions. -/

/-- First mark word of a descriptor (R338). -/
def regFirst (w : Word) : Nat := fld w 17 0

/-- Last mark word of a descriptor. -/
def regLast (w : Word) : Nat := fld w 17 0 + fld w 35 18

/-- Mark words of a descriptor that lie in a bank: those of FIRST to FIRST + CM1 that are equal to it modulo 16. -/
def regBank (w : Word) (bank : Nat) : Nat :=
  let upto := fun n => (n + 15 - bank) / 16
  upto (regLast w + 1) - upto (regFirst w)

/-- Words of valid regions with k < 256 in a bank (R339). -/
def sweepWords (t : Tab Word) (bank : Nat) : Nat :=
  t.foldl (fun acc e => if fld e.2 63 63 = 1 ∧ fld e.2 51 43 < 256 then acc + regBank e.2 bank else acc) 0

/-- Whether a descriptor for a region is accepted against the other descriptors of the hall (R339). -/
def regOk (t : Tab Word) (region : Nat) (w : Word) (e : Nat) : Bool :=
  if fld w 63 63 = 0 then w == 0
  else
    fld w 62 60 == 0 && fld w 42 36 == 0 && fld w 59 52 != 0 && decide (fld w 51 43 ≤ 256) &&
      decide (regLast w ≤ 262143) &&
      (t.all fun x => x.1 == region || fld x.2 63 63 == 0 || decide (regLast x.2 < regFirst w) || decide (regLast w < regFirst x.2)) &&
      (List.range 16).all fun b => decide (sweepWords (tput 0 t region w) b ≤ 2 ^ (e - 1))

/-- The region table once the waiting descriptors are installed (R353). -/
def Hall.nextRegions (h : Hall) : Tab Word := h.regionQ.foldl (fun t q => tput 0 t q.2.1 q.2.2) h.regions

/-- Operand of MFIELD: the hall and region it names, once the checks of R353 have passed. -/
def fieldOp (a : BitVec 5) (s : State) (go : Nat → Nat → State → State) : Res :=
  let x := s.rg a
  if s.src.lnum ≠ 0 then .next s.privilege
  else if fld x 7 5 ≠ 0 || fld x 63 14 ≠ 0 || fld x 13 8 = 0 then .next (s.operand 1 a)
  else if !s.hallUp (fld x 4 0) then .next (s.raise (s.flt 6 3 (markAddr (fld x 4 0) 0)))
  else .next (go (fld x 4 0) (fld x 13 8) s)

/-- MFIELD (R353): accepted, the descriptor waits for the hall's next ebb instant, which acknowledges it. -/
def execMfield (a b : BitVec 5) (s : State) : Res :=
  fieldOp a s fun hall region s =>
    if !regOk (s.hall hall).nextRegions region (s.rg b) s.clock.ebbE then s.operand 2 b
    else
      let c := s.cur
      let s := s.setHall hall fun h => { h with regionQ := h.regionQ ++ [(c, region, s.rg b)] }
      ((s.setMe fun c => { c with status := .waiting .mfield, parkedAt := s.clock.cc }).noteWait s.cur .mfield).send (s.lineAt s.myCore) (hallPort hall)
        { who := [(s.cur, 0)] }

/-- MFIELD.rd (R353). -/
def execMfieldRd (d a : BitVec 5) (s : State) : Res :=
  fieldOp a s fun hall region s => (s.toward (markAddr hall 0) 0 8).reply d (tget 0 (s.hall hall).regions region)

end Sys2Proof.Machine
end

