-- ==== Sys2Proof/Machine/Replies.lean ====
section
/-! DEFINITION. Replies, acknowledgements and wakes: the events that complete what bundles began (05 R111, R112; 09 R227 to R230; 10 R236;
13 R296, R303, R304; 14 R316 to R318; 17 R348), and migration packets (03 R78, R79). -/

namespace Sys2Proof.Machine

/-- Without the last entry that satisfies a test. -/
def dropLast' {α : Type} (f : α → Bool) (l : List α) : List α := (l.reverse.eraseP f).reverse

/-- The copy queues and the tile queue of a core's room go on with their next commands. -/
def State.goOn (core : Nat) (s : State) : State :=
  let room := roomOf core
  let s := s.postAll (((s.room room).copyQ.filter fun q => !q.2.isEmpty).map fun q => .copyChunk room q.1)
  if (s.room room).tileQ.isEmpty then s else s.post (.tileStep room)

/-- The command that a bundle has put into a queue of its room is taken back, which has not begun it (04 R89; log 52); the queues go on. -/
def State.takeBackCommand (s : State) (ctx : Nat) (start : Ctx) : State :=
  if isPorch (coreOf ctx) then s
  else State.goOn (coreOf ctx) <|
    let mine := fun (pc : Word) (gid : Word) (c : Nat) (syl : Lane) =>
      c == ctx && gid == start.gid && pc == start.pc && (syl == start.bits.truncate 32 || syl == (start.bits >>> 32).truncate 32)
    s.setRoom (roomOf (coreOf ctx)) fun r =>
      { r with tileQ := dropLast' (fun q => mine q.pc q.gid q.ctx q.syl && q.step == 0 && q.parked.isNone) r.tileQ,
               copyQ := r.copyQ.map fun e => (e.1, dropLast' (fun q => mine q.pc q.gid q.ctx q.syl && q.chunk == 0 && q.parked.isNone) e.2) }

/-- Without the reply that a context awaits, wherever it is on its way. -/
def State.dropReply (s : State) (ctx : Nat) : State :=
  let e : Instr := .replyArrival ctx
  let f := fun (p : Packet) => { p with cargo := p.cargo.filter (· != e) }
  { s with agenda := s.agenda.filter (· != e),
           net := { s.net with sluice := s.net.sluice.map fun x => { x with pkt := f x.pkt },
                               mesh := s.net.mesh.map fun x => (x.1, f x.2),
                               links := s.net.links.map fun l => (l.1, { l.2 with retry := l.2.retry.map fun x => (x.1, f x.2) }) } }

/-- Whether the bundle of a context is a Delta operation, which has been committed where its reply is awaited (19 R366). -/
def Ctx.inDelta (c : Ctx) : Bool :=
  match decodeBundle c.bits with
  | .ok (.dlook _ _ _ _, _) => true
  | .ok (.dput _ _ _ _, _) => true
  | .ok (.drel _ _ _, _) => true
  | .ok (.dstat _ _ _ _, _) => true
  | .ok (.dtouch _ _ _, _) => true
  | _ => false

/-- A descriptor of a context that waits at a hall is given up (23 R403). -/
def State.dropFields (s : State) (ctx : Nat) : State :=
  { s with halls := s.halls.map fun h => (h.1, if h.2.regionQ.any (·.1 == ctx) then { h.2 with regionQ := h.2.regionQ.filter (·.1 != ctx) } else h.2) }

/-- A fetch-and-add that a context does not await any more adds nothing where it arrives. -/
def State.blunt (s : State) (ctx id : Nat) : State :=
  let f := fun (p : Packet) => if p.op == 32 && p.who == [(ctx, id)] then { p with value := 0 } else p
  { s with net := { s.net with sluice := s.net.sluice.map fun x => { x with pkt := f x.pkt },
                               mesh := s.net.mesh.map fun x => (x.1, f x.2), arrived := s.net.arrived.map f,
                               links := s.net.links.map fun l => (l.1, { l.2 with retry := l.2.retry.map fun x => (x.1, f x.2) }) } }

/-- The bundle whose reply a context awaits takes no effect (04 R89; 11 R270; 23 R403): one that its request has not come back to has had none; a fetch-and-add or an MFIELD is
given up, with what the bundle has given to the engines and the stations, and the context is as the bundle found it, but for what came to it meanwhile (log 52). -/
def State.undo (s : State) (ctx : Nat) : State :=
  match tfind s.before ctx with
  | none => (s.dropReply ctx).setCtx ctx fun c => { c with status := .ready, flying := none, early := none }
  | some u =>
    let now := s.ctx ctx
    let s := match now.amo with
      | some a => s.blunt ctx a.id
      | none => s
    let s := ((s.takeBackCommand ctx u.ctx).dropReply ctx).dropFields ctx
    { s with ctxs := tset s.ctxs ctx
               { u.ctx with status := .ready, relaxed := now.relaxed.filter fun r => decide (r.id < u.ids), rlog := now.rlog, rovf := now.rovf,
                            frontQ := now.frontQ.filter fun r => decide (r.id < u.ids), haltReq := now.haltReq, lateFault := now.lateFault,
                            others := now.others, lastIssue := now.lastIssue, entered := now.entered, staleAsks := now.staleAsks,
                            heldT := now.heldT, heldC := now.heldC },
             before := tdel s.before ctx }

/-! Relaxed accesses. -/

/-- The outstanding relaxed access of a context with an id. -/
def Ctx.relaxedAt (c : Ctx) (id : Nat) : Option Relaxed := c.relaxed.find? (·.id == id)

/-- The event that performs an outstanding relaxed access. -/
def Relaxed.event (ctx : Nat) (r : Relaxed) : Instr :=
  match r.op with
  | .load _ _ _ => .relaxedLoadData ctx r.id
  | .vload _ _ => .relaxedLoadData ctx r.id
  | .store _ _ => .relaxedAcknowledgement ctx r.id
  | .vstore _ => .relaxedAcknowledgement ctx r.id
  | _ => .remoteUpdate ctx r.id

/-- Changes an outstanding relaxed access. -/
def Ctx.setRelaxed (c : Ctx) (id : Nat) (f : Relaxed → Relaxed) : Ctx :=
  { c with relaxed := c.relaxed.map fun r => if r.id = id then f r else r }

/-- Accesses of a core that stood behind one that is performed, or gone, are tried again (13 R296, R304); those held at a port are not. -/
def State.unblock (s : State) (core : Nat) : State :=
  let es := (List.range 16).flatMap fun i =>
    ((s.ctx (16 * core + i)).relaxed.filter fun q => !q.done && !q.held && !q.unsent).map fun q => q.event (16 * core + i)
  s.postAll (es.filter fun e => !s.agenda.contains e)

/-- A relaxed access is outstanding no more, and those that its core has held back for it set out, in the order of their issue (13 R296, R304). -/
def State.retireRelaxed (s : State) (ctx id : Nat) : State :=
  let s := s.setCtx ctx fun c => { c with relaxed := c.relaxed.filter (·.id != id) }
  let core := coreOf ctx
  let waits := (List.range 16).flatMap fun i => ((s.ctx (16 * core + i)).relaxed.filter (·.unsent)).map fun r => (16 * core + i, r)
  (waits.mergeSort fun a b => a.2.id ≤ b.2.id).foldl (fun s x =>
    if s.holdsBack x.1 x.2 then s
    else (s.setCtx x.1 fun c => c.setRelaxed x.2.id fun r => { r with unsent := false }).launchRelaxed x.1 x.2 (x.2.event x.1)) s

/-- A relaxed access is complete: it is outstanding no more, and what waits for it goes on. -/
def State.acknowledge (s : State) (ctx id : Nat) : State := ((s.retireRelaxed ctx id).unblock (coreOf ctx)).kick ctx

/-- The kind of access that a relaxed operation makes, for the attic (23 R399). -/
def RelOp.acc : RelOp → AccKind
  | .load _ _ _ => .load
  | .store _ _ => .store
  | .vload _ _ => .vector
  | .vstore _ => .vector
  | _ => .atomic

/-- Whether a context parks at once as an access of it is held at its port (09 R228; DEDUCED, logs 112, 113): it stands at a bundle boundary, or at a bundle that waits for what is
outstanding and that is tried again once it goes on. -/
def CStatus.yields : CStatus → Bool
  | .ready => true
  | .waiting .fence => true
  | .waiting .register => true
  | .waiting .migrate => true
  | _ => false

/-- A relaxed access is held at its port, and its context parks at once (09 R228). -/
def State.holdRelaxed (s : State) (ctx id h : Nat) (acc : AccKind) (why : XReason) : State :=
  let n := s.nextId
  let s := s.setCtx ctx fun c => c.setRelaxed id fun r => { r with held := true, badAt := some h, ask := n }
  let s := State.tell { s with nextId := n + 1 } (.translation (s.ctx ctx).gid ctx h acc why)
  if (s.ctx ctx).status.yields then s.parkHeld ctx else s

/-- Reason of a reduction-log entry for a fault that a station answers with (14 R317): 2 uncorrectable, 3 offline, 4 not performed. -/
def logReason (kind reason : Nat) : Nat := if kind = 0x0D then 2 else if reason = 3 then 3 else 4

/-- The event by which a station answers an access that it has performed, or failed to. -/
def Relaxed.answer (ctx : Nat) (r : Relaxed) : Instr :=
  if r.bad = 0 then .relaxedAcknowledgement ctx r.id else .reductionFaultReply ctx r.id r.bad

/-- Performs an outstanding relaxed access that has come to its memory, in the order of 13 R296 and R304. Where a packet has brought it, one brings the
station's answer; else `go` follows when it is done. One that loses a bank is tried again in the next cycle (05 R115). While the attic holds, no port performs
any (25 R440). -/
def State.relaxedStep (s : State) (ctx id : Nat) (go : State → State) : State :=
  let c := s.ctx ctx
  match c.relaxedAt id with
  | none => s
  | some r =>
    if r.done then s.acknowledge ctx id
    else if r.held || r.unsent || r.bad != 0 || s.attic.holding || s.travels ctx id || s.pendingId ctx id then s
    else if c.behind r || s.follows ctx r then s
    else if s.bankTaken (if r.op.logged then 0 else 1) r.addrs then s.defer (r.event ctx)
    else
      let h := r.target (coreOf ctx)
      match s.perform ctx r with
      | .done s =>
        let s := ((s.useBanks r.addrs).setCtx ctx fun c => c.setRelaxed id fun r => { r with done := true }).unblock (coreOf ctx)
        if (s.goesTo (coreOf ctx) h).isSome then s.answer ctx h r.op.packet.2.2 (r.event ctx) else go s
      | .held s h acc why => s.holdRelaxed ctx id h acc why
      | .bad s kind reason at' =>
        let s := s.setCtx ctx fun c => c.setRelaxed id fun r => { r with badAt := some at', bad := if r.op.logged then logReason kind reason else 0 }
        s.answer ctx h 0 (if r.op.logged then .reductionFaultReply ctx id (logReason kind reason) else .relaxedFaultReply ctx id kind reason)

/-- What a bundle whose reply has come gave to the engines, to the stations and to the fronts is begun (04 R89; log 52). -/
def State.commence (s : State) (ctx : Nat) : State :=
  let c := s.ctx ctx
  let s := if c.relaxed.any (!·.done) then s.unblock (coreOf ctx) else s
  let s := s.postAll (c.frontQ.map fun r => .remoteUpdate ctx r.id)
  if (s.copiesOf ctx c.gid).isEmpty && (s.tilesOf ctx c.gid).isEmpty then s else s.goOn (coreOf ctx)

/-- REPLY_ARRIVAL (05 R111): the bundle of a waiting context executes now, where its request has travelled (log 4), or is complete, but for a fetch-and-add that is on its way
(11 R259). While the attic holds, no port performs an access (25 R440): the bundle is not issued. -/
def execReplyArrival (ctx : Nat) (s : State) : Res :=
  match (s.ctx ctx).status with
  | .waiting .reply =>
    if (s.ctx ctx).amo.isSome then .next s
    else if (s.ctx ctx).flying.isSome then .next (if s.attic.holding then (s.undo ctx).boundary ctx else { s with latch := some ctx })
    else
      let s := { (s.setCtx ctx fun c => { c with status := .ready }) with before := tdel s.before ctx }
      .next ((s.commence ctx).bundleDone ctx)
  | _ => .next s

/-- RELAXED_LOAD_DATA (05 R112). -/
def execRelaxedLoadData (ctx id : Nat) (s : State) : Res := .next (s.relaxedStep ctx id fun s => s.acknowledge ctx id)

/-- RELAXED_ACKNOWLEDGEMENT (05 R112). -/
def execRelaxedAcknowledgement (ctx id : Nat) (s : State) : Res := .next (s.relaxedStep ctx id fun s => s.acknowledge ctx id)

/-! Requests that may combine (11 R259 to R261). -/

/-- Whether a constituent must wait for an earlier access, or for the attic. One that stands before it in its own request does not keep it: they are performed in that
order (13 R293, R296; R261). -/
def State.mustWait (s : State) (before : List (Nat × Nat)) (x : Nat × Nat) : Bool :=
  match (s.ctx x.1).relaxedAt x.2 with
  | none => false
  | some r =>
    let t := before.foldl (fun s y => s.setCtx y.1 fun c => c.setRelaxed y.2 fun r => { r with done := true }) s
    !r.done && (r.held || s.pendingId x.1 x.2 || (t.ctx x.1).behind r || t.follows x.1 r)

/-- Whether some constituent of a request must wait, looked at from the first to the last. -/
def State.mustWaitAny (s : State) (before : List (Nat × Nat)) : List (Nat × Nat) → Bool
  | [] => false
  | x :: t => s.mustWait before x || s.mustWaitAny (before ++ [x]) t

/-- Whether a constituent meets a translation fault. -/
def State.wouldHold (s : State) (x : Nat × Nat) : Bool :=
  match (s.ctx x.1).relaxedAt x.2 with
  | none => false
  | some r =>
    match s.perform x.1 r with
    | .held _ _ _ _ => true
    | _ => false

/-- Performs one constituent of a request: it is done, or has a fault reply. -/
def State.performOne (s : State) (x : Nat × Nat) : State :=
  match (s.ctx x.1).relaxedAt x.2 with
  | none => s
  | some r =>
    if r.done || r.bad != 0 then s
    else
      match s.perform x.1 r with
      | .done s => ((s.useBank r.h).setCtx x.1 fun c => c.setRelaxed x.2 fun r => { r with done := true }).unblock (coreOf x.1)
      | .held s _ _ _ => s
      | .bad s kind reason h => s.setCtx x.1 fun c => c.setRelaxed x.2 fun r => { r with badAt := some h, bad := logReason kind reason }

/-- The reply to a request of one constituent leaves a hall and port, or line of a switch, for its core. -/
def State.replyFrom (s : State) (ford : Option Nat) (place : Nat × Nat) (x : Nat × Nat) (op : Nat) (e : Instr) : State :=
  s.sendFrom ford place (s.lineAt (coreOf x.1)) { cls := 2, op := op, who := [x], bytes := if op = 32 then 8 else 0, cargo := [e] }

/-- The fetch-and-add that a constituent still awaits. -/
def State.addOf (s : State) (x : Nat × Nat) : Option AmoWait := (s.ctx x.1).amo.filter fun a => a.id == x.2

/-- One constituent of a performed request has its reply: a fetch-and-add the old value `v`, a RED or a deposit its answer. -/
def State.replyOne (s : State) (ford : Option Nat) (place : Nat × Nat) (op : Nat) (v : Word) (x : Nat × Nat) : State :=
  if op = 32 then
    match s.addOf x with
    | some a =>
      match a.bad with
      | some (kind, reason) => s.replyFrom ford place x op (.relaxedFaultReply x.1 x.2 kind reason)
      | none => (s.setCtx x.1 fun c => { (c.wr a.d v) with amo := none }).replyFrom ford place x op (.replyArrival x.1)
    | none => s
  else
    match (s.ctx x.1).relaxedAt x.2 with
    | some r => s.replyFrom ford place x op (r.answer x.1)
    | none => s

/-- The fault reply to a fetch-and-add that its station could not perform: its bundle takes no effect, and its context receives the fault. -/
def State.failAdd (s : State) (kind reason : Nat) (x : Nat × Nat) : State :=
  match s.addOf x with
  | none => s
  | some a =>
    let s := s.undo x.1
    s.raiseAt x.1 { kind := kind, reason := reason, pc := (s.ctx x.1).pc, addr := word a.h, stamp := word s.now }

/-- Every constituent of a request for a fetch-and-add has the fault with which its station answers (11 R261). -/
def State.spoilAdds (s : State) (p : Packet) (kind reason : Nat) : State :=
  p.who.foldl (fun s x =>
    s.setCtx x.1 fun c => { c with amo := c.amo.map fun a => if a.id = x.2 then { a with bad := some (kind, reason) } else a }) s

/-- Every constituent of a request for a fetch-and-add has been performed. -/
def State.landAdds (s : State) (p : Packet) : State :=
  p.who.foldl (fun s x => s.setCtx x.1 fun c => { c with amo := c.amo.map fun a => if a.id = x.2 then { a with done := true } else a }) s

/-- The reply to a performed request: to its one constituent, or to the switch that combined it last, which splits it (11 R260). -/
def State.replyTo (s : State) (p : Packet) (v : Word) : State :=
  let place := (p.dstHall, p.dstPort)
  match s.net.waits.find? fun w => w.packet == p.id with
  | some w =>
    s.send place (w.hall, w.lines.1)
      { cls := 2, op := p.op, who := p.who, bytes := if p.op = 32 then 8 else 0, cargo := [.combinedReplySplit w.hall p.id v] }
  | none => p.who.foldl (fun s x => s.replyOne (attachOf place.1 place.2) place p.op v x) s

/-- Fetch-and-adds that have arrived are performed as one (11 R261); while the attic holds, no port performs any (25 R440). -/
def State.performAdd (s : State) (p : Packet) : State :=
  let gone := fun (s : State) => { s with net := { s.net with arrived := s.net.arrived.filter fun q => q.id != p.id } }
  match p.who.findSome? s.addOf with
  | none => gone s
  | some a =>
    if s.attic.holding then s
    else if s.bankTaken 0 [a.h] then s.defer (.remoteUpdate (p.who.headD (0, 0)).1 (p.who.headD (0, 0)).2)
    else
    let s := gone s
    if s.physOffline a.place then (s.spoilAdds p 6 3).replyTo p 0
    else if s.badWord a.h then (s.spoilAdds p 0x0D 3).replyTo p 0
    else
      let old := s.get a.place p.width
      (((s.useBank a.h).put a.place p.width (amoNew 0 (8 * p.width) old p.value).1).landAdds p).replyTo p (word old)

/-- Whether a packet of the network carries an access. -/
def Packet.carries (p : Packet) (ctx id : Nat) : Bool := p.who.contains (ctx, id)

/-- Every constituent of a request for a RED or a deposit has met an uncorrectable error: none is performed (11 R261; 17 R348). -/
def State.spoilDeposits (s : State) (who : List (Nat × Nat)) : State :=
  who.foldl (fun s x => s.setCtx x.1 fun c => c.setRelaxed x.2 fun r => { r with bad := 2, badAt := some r.h }) s

/-- Whether a constituent's access has met an error on its way. -/
def State.spoiled (s : State) (x : Nat × Nat) : Bool := ((s.ctx x.1).relaxedAt x.2).any fun r => r.bad != 0

/-- A packet that has arrived is performed as one access (11 R261): none of its constituents while one must wait, or meets a translation fault. One that has met an
error is answered. -/
def State.performPacket (s : State) (p : Packet) : State :=
  let gone := fun (s : State) => { s with net := { s.net with arrived := s.net.arrived.filter fun q => q.id != p.id } }
  if p.op = 32 then s.performAdd p
  else if p.who.any s.spoiled then ((gone s).spoilDeposits p.who).replyTo p 0
  else if s.attic.holding || s.mustWaitAny [] p.who then s
  else
    match p.who.find? s.wouldHold with
    | some x => s.relaxedStep x.1 x.2 id
    | none =>
      if s.bankTaken 0 [p.h] then s.defer (.remoteUpdate (p.who.headD (0, 0)).1 (p.who.headD (0, 0)).2)
      else (p.who.foldl State.performOne (gone s)).replyTo p 0

/-- REMOTE_UPDATE (14 R316): a RED or a deposit, or a fetch-and-add, that has reached its station is performed there, and the station answers; so does a
non-returning front operation (21 R394). One that still travels in the network is not performed. -/
def execRemoteUpdate (ctx id : Nat) (s : State) : Res :=
  if (s.ctx ctx).frontQ.any (·.id == id) then .next (if s.pendingId ctx id then s else (s.landFronts ctx id).kick ctx)
  else
  match s.net.arrived.find? fun p => p.carries ctx id with
  | some p => .next (s.performPacket p)
  | none => .next (s.relaxedStep ctx id fun s => s.post (.relaxedAcknowledgement ctx id))

/-- The destination register of a faulting relaxed load holds a free value, of a vector load in every lane of the claim (10 R236; log 9). -/
def State.loseLoad (s : State) (ctx : Nat) (r : Relaxed) : State :=
  match r.op with
  | .load d _ _ =>
    let x := s.free
    x.2.wrCtx ctx d x.1
  | .vload v _ =>
    (List.range (s.ctx ctx).lanes).foldl (fun s i =>
      let x := s.free
      x.2.deliver ctx fun c => c.setLane v i (BitVec.ofNat 32 x.1.toNat)) s
  | _ => s

/-- RELAXED_FAULT_REPLY (10 R236), or that of a fetch-and-add which a packet has carried (11 R261). -/
def execRelaxedFaultReply (ctx id kind reason : Nat) (s : State) : Res :=
  match (s.ctx ctx).relaxedAt id with
  | none => .next (s.failAdd kind reason (ctx, id))
  | some r =>
    if r.op.logged then .next s
    else
      let f : FaultRec := { kind := kind, reason := reason, pc := r.pc, addr := word (r.badAt.getD r.h),
                            info0 := if kind = 0x0C then word r.op.acc.code else 0, late := true, stamp := word s.now }
      .next (((((s.loseLoad ctx r).retireRelaxed ctx id).stopWith ctx f).unblock (coreOf ctx)).kick ctx)

/-- A mark word with an uncorrectable error (17 R348): its four marks are 0, and a trace record says so. -/
def State.markWordLost (s : State) (h : Nat) : State :=
  match unitOf h with
  | .mark hall _ => (s.store (h / 8 * 8) 8 0).traceTo hall 0x06 (sourceOf hall 0 0 4) 0 (h / 8 * 8)
  | _ => s

/-- Marks that the returning mark operation of a context's bundle reads (17 R349, R350), which has not executed yet. -/
def State.marksRead (s : State) (ctx : Nat) : List Nat :=
  let s := { s with cur := ctx, view := none }
  let one := fun (a : BitVec 5) =>
    match s.resolve (s.rg a) 0 2 2 rK .mark with
    | .ok h => [h]
    | .error _ => []
  match decodeBundle (s.ctx ctx).bits with
  | .ok (.mread _ a, _) => one a
  | .ok (.mclr _ a, _) => one a
  | .ok (.msense _ a b, _) =>
    match s.senseAddrs (s.rg a) (s.rg b) 8 with
    | .ok hs => hs
    | .error _ => []
  | _ => []

/-- A mark word has an uncorrectable error that no deposit has met (17 R348). A returning mark operation of the context that reads it is not performed, and
its context receives the fault (23 R399); else a sweep has met it. -/
def State.markReadLost (s : State) (ctx h : Nat) : State :=
  match (s.ctx ctx).status, (s.ctx ctx).flying with
  | .waiting .reply, some _ =>
    if (s.marksRead ctx).any fun g => g / 8 == h / 8 then
      let s := (s.undo ctx).markWordLost h
      s.raiseAt ctx { kind := 0x0D, reason := 3, pc := (s.ctx ctx).pc, addr := word h, stamp := word s.now }
    else s.markWordLost h
  | _, _ => s.markWordLost h

/-- A RED or a deposit that is still to be performed meets an uncorrectable error, and with it all that have been combined in its packet (11 R261; 17 R348): the error
is handled once, and each has a fault reply. -/
def State.meetError (s : State) (ctx id : Nat) (r : Relaxed) : State :=
  let s := s.markWordLost r.h
  match (s.net.packets ++ s.net.arrived).find? fun p => p.cls == 1 && p.carries ctx id with
  | none => (s.logFault ctx r 2).acknowledge ctx id
  | some p =>
    let s := s.spoilDeposits p.who
    if s.net.arrived.any (·.id == p.id) then s.performPacket p else s

/-- REDUCTION_FAULT_REPLY (14 R317, 17 R348): an entry in the context's log. An uncorrectable error in a mark word reaches a deposit, or the returning mark
operation whose reply its context awaits, or a sweep, where `id` is the word's address (log 86). -/
def execReductionFaultReply (ctx id reason : Nat) (s : State) : Res :=
  match (s.ctx ctx).relaxedAt id with
  | none => .next (if reason = 2 then s.markReadLost ctx id else s)
  | some r =>
    if !r.op.logged then .next s
    else if reason = 2 ∧ r.bad = 0 then .next (if r.done then s else s.meetError ctx id r)
    else .next ((s.logFault ctx r reason).acknowledge ctx id)

/-- STATION_WAKE (14 R323; 17 R351): the bundle that parked completes with the value its station, or its ebb, gave. One that waits to be performed, as where it lost
a bank (05 R115), is tried again. -/
def execStationWake (ctx : Nat) (value : Word) (s : State) : Res :=
  let c := s.ctx ctx
  match c.status with
  | .waiting (.parked _) => if c.given = some value then .next { s with latch := some ctx } else .next s
  | .waiting (.ebb _) => if c.given = some value then .next { s with latch := some ctx } else .next s
  | .waiting .fence => .next { s with latch := some ctx }
  | _ => .next s

/-! Translation and the attic's wakes. -/

/-- PAGE_WALK (09 R224, R225): a port looks an address up, and a miss fills its TLB. -/
def execPageWalk (port addr : Nat) (s : State) : Res :=
  if 609 ≤ port then .fault (.noSuchUnit port) else .next (if s.attic.holding then s else (s.lookup port addr).1)

/-- Number by which a wake names the dispatcher of a launch (log 26). -/
abbrev wakeLaunch : Nat := 100000

/-- Number from which a wake names the image of a lent task, by its house address (log 26). -/
abbrev wakeImage : Nat := 2 ^ 60

/-- A wake that names a GTID (09 R227). -/
abbrev wakeTask : Nat := 2 ^ 64

/-- Number by which a wake names the host port (log 26). -/
abbrev wakeHost : Nat := 300000

/-- Number from which a wake names the intake of a launch word, counted 256 x hall + word (log 26). -/
abbrev wakeIntake : Nat := 200000

/-- Held writes of a launch's dispatcher are performed in order (02 R37). -/
def State.drainWrites (s : State) (n : Nat) : List (Nat × Nat × Nat) → State
  | [] => s
  | (addr, size, v) :: t => (s.launchWrite n addr size v).drainWrites n t

/-- Records without an image that wait are written (10 R252, 23 R398). -/
def State.drainLate (s : State) (n hall : Nat) : List (FaultRec × Word × Nat) → State
  | [] => s
  | (f, gid, source) :: t => (s.lateRecord n hall f gid source).drainLate n hall t

/-- A launch's dispatcher goes on after the attic's wake: held writes, late records, its lookup, its tasks. -/
def State.wakeDispatcher (s : State) (n : Nat) : State :=
  match s.launch? n with
  | none => s
  | some l =>
    let hall := s.launchHall l
    let s := s.setLaunch n fun l => { l with heldW := [], lateQ := [], overQ := [], pinHeld := false }
    let s := (s.drainWrites n l.heldW).drainLate n hall l.lateQ
    let s := l.overQ.foldl (fun s x => s.overflow x.1 x.2) s
    let s := if l.dr && !l.looked then s.post (.leaderDeltaLookup n) else l.wings.foldl (fun s w => s.askChunk n w) s
    (s.post (.launchCompletion n)).postAll ((List.range 32).filterMap fun h => if (s.hall h).waiting.isEmpty then none else some (.slotEvent h))

/-- The attic's answer concerns the first fault-area entry at which a launch's dispatcher waits: it cannot be used (23 R398). -/
def State.spoilEntry (s : State) (n : Nat) (h : Nat) : State :=
  s.setLaunch n fun l =>
    if l.farea ≤ h ∧ h < l.farea + 576 * l.fcap then { l with badEntries := (h - l.farea) / 576 :: l.badEntries } else l

/-- What waits at an image, a hand-over or a re-establishment is tried again. -/
def State.retryCtx (s : State) (ctx : Nat) : State :=
  let s := s.setCtx ctx fun c => { c with asked := none }
  match (s.ctx ctx).status with
  | .faulted _ => s.post (.faultHandover ctx)
  | .halted _ => s.post (.imageWrite ctx)
  | .waiting .reestablish => s.post (.claimReestablish ctx)
  | _ => s

/-- What a message to the attic was sent for: the context's own access, hand-over or image, the access at which it was parked as a debugger halted
it, or one that a debugger has abandoned (24 R425), a relaxed access held at its port, the head of a copy queue, or a tile command, in its queue or
saved with its task (12 R290). -/
inductive Asker where
  | own
  | parked
  | stale (n : Nat)
  | relaxed (r : Relaxed)
  | copy (room queue : Nat) (c : CopyCmd)
  | tile (room : Nat) (c : TileCmd)
  | saved (c : TileCmd)
  deriving DecidableEq, Repr

/-- The unanswered messages of a context's task, by their numbers. -/
def State.asks (s : State) (ctx : Nat) : List (Nat × Asker) :=
  let c := s.ctx ctx
  let own := (match c.status with | .waiting (.translation _ _ _) => c.heldWake.isNone | _ => c.asked.isSome)
  (if own then [(c.ask, .own)] else []) ++ (if c.parkedPc.isSome && c.heldWake.isNone then [(c.parkedAsk, .parked)] else []) ++
    (c.staleAsks.map fun n => (n, .stale n)) ++
    ((c.relaxed.filter (·.held)).map fun r => (r.ask, .relaxed r)) ++
    ((c.heldT.filter (·.parked.isSome)).map fun t => (t.ask, .saved t)) ++
    (s.rooms.flatMap fun e => e.2.copyQ.filterMap fun n =>
      match n.2 with
      | q :: _ => if q.ctx == ctx && q.gid == c.gid && q.parked.isSome then some (q.ask, .copy e.1 n.1 q) else none
      | [] => none) ++
    s.rooms.flatMap fun e => (e.2.tileQ.filter fun t => t.ctx == ctx && t.gid == c.gid && t.parked.isSome).map fun t => (t.ask, .tile e.1 t)

/-- The first that asked. -/
def oldestAsk (as : List (Nat × Asker)) : Option Asker :=
  (as.foldl (fun (b : Option (Nat × Asker)) x =>
    match b with
    | some y => if x.1 < y.1 then some x else b
    | none => some x) none).map (·.2)

/-- The message that a wake answers: wakes answer the messages of a task in the order in which they were sent (09 R227; log 33). -/
def State.asker (s : State) (ctx : Nat) : Option Asker :=
  oldestAsk (s.asks ctx)

/-- A copy queue goes on, or its command, or one destination, fails (10 R249, R251). -/
def State.wakeCopy (s : State) (room q : Nat) (c : CopyCmd) (refused : Bool) : State :=
  let c := match c.asking with
    | some i => { c with parked := none, asking := none, refused := if refused then i :: c.refused else c.refused }
    | none => { c with parked := none, bad := refused }
  (s.setHead room q c).post (.copyChunk room q)

/-- A tile command goes on, or fails (12 R279). -/
def State.wakeTile (s : State) (room : Nat) (c : TileCmd) (refused : Bool) : State :=
  if refused then s.tileFail room c 1
  else (s.setRoom room fun r => { r with tileQ := replaceTile c { c with parked := none } r.tileQ }).tileOn room

/-- A request whose page the attic has refused (11 R261): each of its constituents has that fault, and its reply is split as any other. -/
def State.refusePacket (s : State) (p : Packet) : State :=
  let s := p.who.foldl (fun s x => s.setCtx x.1 fun c => c.setRelaxed x.2 fun r => { r with bad := 1 }) s
  State.replyTo { s with net := { s.net with arrived := s.net.arrived.filter fun q => q.id != p.id } } p 0

/-- The failure of a tile command that is saved with its task (12 R279, R290). -/
def TileCmd.failure (c : TileCmd) : Failure := { gid := c.gid, lrec := c.lrec, queue := 8, pc := c.pc, reason := 1, failed := word c.syl.toNat }

/-- A tile command that is saved with its task may go on once it is back in its queue, or has failed with those that follow it (12 R279, R290). -/
def State.wakeSaved (s : State) (ctx : Nat) (c : TileCmd) (refused : Bool) : State :=
  let image := (s.ctx ctx).image
  -- an image that has been written of the task keeps the commands too, and its slot takes them from there (24 R424; 23 R410)
  let keep := fun (s : State) (f : ImgRec → ImgRec) => { s with images := s.images.map fun e => if e.1 = image then (e.1, f e.2) else e }
  if refused then
    let room := roomOf (coreOf ctx)
    let now := (s.ctx ctx).want = 0 && image == 0
    let s := s.setCtx ctx fun x => { x with heldT := [], lostT := if now then x.lostT else x.lostT ++ [c] }
    let s := if now then s.tileLoss room c else keep s fun r => { r with tiles := [], lost := r.lost ++ [c] }
    (s.recordFailure room c.failure).kick ctx
  else
    keep (s.setCtx ctx fun x => { x with heldT := replaceTile c { c with parked := none } x.heldT })
      fun r => { r with tiles := replaceTile c { c with parked := none } r.tiles }

/-- The same of the task of an image, whose saved commands wait for the attic (log 26). -/
def State.wakeStored (s : State) (a : Nat) (r : ImgRec) (refused : Bool) : State :=
  match r.tiles.find? (·.parked.isSome) with
  | none => s
  | some c =>
    if refused then State.recordFailure { s with images := tset s.images a { r with tiles := [], lost := r.lost ++ [c] } } r.room c.failure
    else { s with images := tset s.images a { r with tiles := replaceTile c { c with parked := none } r.tiles } }

/-- A held relaxed access is performed, or reported as refused (09 R228), with those that have been combined with it (11 R261). -/
def State.wakeHeld (s : State) (ctx : Nat) (r : Relaxed) (code : Option Nat) : State :=
  let s := s.setCtx ctx fun c => c.setRelaxed r.id fun r => { r with held := false }
  match code, s.net.arrived.find? fun p => p.carries ctx r.id with
  | none, _ => s.post (r.event ctx)
  | some _, some p => s.refusePacket p
  | some k, none => s.post (if r.op.logged then .reductionFaultReply ctx r.id 1 else .relaxedFaultReply ctx r.id 0x0C (k % 256))

/-- The wake for what is not the context's own access: the access or command that asked goes on or fails. -/
def State.wakeFor (s : State) (ctx : Nat) (code : Option Nat) : Asker → State
  | .own => s
  | .parked => s.setCtx ctx fun c => { c with heldWake := some (code.getD 0) }
  | .stale n => s.setCtx ctx fun c => { c with staleAsks := c.staleAsks.erase n }
  | .relaxed r => s.wakeHeld ctx r code
  | .copy room q c => s.wakeCopy room q c code.isSome
  | .tile room c => s.wakeTile room c code.isSome
  | .saved c => s.wakeSaved ctx c code.isSome

/-- A context that waits for its own access goes on at once, or stays parked while another access of its own is held (09 R227, R228). -/
def State.reissue (s : State) (ctx : Nat) : State :=
  s.setCtx ctx fun c => { c with status := if c.relaxed.any (·.held) then .waiting .held else .ready }

/-- The context, or the image, to which a wake goes that names a GTID by `wakeTask` more than it (09 R227); any other number as it is. -/
def State.wakeName (s : State) (n : Nat) : Nat :=
  if n < wakeTask then n
  else
    match s.ctxs.find? fun e => e.2.status != .vacant && e.2.gid.toNat == n - wakeTask with
    | some e => e.1
    | none =>
      match s.images.find? fun e => e.2.gid.toNat == n - wakeTask && (e.2.lent || e.2.tiles.any (·.parked.isSome)) with
      | some e => wakeImage + e.1
      | none => n

/-- The oldest message of the engine commands that an ended task has left and that wait for the attic (06 R144). -/
def State.leftAsker (s : State) (gid : Nat) : Option Asker :=
  oldestAsk ((s.rooms.flatMap fun e => e.2.copyQ.filterMap fun q =>
      match q.2 with
      | c :: _ => if c.gid.toNat == gid && c.parked.isSome then some (c.ask, .copy e.1 q.1 c) else none
      | [] => none) ++
    s.rooms.flatMap fun e => (e.2.tileQ.filter fun c => c.gid.toNat == gid && c.parked.isSome).map fun c => (c.ask, .tile e.1 c))

/-- WAKE_REISSUE (09 R227): the attic has answered that an access may be made again; while it holds, it answers nothing (25 R440). -/
def execWakeReissue (ctx : Nat) (s : State) : Res :=
  let ctx := s.wakeName ctx
  if s.attic.holding then .next s
  else if wakeTask ≤ ctx then
    match s.leftAsker (ctx - wakeTask) with
    | some a => .next (s.wakeFor 0 none a)
    | none => .next s
  else if wakeImage ≤ ctx then
    let a := ctx - wakeImage
    match tfind s.images a with
    | some r =>
      if r.lent then .next (State.requeue { s with images := tset s.images a { r with lent := false } } r.hall a)
      else .next (s.wakeStored a r false)
    | none => .next s
  else if wakeHost ≤ ctx then .next s.retryHost
  else if wakeIntake ≤ ctx then .next (s.post (.intakeReadRetry ((ctx - wakeIntake) / 256) ((ctx - wakeIntake) % 256)))
  else if wakeLaunch ≤ ctx then .next (s.wakeDispatcher (ctx - wakeLaunch))
  else
    let c := s.ctx ctx
    match s.asker ctx with
    | none => .next s
    | some .own =>
      if c.asked.isSome then .next (s.retryCtx ctx)
      else
        match c.status with
        | .waiting (.translation _ _ _) =>
          if c.lent then .next (s.setCtx ctx fun c => { c with heldWake := some 0 }) else .next (s.reissue ctx)
        | _ => .next s
    | some a => .next (s.wakeFor ctx none a)

/-- WAKE_REFUSE (09 R227) with the attic's code, 1 to 255. The image of a task that is handed over after it was parked holds the reason of a fault and
PARKA 0 (log 94). -/
def execWakeRefuse (ctx code : Nat) (s : State) : Res :=
  let ctx := s.wakeName ctx
  if s.attic.holding then .next s
  else if wakeTask ≤ ctx then
    match s.leftAsker (ctx - wakeTask) with
    | some a => .next (s.wakeFor 0 (some code) a)
    | none => .next s
  else if wakeImage ≤ ctx then
    let a := ctx - wakeImage
    match tfind s.images a with
    | some r =>
      match r.parked with
      | some (.translation h acc _) =>
        if r.lent then .next (State.requeue { s with images := tset s.images a { r with lent := false, refused := some (code, h, acc) } } r.hall a)
        else .next (s.wakeStored a r true)
      | _ => .next (s.wakeStored a r true)
    | none => .next s
  else if wakeHost ≤ ctx then
    if s.attic.hostQ.isEmpty then .next s
    else .next ((s.setAttic fun a => { a with hostQ := a.hostQ.tail }).complete' completerAbort).retryHost
  else if wakeIntake ≤ ctx then .next (s.refuseIntake ((ctx - wakeIntake) / 256) ((ctx - wakeIntake) % 256))
  else if wakeLaunch ≤ ctx then
    let n := ctx - wakeLaunch
    match s.launch? n with
    | none => .next s
    | some l =>
      let s :=
        if !l.heldW.isEmpty then s.setLaunch n fun l => { l with heldW := l.heldW.tail }
        else if !l.lateQ.isEmpty then
          match s.freeEntry (s.launchHall l) l 0 l.fcap with
          | .wait s h _ => s.spoilEntry n h
          | .ok s _ => s
          | .bad s => s
        else if !l.overQ.isEmpty then
          match s.freeEntry ((l.overQ.map (·.1)).headD 0) l 0 l.fcap with
          | .wait s h _ => s.spoilEntry n h
          | .ok s _ => s
          | .bad s => s
        else if l.pinHeld then s.setLaunch n fun l => { l with found := none }
        else if l.dr && !l.looked then
          s.setLaunch n fun l => { l with looked := true, lookFault := some (s.refusal 0 (l.lookHeld.getD l.dtree) code .delta) }
        else s
      .next (s.wakeDispatcher n)
  else
    let c := s.ctx ctx
    match s.asker ctx with
    | none => .next s
    | some .own =>
      match c.asked with
      | some h => .next ((s.spoilEntry c.lnum h).retryCtx ctx)
      | none =>
        match c.status with
        | .waiting (.translation h acc _) =>
          if c.lent then .next (s.setCtx ctx fun c => { c with heldWake := some code })
          else
            let s := if c.claiming then s.regrant (roomOf (coreOf ctx)) else s
            .next (s.raiseAt ctx (s.refusal c.pc h code acc))
        | _ => .next s
    | some a => .next (s.wakeFor ctx (some code) a)

/-- LEND_EVENT (09 R229). -/
def execLendEvent (ctx : Nat) (s : State) : Res := .next (s.lend ctx)

/-! Migration (03 R77 to R79). -/

/-- A migration packet at its owner (R78, R79): placed, held in the inbox, or kept by its sender to be sent again. -/
def State.arrive (s : State) (id : Nat) : State :=
  match tfind s.flights id with
  | none => s
  | some f =>
    let core := f.target
    let box := (s.core core).inbox
    let covered := s.preempts.any fun p => covers p (s.hallOf core) f.task.gid f.task.queue
    let f := if covered then { f with task := { f.task with haltReq := 2 } } else f
    let s := if covered then { s with flights := tset s.flights id f } else s
    match if box.isEmpty || (isPorch core && box.head? == some id) then s.landingSlot core f.task.queue else none with
    | some slot =>
      let s := (s.setCore core fun k => { k with inbox := k.inbox.filter (· != id) }).land id f (16 * core + slot)
      match (s.core core).inbox with
      | n :: _ => if isPorch core then s.post (.migrationArrival n) else s
      | [] => s
    | none =>
      if box.contains id then s
      else if box.length < 8 then s.setCore core fun k => { k with inbox := k.inbox ++ [id] }
      else { s with flights := tset s.flights id { f with resendAt := some (s.clock.cc + 256) } }

/-- MIGRATION_ARRIVAL (R78). -/
def execMigrationArrival (flight : Nat) (s : State) : Res := .next (s.arrive flight)

/-- MIGRATION_RESEND (R78): a packet that was refused is sent again. -/
def execMigrationResend (flight : Nat) (s : State) : Res :=
  match tfind s.flights flight with
  | some f =>
    if f.resendAt.isSome then
      .next (State.migrationPacket { s with flights := tset s.flights flight { f with resendAt := none } } (coreOf f.origin) flight f.target f.bytes)
    else .next s
  | none => .next s

/-- DELTA_WITHDRAWAL (19 R366): an operation that has not committed, because a translation fault parks it, is abandoned, and its bundle is
to be issued again; a committed one stands, and its reply completes it. -/
def execDeltaWithdrawal (ctx : Nat) (s : State) : Res :=
  match (s.ctx ctx).status with
  | .waiting (.translation _ .delta _) => .next ((s.setCtx ctx fun c => { c with status := .ready }).boundary ctx)
  | .waiting .reply =>
    let c := s.ctx ctx
    if c.inDelta && c.flying.isSome && (c.haltReq != 0 || c.lateFault.isSome) then .next ((s.undo ctx).boundary ctx) else .next s
  | _ => .next s

end Sys2Proof.Machine
end

