-- ==== Sys2Proof/Machine/Network.lean ====
section
/-! DEFINITION. The network (11 R257 to R270): the sluice and its combining switches, the mesh with its express channels, fords and Eslia links, the scope
tables, and what a failed part loses. -/

namespace Sys2Proof.Machine

/-! Scopes. -/

/-- Distances to a hall over whole links after `n` rounds; 99 where there is no path. -/
def State.hopsTo (s : State) (dst : Nat) : Nat → List Nat
  | 0 => (List.range 32).map fun h => if h = dst then 0 else 99
  | n + 1 =>
    let d := s.hopsTo dst n
    (List.range 32).map fun h =>
      (neighbours h).foldl (fun m b => if s.passable h b then min m (d.getD b 99 + 1) else m) (d.getD h 99)

/-- Mesh hops between two halls over whole links (R269, R270). -/
def State.hops (s : State) (a b : Nat) : Nat := (s.hopsTo b 32).getD a 99

/-- A 4-bit distance entry; an agent that no path reaches lies outside every scope within the house (R270). -/
def entryOf (n : Nat) : Nat := min n 15

/-- The level of a peer that is absent or isolated: beyond every scope (25 R436). -/
abbrev outside : Nat := 16

/-- The scope table of a hall (R269, R270; log 16). -/
def State.scopeTable (s : State) (hall : Nat) : Tab Nat :=
  let hs := (List.range 32).map fun g => (g, entryOf (2 + s.hops hall g))
  let cs := (List.range 8).map fun u => (32 + u, entryOf (2 + s.hops hall (4 * u + 1)))
  let gates := ([(0, 52), (1, 53), (4, 54), (5, 55)].filter fun x => (s.link x.2).up).map fun x => s.hops hall x.1
  let ps := (List.range 32).map fun p => (41 + p, (tfind s.peers p).getD outside)
  hs ++ cs ++ [(40, entryOf (3 + gates.foldl min 99))] ++ ps

/-- Writes every hall's scope table. -/
def State.writeScopes (s : State) : State :=
  (List.range 32).foldl (fun s h => s.setHall h fun x => { x with scope := s.scopeTable h }) s

/-- SCOPE_TABLE_WRITE (R270). -/
def execScopeTableWrite (s : State) : Res := command s (.next s.writeScopes)

/-! The sluice. -/

/-- Whether an entry stands before another in its switch's queues: it came earlier, or in the same cycle on the line that the shuffle has made even, which is that of
the lower half of the lines (R258). -/
def SwEntry.before (a b : SwEntry) : Bool := decide (a.came < b.came) || (a.came == b.came && decide (a.line / 128 < b.line / 128))

/-- The first of some entries. -/
def firstOf : List SwEntry → Option SwEntry
  | [] => none
  | a :: t =>
    match firstOf t with
    | none => some a
    | some b => if b.before a then some b else some a

/-- Output of a switch that an entry needs (R258). -/
def SwEntry.output (e : SwEntry) : Nat := e.exit / 2 ^ (7 - e.stage) % 2

/-- Whether a packet is the reply of a context that a pre-emption is stopping, which is served ahead of others of its class (23 R407). -/
def State.urgent (s : State) (p : Packet) : Bool := p.cls == 2 && p.who.any fun x => s.incomplete x.1

/-- The entry that an output of a switch serves: its classes take turns, and within a class the first comes first (R258), but for urgent replies (23 R407). -/
def State.served (s : State) (k : Nat) (es : List SwEntry) : Option SwEntry :=
  let r := tget 0 s.net.robin k
  (List.range 4).findSome? fun i =>
    let mine := es.filter fun e => e.pkt.cls == (r + i) % 4
    (firstOf (mine.filter fun e => s.urgent e.pkt)).or (firstOf mine)

/-- Whether a pair of requests combines (R259). -/
def combines (a b : Packet) : Bool :=
  a.cls == b.cls && a.h == b.h && a.width == b.width && a.op == b.op && a.dstHall == b.dstHall && a.dstPort == b.dstPort &&
    (decide (a.op ≤ 8 ∧ a.op ≠ 1) || a.op == 16 || a.op == 17 || a.op == 32)

/-- Operand of a combined request (R259): integer sums and fetch-and-adds, min, max and logic of a RED, deposits. -/
def combineValue (op width a b : Nat) : Nat :=
  if op = 16 then min (a + b) 65535
  else if op = 17 then max a b
  else if op = 32 then (a + b) % 2 ^ (8 * width)
  else (amoNew op (8 * width) a b).1

/-- Wait entries that a switch holds (R260). -/
def Net.waitsAt (n : Net) (hall stage switch : Nat) : Nat :=
  (n.waits.filter fun w => w.hall == hall && w.stage == stage && w.switch == switch).length

/-- Whether a packet of the same class from a core whose request `f` carries is queued before `f`, so that `f` cannot come before it (R258, R305). -/
def SwEntry.barred (e f : SwEntry) (es : List SwEntry) : Bool :=
  (es.takeWhile fun g => g.pkt.id != f.pkt.id).any fun g => g.pkt.id != e.pkt.id && g.pkt.cls == f.pkt.cls &&
    g.pkt.who.any fun x => f.pkt.who.any fun y => coreOf x.1 == coreOf y.1

/-- Combines the packet that an output serves with the first that matches it, while a wait entry is free (R259, R260). -/
def State.combineOne (s : State) (e : SwEntry) (es : List SwEntry) : State × SwEntry :=
  let switch := switchOf e.line
  match firstOf (es.filter fun f => f.pkt.id != e.pkt.id && combines e.pkt f.pkt && !e.barred f es) with
  | none => (s, e)
  | some f =>
    if 16 ≤ s.net.waitsAt e.hall e.stage switch then (s, e)
    else
      let w : WaitEntry := { hall := e.hall, stage := e.stage, switch := switch, packet := e.pkt.id, op := e.pkt.op, width := e.pkt.width,
                             a := e.pkt.value, lines := (e.line, f.line), first := e.pkt.who, second := f.pkt.who }
      let p := { e.pkt with value := combineValue e.pkt.op e.pkt.width e.pkt.value f.pkt.value, who := e.pkt.who ++ f.pkt.who }
      ({ s with net := { s.net with sluice := s.net.sluice.filter fun x => x.pkt.id != f.pkt.id, waits := w :: s.net.waits } },
       { e with pkt := p })

/-- Combines the packet that an output serves with each that matches it and is queued there, in their order, while wait entries are free (R259, R260). -/
def State.combine (s : State) (e : SwEntry) (es : List SwEntry) : Nat → State × SwEntry
  | 0 => (s, e)
  | n + 1 =>
    let (t, f) := s.combineOne e es
    if f = e then (t, f) else t.combine f (es.filter fun x => t.net.sluice.any fun y => y.pkt.id == x.pkt.id) n

/-- A packet has come to where it goes: on from the memory port that has translated it (09 R223), to its station to be performed, or as a plain request
whose reply sets out. -/
def State.deliverPacket (s : State) (p : Packet) : State :=
  match p.on with
  | some (g, t) => s.enterSluice p.dstHall p.dstPort { p with dstHall := g, dstPort := t, on := none }
  | none =>
    match p.back with
    | some n =>
      -- a reply to a porch core goes to the hall that is its reference hall now (R441)
      let home := match p.who with
        | [(c, _)] => if isPorch (coreOf c) then s.lineAt (coreOf c) else (p.srcHall, p.srcPort)
        | _ => (p.srcHall, p.srcPort)
      s.send (p.dstHall, p.dstPort) home { p with cls := 2, bytes := n, back := none }
    | none =>
      if p.cls ≠ 2 ∧ p.op ≠ 64 then
        match p.who with
        | w :: _ => State.post { s with net := { s.net with arrived := s.net.arrived ++ [p] } } (.remoteUpdate w.1 w.2)
        | [] => s
      else s.postAll p.cargo

/-- Whether a packet is the reply to a combined request on its way to the switch that splits it, by a line of that switch (R260). -/
def Packet.splits (p : Packet) : Bool :=
  p.cargo.any fun e => match e with
    | .combinedReplySplit _ _ _ => true
    | _ => false

/-- A packet leaves the sluice: at its destination, or at the router of its hall. -/
def State.leaveSluice (s : State) (hall : Nat) (e : SwEntry) : State :=
  let p := e.pkt
  if hall = p.dstHall then
    match if p.splits then none else attachOf hall p.dstPort with
    | some n => s.offer n hall p
    | none => s.deliverPacket p
  else State.post { s with net := { s.net with mesh := s.net.mesh ++ [(hall, p)] } } (.meshHop hall p.id)

/-- SLUICE_SWITCH (R258 to R260): an output of the switch passes a packet on to the next stage. -/
def execSluiceSwitch (hall stage switch : Nat) (s : State) : Res :=
  if 32 ≤ hall ∨ 8 ≤ stage ∨ 128 ≤ switch then .fault (.noSuchUnit hall)
  else
    let es := s.net.sluice.filter fun e => e.hall == hall && e.stage == stage && switchOf e.line == switch
    match firstOf es with
    | none => .next s
    | some f =>
      let line := 2 * switch + f.output
      let k := 2048 * hall + 256 * stage + line
      let es := es.filter fun e => e.output == f.output
      match s.served k es with
      | none => .next s
      | some e =>
        let (s, e) := s.combine e es es.length
        let s := { s with net := { s.net with sluice := s.net.sluice.filter fun x => x.pkt.id != e.pkt.id,
                                              robin := tset s.net.robin k ((e.pkt.cls + 1) % 4) } }
        if stage = 7 then .next (s.leaveSluice hall e)
        else
          let s := { s with net := { s.net with sluice := s.net.sluice ++ [{ e with stage := stage + 1, line := line, came := s.clock.cc }] } }
          .next (s.post (.sluiceSwitch hall (stage + 1) (switchOf line)))

/-- The value that the second constituent of a combined request receives (R259). -/
def secondReply (w : WaitEntry) (v : Word) : Word := if w.op = 32 then word ((v.toNat + w.a) % 2 ^ (8 * w.width)) else v

/-- One half of a split reply, on its return line: split again where it was combined before, else the reply of its one constituent (R260). -/
def State.splitOn (s : State) (w : WaitEntry) (line : Nat) (who : List (Nat × Nat)) (v : Word) : State :=
  match who with
  | [] => s
  | [x] => s.replyOne none (w.hall, line) w.op v x
  | x :: _ =>
    match s.net.waits.find? fun u => (u.first ++ u.second) == who with
    | some u =>
      s.sendFrom none (w.hall, line) (u.hall, u.lines.1)
        { cls := 2, op := w.op, who := who, bytes := if w.op = 32 then 8 else 0, cargo := [.combinedReplySplit u.hall u.packet v] }
    | none => s.replyOne none (w.hall, line) w.op v x

/-- COMBINED_REPLY_SPLIT (R260, R261): the wait entry taken last for a packet is freed. A packet that has not been performed has no reply. -/
def execCombinedReplySplit (hall packet : Nat) (value : Word) (s : State) : Res :=
  match s.net.waits.find? fun w => w.packet == packet with
  | none => .next s
  | some w =>
    let waits := fun (p : Packet) => p.who.contains (w.first.headD (0, 0))
    if w.hall ≠ hall || s.net.packets.any waits || s.net.arrived.any waits then .next s
    else
      let s := { s with net := { s.net with waits := s.net.waits.erase w } }
      .next ((s.splitOn w w.lines.1 w.first value).splitOn w w.lines.2 w.second (secondReply w value))

/-! The mesh. -/

/-- Packets that wait at an output of a router, oldest first. -/
def State.waitingAt (s : State) (hall dir : Nat) : List Packet :=
  (s.net.mesh.filter fun e => e.1 == hall && e.2.dir == some dir).map (·.2)

/-- Whether a packet is a new injection of a deterministic class, which a reroute holds (R270). -/
def State.held (s : State) (hall : Nat) (p : Packet) : Bool := s.net.holding && p.cls != 1 && p.srcHall == hall

/-- The token of R264: the next express packet of an output stops, and the count begins again. -/
def State.starve (s : State) (hall out : Nat) : State :=
  let k := 4 * hall + out
  { s with net := { s.net with passed := tput 0 s.net.passed k 0, token := tput false s.net.token k true } }

/-- An express packet passes a router by an output: one more cycle in which a packet that waits there has been passed over (R264). -/
def State.passOver (s : State) (hall out : Nat) : State :=
  if (s.waitingAt hall out).isEmpty then s
  else
    let k := 4 * hall + out
    let n := tget 0 s.net.passed k + 1
    if n < 32 then { s with net := { s.net with passed := tput 0 s.net.passed k n } } else s.starve hall out

/-- Arbitration at a router: a packet that waits goes out by the output that it has chosen, a relaxed one by another of its outputs while that has no space, behind those of its class that came before (R262), but for urgent replies
(23 R407). -/
def State.arbitrate' (s : State) (hall : Nat) (p : Packet) : State :=
  let blocked := p.cls == 1 && p.srcHall != hall && !((p.dir.bind (neighbour hall)).any fun b => s.linkTakes hall b p)
  let r := if p.dir.isNone || blocked then s.choose hall p else (s, p.dir)
  let s := if r.2 = p.dir then r.1 else
    { r.1 with net := { r.1.net with mesh := r.1.net.mesh.map fun e => if e.1 == hall && e.2.id == p.id then (e.1, { e.2 with dir := r.2 }) else e } }
  match r.2.bind fun d => (neighbour hall d).map fun b => (d, b) with
  | none => s
  | some (d, b) =>
    let ahead := (s.waitingAt hall d).takeWhile fun q => q.id != p.id
    if (p.cls != 1 && ahead.any fun q => q.cls == p.cls && (s.urgent q || !s.urgent p)) || s.held hall p || !s.linkTakes hall b p then s
    else
      let s := { s with net := { s.net with mesh := s.net.mesh.filter fun e => !(e.1 == hall && e.2.id == p.id),
                                            passed := tput 0 s.net.passed (4 * hall + d) 0 } }
      (s.putOn (linkOf hall b) hall (isFord hall b) { p with dir := some d }).postAll ((s.waitingAt hall d).map fun q => .meshHop hall q.id)

/-- A packet stops at a router, or enters the sluice of its destination (R257, R262). -/
def State.stopAt (s : State) (hall : Nat) (p : Packet) : State :=
  State.postAll { s with net := { s.net with mesh := s.net.mesh ++ [(hall, p)] } }
    (((p.dir.map fun d => (s.waitingAt hall d).map fun q => Instr.meshHop hall q.id).getD []) ++ [.meshHop hall p.id])

/-- The direction opposite to one. -/
def backward (d : Nat) : Nat := if d % 2 = 0 then d + 1 else d - 1

/-- A packet comes to the next hall of its way (R263): it stops there at the end of an express leg of three routers, at the end of its way along a
dimension, where the output asks for it by a token (R264), where the link ahead does not take it, or behind packets of its class and its pair of halls that wait there (R262); else it passes the router without arbitration. -/
def State.comeTo (s : State) (hall d : Nat) (p : Packet) : State :=
  if hall = p.dstHall then s.enterSluice hall (232 + 4 * backward d + p.id % 4) p
  else
    let r := s.choose hall p
    let s := r.1
    let turns := r.2 != some d
    let leg := if turns ∨ p.leg = 2 then 0 else p.leg + 1
    let p := { p with dir := r.2, leg := leg }
    let k := 4 * hall + d
    match neighbour hall d with
    | none => s.stopAt hall p
    | some b =>
      if turns || leg == 0 then s.stopAt hall p
      else if tget false s.net.token k then
        State.stopAt { s with net := { s.net with token := tput false s.net.token k false } } hall p
      else if !s.linkTakes hall b p || (p.cls != 1 && (s.waitingAt hall d).any fun q => q.cls == p.cls && q.srcHall == p.srcHall && q.dstHall == p.dstHall) then
        s.stopAt hall p
      else (s.passOver hall d).putOn (linkOf hall b) hall (isFord hall b) p

/-- Events that look again at the packets that wait at an end of a gable ford or an Eslia link. -/
def State.nudge (s : State) (link tag : Nat) : List Instr :=
  (s.net.mesh.filter fun e => e.1 == tag && e.2.crosses link tag).map fun e => .meshHop (tag % 32) e.2.id

/-- A packet on a link has come whole to its far end, and its sender drops it (R265): from beyond a gable ford or an Eslia link it enters the sluice of the hall there. -/
def State.cross (s : State) (link tag : Nat) (p : Packet) : State :=
  let hall := tag % 32
  let s := s.setLink link fun l =>
    let good := fun (n : Nat) => max n ((tget 0 l.places p.id + 16 + p.bytes + 239) / 240 * 240)
    { l with retry := l.retry.filter fun x => x.2.id != p.id, places := tdel l.places p.id,
             goodOut := if 56 ≤ link ∧ tag < 32 then good l.goodOut else l.goodOut, goodIn := if 56 ≤ link ∧ 32 ≤ tag then good l.goodIn else l.goodIn }
  if 52 ≤ link then
    State.postAll (if tag < 32 then s.deliverPacket p else s.enterSluice hall p.srcPort p) (s.nudge link tag)
  else
    match p.dir.bind fun d => (neighbour hall d).map fun b => (d, b) with
    | some (d, b) =>
      State.postAll (s.comeTo b d p) ((s.waitingAt hall d).map fun q => .meshHop hall q.id)
    | none => s

/-- The link on which a packet of a hall, or toward it from beyond a gable ford or an Eslia link, stands, with the end that has sent it. -/
def State.onLink (s : State) (hall packet : Nat) : Option (Nat × Nat × Packet) :=
  s.net.links.findSome? fun l => (l.2.retry.find? fun x => x.1 % 32 == hall && x.2.id == packet).map fun x => (l.1, x.1, x.2)

/-- Whether a packet is the oldest of its class that a hall has on a link, so that the order of the class is kept (R266). -/
def Link.leads (l : Link) (hall : Nat) (p : Packet) : Bool :=
  ((l.retry.filter fun x => x.1 == hall && x.2.cls == p.cls).head?.map (·.2.id)) == some p.id

/-- MESH_HOP (R262 to R266): a packet at a router goes out on a link, or one on a link comes to its far end. -/
def execMeshHop (hall packet : Nat) (s : State) : Res :=
  if 32 ≤ hall then .fault (.noSuchUnit hall)
  else
    match s.net.mesh.find? fun e => e.1 % 32 == hall && e.2.id == packet with
    | some (tag, p) =>
      if tag = hall ∧ p.dstHall ≠ hall then .next (s.arbitrate' hall p)
      else
        let port := if tag = hall then p.dstPort else p.srcPort
        match attachOf hall port with
        | none => .next s
        | some n =>
          let ahead := (s.net.mesh.takeWhile fun e => e.2.id != p.id).any fun e => e.1 == tag && e.2.cls == p.cls && e.2.crosses n tag
          let t := { s with net := { s.net with mesh := s.net.mesh.filter fun e => e.2.id != p.id } }
          if !(s.link n).up then .next (t.losePacket p)
          else if ahead || !(s.link n).room tag p then .next s
          else .next (t.putOn n tag true p)
    | none =>
      match s.onLink hall packet with
      | none => .next s
      | some (n, tag, p) =>
        let l := s.link n
        if !l.up || l.retraining || (!l.leads tag p && (p.cls != 1 || 52 ≤ n)) || (decide (52 ≤ n) && s.attic.holding) then .next s
        else .next (s.cross n tag p)

/-- STARVATION_TOKEN (R264): at 32 passes the router asks for the next express packet to stop, and the count is cleared. -/
def execStarvationToken (hall output : Nat) (s : State) : Res :=
  if 32 ≤ hall ∨ 4 ≤ output then .fault (.noSuchUnit hall)
  else if tget 0 s.net.passed (4 * hall + output) < 32 then .next s
  else .next (s.starve hall output)

/-! Links out of order (R265 to R268, R270). -/

/-- LINK_RETRAIN (R266): the flits of packets that have not come whole are discarded, and once the link works again the packets are sent again, each from its
first flit and in the order in which they were first sent. -/
def execLinkRetrain (link : Nat) (s : State) : Res :=
  if 72 ≤ link then .fault (.noSuchUnit link)
  else
    let t := s.clock.cc
    let n := Config.retrainTime link s.fresh
    .next (State.setLink { s with fresh := s.fresh + 1 } link fun l =>
      { l with retraining := true, begun := t, ends := t + n, replayed := (l.replayed + l.retry.length) % 2 ^ 64,
               retrains := (l.retrains + 1) % 2 ^ 64 })

/-- LINK_RETRAIN_TIMEOUT (R266): a link that has not retrained within 100 µs is taken out of service, and the attic reroutes. -/
def execLinkRetrainTimeout (link : Nat) (s : State) : Res :=
  if 72 ≤ link then .fault (.noSuchUnit link)
  else if !(s.link link).retraining || decide (s.clock.cc < (s.link link).begun + 125000) then .next s
  else .next ((s.linkDown link).post .reroute)

/-- The packets on an Eslia link from one end, each with its first flit and its last, as last sent (R268). -/
def Link.layout (l : Link) (tag : Nat) : List (Packet × Nat × Nat) :=
  (l.retry.filter fun x => x.1 == tag).map fun x =>
    let first := tget 0 l.places x.2.id
    (x.2, first / 240, (first + 15 + x.2.bytes) / 240)

/-- ESLIA_FLIT_ERROR (R268): where the forward error correction corrects the flit, one of those of a packet, it is delivered and counted; else each packet that it
touched is discarded and sent again from its first flit. -/
def execEsliaFlitError (link packet : Nat) (s : State) : Res :=
  if link < 56 ∨ 72 ≤ link then .fault (.noSuchUnit link)
  else if Config.freeChoice s.fresh % 2 = 0 then
    .next (State.setLink { s with fresh := s.fresh + 1 } link fun l => { l with corrected := (l.corrected + 1) % 2 ^ 64 })
  else
    let l := s.link link
    match l.retry.find? fun x => x.2.id == packet with
    | none => .next { s with fresh := s.fresh + 2 }
    | some (tag, _) =>
      let ps := l.layout tag
      let good := (if tag < 32 then l.goodOut else l.goodIn) / 240
      let (lo, hi) := match ps.find? fun x => x.1.id == packet with
        | some (_, a, b) => (max a good, b)
        | none => (0, 0)
      -- a flit that has come good is in error no more
      if hi < lo then .next { s with fresh := s.fresh + 2 }
      else
      let flit := lo + Config.freeChoice (s.fresh + 1) % (hi + 1 - lo)
      let touched := (ps.filter fun x => decide (x.2.1 ≤ flit ∧ flit ≤ x.2.2)).map (·.1)
      .next (State.postAll (State.setLink { s with fresh := s.fresh + 2 } link fun l =>
        touched.foldl (fun l p => l.count link tag true p) { l with replayed := (l.replayed + touched.length) % 2 ^ 64 })
        (touched.map fun p => .meshHop (tag % 32) p.id))

/-- The fixed shortest path of each pair of halls over whole links: the next hall, the x direction preferred (R270). -/
def State.shortestPaths (s : State) : Tab Nat :=
  (List.range 32).flatMap fun h => (List.range 32).filterMap fun dst =>
    if h = dst then none
    else ((neighbours h).find? fun b => s.passable h b && decide (s.hops b dst < s.hops h dst)).map fun b => (32 * h + dst, b)

/-- Whether the path of the deterministic classes from a hall to another is whole. -/
def State.wholePath (s : State) (dst : Nat) : Nat → Nat → Bool
  | 0, hall => hall == dst
  | n + 1, hall =>
    hall == dst ||
      (match (s.choose hall { dstHall := dst }).2.bind (neighbour hall) with
       | some b => s.passable hall b && s.wholePath dst n b
       | none => false)

/-- Whether a packet of a deterministic class that stands at a hall is still to be delivered over a path that is whole (R270). -/
def State.underWay (s : State) (hall : Nat) (p : Packet) : Bool := p.cls != 1 && s.wholePath p.dstHall 32 hall

/-- Whether every packet on a path that is still whole has been delivered (R270). -/
def State.settledMesh (s : State) : Bool :=
  (s.net.mesh.all fun e => e.2.srcHall == e.1 || !s.underWay e.1 e.2) &&
    s.net.links.all fun l => !l.2.up || decide (52 ≤ l.1) || l.2.retry.all fun x => !s.underWay x.1 x.2

/-- The packets that are lost with wings that forward no more (R270): those that stand in one of their halls or on a link of one, and those that go there. A migration
packet's task is gone with it (03 R63). -/
def State.dropLost (s : State) : State :=
  let gone := fun h => !s.wingUp (h / 4)
  let bound := fun (p : Packet) => gone p.dstHall || p.on.any fun x => gone x.1
  let inSluice := (s.net.sluice.filter fun e => gone e.hall || bound e.pkt).map (·.pkt)
  let inMesh := (s.net.mesh.filter fun e => gone (e.1 % 32) || bound e.2).map (·.2)
  let onLinks := s.net.links.flatMap fun l => (l.2.retry.filter fun x => gone (x.1 % 32) || bound x.2).map (·.2)
  let lost := inSluice ++ inMesh ++ onLinks
  let keep := fun (p : Packet) => !lost.any fun q => q.id == p.id
  let s := { s with net := { s.net with sluice := s.net.sluice.filter fun e => keep e.pkt, mesh := s.net.mesh.filter fun e => keep e.2,
                                        links := s.net.links.map fun l => (l.1, { l.2 with retry := l.2.retry.filter fun x => keep x.2 }) } }
  let s := lost.foldl State.losePacket s
  let tasks := s.flights.filter fun f => lost.any fun p => p.cargo.contains (.migrationArrival f.1)
  tasks.foldl (fun s f => ({ s with flights := tdel s.flights f.1 }).retired' f.2.task.gid) s

/-- REROUTE (R270): the attic holds new injections of the deterministic classes and waits until what is on its way has been delivered; then the routers of
wings declared lost forward no more, and what stands there or goes there is lost; paths and scope tables avoid the failed parts, and what was held goes on. -/
def execReroute (s : State) : Res :=
  command s <|
  let gone := (List.range 8).filter fun w => s.wings.any fun e => e.2.lost.contains w
  let s := gone.foldl (fun s w => s.setWing w fun x => { x with up := false }) s
  let s := if gone.isEmpty then s else s.dropLost
  if !s.settledMesh then .next { s with net := { s.net with holding := true } }
  else
    let again := s.net.mesh.map fun (e : Nat × Packet) => (e.1, { e.2 with dir := none, leg := 0 })
    -- what is still in a sluice chooses anew as it leaves it
    let inside := s.net.sluice.map fun e => if e.hall = e.pkt.dstHall then e else { e with pkt := { e.pkt with dir := none } }
    let s := { s with net := { s.net with holding := false, routes := s.shortestPaths, mesh := again, sluice := inside } }
    .next ((s.writeScopes).postAll (again.map fun e => .meshHop (e.1 % 32) e.2.id))

/-- REQUEST_TIMEOUT (R270): a plain request or reply that a failed wing or link has lost ends, 20 µs after its issue, with the unit-offline fault. One that
is still on its way is not lost. A Delta operation that has been committed stands (19 R366). -/
def execRequestTimeout (ctx : Nat) (s : State) : Res :=
  let failed := (s.net.links.any fun e => !e.2.up) || (List.range 8).any fun w => !s.wingUp w
  let coming := s.net.packets.any (·.serves ctx) || s.net.arrived.any (·.serves ctx) || s.agenda.contains (.replyArrival ctx)
  let c := s.ctx ctx
  if c.status != .waiting .reply || !failed || coming || decide (s.clock.cc < c.parkedAt + 25000) then .next s
  else
    let at' := c.flying.getD (((tfind s.before ctx).map Undo.at').getD 0)
    let s := s.undo ctx
    .next (s.raiseAt ctx { kind := 6, reason := 3, pc := (s.ctx ctx).pc, addr := word at', stamp := word s.now })

end Sys2Proof.Machine
end

