-- ==== Sys2Proof/Machine/Preempt.lean ====
section
/-! DEFINITION. Pre-emption and its release (23 R406 to R408; 25 R430 commands 0x02 and 0x03). -/

namespace Sys2Proof.Machine

/-- Tasks that a pre-emption covers, resident or in migration. -/
def State.targets (s : State) (p : Preempt) : List Ctx :=
  ((s.ctxs.filter fun e => e.2.status != .vacant && e.2.status != .ended && covers p (s.hallOf (coreOf e.1)) e.2.gid e.2.queue).map (·.2)) ++
    (s.flights.filter fun f => covers p (s.hallOf f.2.target) f.2.task.gid f.2.task.queue).map fun f => f.2.task

/-- GRP of a task that waits to start: as its image has it, for one that resumes. -/
def State.grpOf (s : State) (t : Start) : Word := ((t.image.bind (tfind s.images)).map ImgRec.grp).getD t.grp

/-- GTIDs of the tasks of the gangs of some tasks: resident, in migration, or with their start event on its way (02 R43). -/
def State.gangMates (s : State) (ts : List Ctx) : List Word :=
  let sets := (ts.filterMap fun c =>
    let js := s.gangsOf c.lnum c.grp
    if js.isEmpty then none else some (c.lnum, s.gangClosure c.lnum 256 js)).eraseDups
  sets.flatMap fun x =>
    ((s.tasksOf x.1).filter (s.inGangs x.1 x.2)).map Ctx.gid ++
      (s.cells.filter fun e => e.2.lnum == x.1 && (s.gangsOf x.1 (s.grpOf e.2)).any x.2.contains).map fun e => e.2.gid

/-- Starts that a hearth's SLOTSTART has under way, with the context that each is for (06 R166). -/
def State.startsUnderWay (s : State) : List (Nat × Start) :=
  s.ctxs.filterMap fun e =>
    match e.2.starting, decodeBundle e.2.bits with
    | true, .ok (.slotstart a, _) =>
      let ctx := 16 * coreOf e.1 + fld (tget 0 e.2.g a.toNat) 3 0
      (tfind s.cells (64 * ctx)).map fun t => (ctx, t)
    | _, _ => none

/-- Rooms whose service a pre-emption stops (R406). -/
def roomsOf (p : Preempt) (cs : List Nat) : List Nat :=
  if !p.service then []
  else if p.kind = 0 then List.range 768
  else if p.kind < 3 then (List.range 768).filter fun r => bitOf p.halls (r / 24)
  else ((cs.filter fun c => !isPorch (coreOf c)).map fun c => roomOf (coreOf c)).eraseDups

/-- Pre-empts a target set (R406): every resident task is halted at its bundle boundary, one in migration at its owner, each gang as a whole. A task whose
start is under way is halted as soon as it stands in its slot (`State.haltStarted`). -/
def State.preempt (s : State) (p : Preempt) : State :=
  let ts := s.targets p
  let own := ts.map Ctx.gid
  let mates := (s.gangMates ts).filter fun g => !own.contains g
  let begun := (s.startsUnderWay.filter fun x => covers p (s.hallOf (coreOf x.1)) x.2.gid x.2.queue).map fun x => x.2.gid
  let p := { p with also := mates.eraseDups, who := (own ++ mates ++ begun).eraseDups }
  let cs := (s.ctxs.filter fun e => e.2.status != .vacant && e.2.status != .ended && covers p (s.hallOf (coreOf e.1)) e.2.gid e.2.queue).map (·.1)
  let stop := fun (f : Nat × Flight) =>
    if covers p (s.hallOf f.2.target) f.2.task.gid f.2.task.queue then (f.1, { f.2 with task := { f.2.task with haltReq := 2 } }) else f
  let s := { s with preempts := s.preempts ++ [p], flights := s.flights.map stop }
  let s := (roomsOf p cs).foldl (fun s r => s.setRoom r fun x => { x with stopped := true }) s
  (cs.foldl (fun s c => s.halt c 2) s).reportPreempts

/-- Images of a hall that no pre-emption covers any more go to the dispatcher, in the order in which they were written (R408). -/
def State.releaseImages (s : State) (hall : Nat) : State :=
  let free := fun a => match tfind s.images a with
    | some r => !s.preempts.any fun p => covers p hall r.gid r.queue
    | none => true
  let go := (s.hall hall).images.filter free
  let s := s.setHall hall fun h => { h with images := h.images.filter fun a => !free a }
  let s := go.foldl (fun s a => s.requeue hall a) s
  let s := { s with attic := { s.attic with releasing := s.attic.releasing ++ go } }
  if (s.hall hall).waiting.isEmpty then s else s.post (.slotEvent hall)

/-- The copy queues and the tile queue of a room go on (12 R291). -/
def State.reopenRoom (s : State) (room : Nat) : State :=
  let s := s.setRoom room fun r => { r with stopped := false }
  let s := s.postAll (((s.room room).copyQ.filter fun q => !q.2.isEmpty).map fun q => .copyChunk room q.1)
  if (s.room room).tileQ.isEmpty then s else s.post (.tileStep room)

/-- Whether a pre-emption is that of a hall's removal, which lasts until the hall is back in service (25 R433). -/
def State.removal (s : State) (p : Preempt) : Bool :=
  !p.command && p.kind == 1 && p.service && (List.range 32).any fun h => p.halls == 2 ^ h && (s.hall h).service != .inService

/-- Releases a pre-emption; none where no such pre-emption stands. A hearth that was stopped goes on (log 24). Every other task that it has halted leaves its slot
with an image, which is resumed (R408), those too whose reply is still to come. That of a hall's removal stands until the hall is back in service, and its release
resumes only the images that have been moved to other halls (25 R433). -/
def State.release' (s : State) (kind halls : Nat) (which : Word) : Option State :=
  match s.preempts.find? fun p => p.kind == kind && p.halls == halls && p.which == which with
  | none => none
  | some p =>
    if s.removal p then some ((s.halls.map (·.1)).foldl State.releaseImages s) else
    let s := { s with preempts := s.preempts.erase p }
    let s := if p.command && !p.told then s.finished p.event 0 else s
    let still := fun room => s.preempts.any fun q => q.service && (decide (q.kind = 0 ∨ 2 < q.kind) || bitOf q.halls (room / 24))
    let rooms := (s.rooms.filter fun r => r.2.stopped && !still r.1).map (·.1)
    let s := if p.service then rooms.foldl State.reopenRoom s else s
    let held := fun (hall : Nat) (c : Ctx) => s.preempts.any fun q => covers q hall c.gid c.queue
    let hearths := (s.ctxs.filter fun e =>
      e.2.status == .halted 2 && slotOf e.1 == 0 && !isPorch (coreOf e.1) && !held (coreOf e.1 / 192) e.2).map (·.1)
    let s := hearths.foldl (fun s c => (s.setCtx c fun x => { x with status := .ready }).rejoin c) s
    let go := fun (e : Nat × Ctx) =>
      if e.2.haltReq = 2 && slotOf e.1 == 0 && !isPorch (coreOf e.1) && !held (coreOf e.1 / 192) e.2 then (e.1, { e.2 with haltReq := 0 }) else e
    let s := { s with ctxs := s.ctxs.map go }
    let s := (s.ctxs.filter fun e => e.2.haltReq = 0 && e.2.status == .waiting .reply && !(e.2.heldT.isEmpty && e.2.heldC.isEmpty)).foldl
      (fun s e => s.rejoin e.1) s
    let s := (s.ctxs.filter fun e => e.2.status == .halted 2).foldl (fun s e => s.post (.imageWrite e.1)) s
    some ((s.halls.map (·.1)).foldl State.releaseImages s)

/-- A release is complete once the KIND 2 event of each image has been sent (R408; 25 R430 command 0x03). -/
def State.reportReleases (s : State) : State :=
  let a := s.attic
  let left := a.releasing.filter fun x => s.halls.any fun h => h.2.waiting.any fun t => t.image == some x
  if left.isEmpty then a.releases.foldl (fun s e => s.finished e 0) { s with attic := { a with releasing := [], releases := [] } }
  else { s with attic := { a with releasing := left } }

end Sys2Proof.Machine
end

