-- ==== Sys2Proof/Machine/Observe.lean ====
section
/-! DEFINITION. Observing: trace rings (24 R416 to R420), counters (R421), the stop table (R422), debug halts (R424, R425), crash dumps (R426 to
R428), and errors found in storage (21 R393; 23 R403). -/

namespace Sys2Proof.Machine

/-! Trace rings. -/

/-- Whether a ring takes no record (R419): it has not been set, or the next record would make the offsets equal. -/
def Ring.full (r : Ring) : Bool := r.size == 0 || (r.wr + 32) % r.size == r.rd

/-- Counts a record that is dropped. -/
def State.ringDrop (s : State) (hall : Nat) : State :=
  s.setHall hall fun h => { h with ring := { h.ring with dropped := h.ring.dropped + 1 } }

/-- Writes a record at the write offset, and goes on with `go`; where the ring is full or it cannot be written, the record that arrives is dropped (log 30). -/
def State.ringWrite (s : State) (hall : Nat) (ws : List Word) (go : State → State) : State :=
  let r := (s.hall hall).ring
  if r.full then s.ringDrop hall
  else
    match s.houseWrite hall (r.base + r.wr) ws with
    | .ok s _ => go (s.setHall hall fun h => { h with ring := { h.ring with wr := (r.wr + 32) % r.size } })
    | .wait s _ _ => s.ringDrop hall
    | .bad s => s.ringDrop hall

/-- A record reaches the ring of a hall (R419): the count of the records dropped before it goes first, with the SOURCE of
log 100. -/
def State.append (s : State) (hall : Nat) (ws : List Word) : State :=
  let lost := word ((s.hall hall).ring.dropped % 2 ^ 64)
  if lost = 0 then s.ringWrite hall ws id
  else
    let head := word (0x08 + sourceOf hall 0 0 4 * 256 + lost.toNat % 2 ^ 32 * 2 ^ 32)
    s.ringWrite hall [word s.now, 0, head, word (lost.toNat / 2 ^ 32)] fun s =>
      State.ringWrite (s.setHall hall fun h => { h with ring := { h.ring with dropped := 0 } }) hall ws id

/-- TRACE_APPEND (R419). -/
def execTraceAppend (hall : Nat) (stamp gtid head payload : Word) (s : State) : Res :=
  if 32 ≤ hall then .fault (.noSuchUnit hall) else .next (s.append hall [stamp, gtid, head, payload])

/-- CLEAR_CORE_COUNTERS (R421). -/
def execClearCoreCounters (core : Nat) (s : State) : Res :=
  if allCores ≤ core then .fault (.noSuchUnit core)
  else
    command s <|
    let cc := s.clock.cc
    .next (s.setCore core fun k => { k with counters := [], counted := cc })

/-! Stops and debug halts. -/

/-- Whether a stop entry's reserved bits are zero (R422). -/
def stopOk (hdr ctl : Word) : Bool := fld hdr 63 58 == 0 && fld hdr 2 0 == 0 && fld ctl 61 48 == 0 && fld ctl 15 8 == 0

/-- A context that is parked on a translation fault at a bundle that a stop now names is debug-halted there: the bundle has not issued (R423,
R425, 09 R227; log 111). -/
def State.stopParked (s : State) (ctx : Nat) : State :=
  match (s.ctx ctx).status with
  | .waiting (.translation _ _ _) =>
    match State.stopped? { s with cur := ctx } with
    | some t => { t with cur := s.cur }
    | none => s
  | _ => s

/-- STOP_TABLE_WRITE (R422): every hall's table in one house-wide step; HITS, which each hall keeps of its own, starts at 0. -/
def execStopTableWrite (index : Nat) (who hdr ctl : Word) (s : State) : Res :=
  if 64 ≤ index then .fault (.noSuchUnit index)
  else if s.attic.holding || !stopOk hdr ctl then .next s
  else
    let s := (List.range 32).foldl (fun s h =>
      s.setHall h fun x => { x with stops := tset x.stops index { who := who, hdr := hdr, ctl := setFld ctl 47 16 0 } }) s
    .next ((s.ctxs.map (·.1)).foldl State.stopParked s)

/-- A task halted for debug that was parked on a translation fault (R425): with its PC unchanged it waits again, or meets the wake that came
meanwhile; with another PC the parked access is abandoned. -/
def State.repark (s : State) (ctx : Nat) (old : Ctx) : State :=
  match old.parkedPc with
  | none => s
  | some (pc, w) =>
    if (s.ctx ctx).pc ≠ pc then
      -- the parked access is abandoned, and its wake, where it is still to come, is discarded (R425)
      if old.heldWake.isSome then s else s.setCtx ctx fun c => { c with staleAsks := old.parkedAsk :: c.staleAsks }
    else
      match old.heldWake with
      | none => s.setCtx ctx fun c => { c with status := .waiting w }
      | some 0 => s
      | some code =>
        match w with
        | .translation h acc _ => s.raiseAt ctx (s.refusal pc h code acc)
        | _ => s

/-- DEBUG_RESUME (R424, R425): the image is checked under 02 R33 and reloaded into the same slot, with the claims that the task has kept. -/
def execDebugResume (ctx : Nat) (s : State) : Res :=
  command s <|
  let old := s.ctx ctx
  if old.status != .halted 4 || old.image == 0 then .next s
  else
    let hall := s.hallOf (coreOf ctx)
    match tfind s.images old.image, s.houseRead hall old.image 64 with
    | some r, .ok s ws =>
      match s.blockOk hall ws old.image with
      | .ok s good =>
        if !imageOk ws r || !good then .next s
        else
          let block := old.image - 0xF_FE00
          let c := ctxOf ws r
          let c := { c with want := 0, xsave := 0, lanes := old.lanes, tile := old.tile, tileAt := old.tileAt, vregs := old.vregs, td := old.td,
                            st := c.st ||| (old.st &&& 1), stopSkip := true, lastIssue := old.lastIssue, haltReq := 0,
                            staleAsks := old.staleAsks, ask := old.parkedAsk }
          let s := { s with ctxs := tset s.ctxs ctx c, images := tdel s.images old.image }
          let s :=
            if old.pinned then
              match s.blockPages hall block rR with
              | .ok s ps => s.loadBlock ctx ps
              | .wait s _ _ => s
              | .bad s => s
            else s
          -- what a command that has failed meanwhile leaves undefined (12 R279, R290)
          let s := c.lostT.foldl (fun s t => s.tileLoss (roomOf (coreOf ctx)) { t with ctx := ctx }) s
          let s := s.setCtx ctx fun c => { c with lostT := [] }
          .next ((((s.rejoin ctx).freeBlock block).repark ctx old).boundary ctx)
      | .wait s h why => .next (s.tell (.unit h why))
      | .bad s => .next s
    | _, .wait s h why => .next (s.tell (.unit h why))
    | _, _ => .next s

/-! Crash dumps. -/

/-- Changes the dump. -/
def State.setDump (s : State) (f : Dump → Dump) : State := { s with attic := { s.attic with dump := f s.attic.dump } }

/-- Kinds of the sections in the order of R426. -/
def dumpOrder : List Nat := [3, 4, 2, 5, 1, 6]

/-- Records of the late section: those that came after the images section, or all where that has not been written (R427, R428). -/
def Dump.lateRecords (d : Dump) : List (Nat × FaultRec) := (if d.sections.any (·.1 == 2) then [] else d.images) ++ d.late

/-- Whether a dump is in progress since the last reset. -/
def Dump.running (d : Dump) : Bool := d.status == 3 && d.requested

/-- Records of a section: fault-area entries of live launches, trace rings, context images with frozen contexts' records, local stores selected,
attic memory, late records. -/
def State.sectionCount (s : State) (kind : Nat) : Nat :=
  if kind = 3 then ((s.launches.filter fun e => !e.2.outlived).map fun e => e.2.fcap).sum
  else if kind = 4 then (s.halls.filter fun h => h.2.ring.size != 0).length
  else if kind = 2 then s.images.length + s.attic.dump.images.length
  else if kind = 5 then Config.dumpStores.length
  else if kind = 6 then s.attic.dump.lateRecords.length
  else 1

/-- A word as the writer of a dump reads it through the ports of a hall; one that it cannot read is a free value (log 73). -/
def State.dumpWord (s : State) (hall h : Nat) : Word :=
  match (s.reach (16 * hall + bits h 9 6) h rR).2 with
  | .ok p => word (s.get p 8)
  | .error _ => Config.unreadWord h s.now

/-- Words from `h` on, as the writer reads them. -/
def State.dumpWords (s : State) (hall h n : Nat) : List Word := (List.range n).map fun i => s.dumpWord hall (h + 8 * i)

/-- An image in a dump, followed by its state block when CLAIM is nonzero (R426). -/
def State.dumpImage (s : State) (hall a : Nat) : List Word :=
  let kept := ((tfind s.images a).map ImgRec.words).getD []
  let ws := if kept.isEmpty then s.dumpWords hall a 64 else kept
  ws ++ (if imgWord ws 0x188 = 0 then [] else s.dumpWords hall (imgWord ws 0x1A0).toNat (blockSize / 8))

/-- The image of a frozen context: as its hall's pool holds it, else as it will be written (R427). -/
def State.frozenImage (s : State) (ctx : Nat) : List Word :=
  if (s.ctx ctx).image = 0 then s.unsavedImage ctx else s.dumpImage (s.hallOf (coreOf ctx)) (s.ctx ctx).image

/-- Contents of a section (R426, R427); a frozen context's image that the pool holds stands among the context images already. -/
def State.sectionWords (s : State) (kind : Nat) : List Word :=
  let d := s.attic.dump
  if kind = 3 then
    (s.launches.filter fun e => !e.2.outlived).flatMap fun e =>
      (List.range e.2.fcap).flatMap fun j => s.dumpWords (s.launchHall e.2) (e.2.entryAt j) 72
  else if kind = 4 then s.halls.flatMap fun h => s.dumpWords h.1 h.2.ring.base (h.2.ring.size / 8)
  else if kind = 2 then
    (s.images.flatMap fun x => s.dumpImage x.2.hall x.1) ++
      d.images.flatMap fun x => s.frozenRecord x ++ (if (s.ctx x.1).image = 0 then s.frozenImage x.1 else [])
  else if kind = 5 then Config.dumpStores.flatMap fun k => s.dumpWords (k / 192) (localAddr k 0) 0x8000
  else if kind = 6 then d.lateRecords.flatMap fun x => s.frozenRecord x ++ s.frozenImage x.1
  else Config.atticMemory s.now

/-- Writes a section into the dump: the sections follow the 4 KiB header and one another. -/
def State.writeSection (s : State) (kind : Nat) : State :=
  let ws := s.sectionWords kind
  s.setDump fun d =>
    { d with sections := d.sections ++ [(kind, s.sectionCount kind)], spans := d.spans ++ [(0x1000 + 8 * d.area.length, 8 * ws.length)],
             area := d.area ++ ws }

/-- The dump header's words (R426): format and STATUS, the two counters, the cores, the number of sections, and each section's entry. -/
def Dump.header (d : Dump) : List Word :=
  [word (2 ^ 56 + d.status), word d.begun, word d.ended, word (d.writer + d.watchdog * 256), word d.sections.length, 0, 0, 0] ++
    (d.sections.zip d.spans).flatMap fun x => [word x.1.1, word x.2.1, word x.2.2, word x.1.2]

/-- CRASH_DUMP (R426): the writer requests the pre-emption of every task with service stopped and writes the header; each further step of it
writes the next section, and the last step rewrites the header. A writer that its watchdog has halted does nothing more (R428). -/
def execCrashDump (writer : Nat) (s : State) : Res :=
  if 16 ≤ writer then .fault (.noSuchUnit writer)
  else
    let d := s.attic.dump
    if s.attic.holding || (d.taken && d.writer == writer) then .next s
    else if !d.running then
      let faulted := (s.ctxs.filter fun e => e.2.status.lost.isSome).map (·.1)
      .next ((s.setDump fun _ => { status := 3, requested := true, askedAt := if d.requested then d.askedAt else s.clock.cc,
                                   before := if d.requested then d.before else faulted, begun := s.now, ended := s.now, writer := writer, watchdog := (writer + 1) % 16,
                                   beatAt := s.now }).preempt { kind := 0, halls := 0, which := 0, service := true })
    else if d.writer ≠ writer then .next s
    else
      match dumpOrder.find? fun k => !(d.sections.any fun x => x.1 == k) with
      | some k => .next (s.writeSection k)
      | none => .next (s.setDump fun d => { d with status := 1, ended := s.now })

/-- FROZEN_CONTEXT (R427): once the crash kernel's pre-emption has been requested, a context that faults is frozen. -/
def execFrozenContext (ctx : Nat) (s : State) : Res :=
  match (s.ctx ctx).status with
  | .faulted f => if s.freezes ctx then .next (s.freeze ctx f) else .next s
  | _ => .next s

/-- DUMP_HEARTBEAT (R428): the writer's progress; a word that does not advance is no heartbeat. -/
def execDumpHeartbeat (progress : Word) (s : State) : Res :=
  command s <|
  if !s.attic.dump.running || decide (progress.toNat ≤ s.attic.dump.progress.toNat) then .next s else .next (s.setDump fun d => { d with progress := progress, beatAt := s.now })

/-- WATCHDOG_TAKEOVER (R428): after 100 ms without a heartbeat, or on the writer's report of a fault, the watchdog halts the writer and completes sections 3, 4
and 6. -/
def execWatchdogTakeover (report : Bool) (s : State) : Res :=
  command s <|
  let d := s.attic.dump
  if d.running = false ∨ (report = false ∧ s.now < d.beatAt + 100000000) then .next s
  else
    let s := ([3, 4, 6].filter fun k => !(d.sections.any fun x => x.1 == k)).foldl State.writeSection s
    .next (s.setDump fun d => { d with status := 2, taken := true, ended := s.now })

/-! Errors in storage. -/

/-- FRONT_STORAGE_ERROR (21 R393): the front is unconfigured, its EPOCH advances, and it is lost until an FCFG or FLOAD. -/
def execFrontStorageError (room front : Nat) (s : State) : Res :=
  if 768 ≤ room ∨ 4 ≤ front then .fault (.noSuchUnit room)
  else
    .next (s.setRoom room fun r =>
      let f : Front := tget {} r.fronts front
      { r with fronts := tset r.fronts front { f with cfg := 0, ovf := false, tuples := [], lost := true, epoch := f.epoch + 1 } })

/-- A context loses its own core's store, or the word it is parked at (R403): a bundle in flight takes no effect, but for a Delta operation, which has been committed and
stands (19 R366). A task that has been halted is occupying its slot still, with its image written or not. -/
def State.loseStore (s : State) (ctx reason addr : Nat) : State :=
  let c := s.ctx ctx
  let hit := fun (s : State) =>
    let s := (s.withdraw ctx).dropRequests ctx
    (s.setCtx ctx fun c => { c with given := none }).raiseAt ctx
      { kind := 0x0D, reason := reason, pc := (s.ctx ctx).pc, addr := word addr, stamp := word s.now }
  match c.status with
  | .vacant => s
  | .ended => s
  | .faulted _ => s
  | .waiting .mfield => hit (s.undo ctx)
  | .waiting w =>
    if c.given.isSome && !c.claiming || (w == .reply && c.flying.isNone && !(c.amo.any fun a => s.net.alone ctx a.id)) then
      s.stopWith ctx { kind := 0x0D, reason := reason, pc := c.pc, addr := word addr, stamp := word s.now }
    else hit (if w = .reply then s.undo ctx else s)
  | _ => hit s

/-- LOCAL_STORE_UNCORRECTABLE (R403). -/
def execLocalStoreUncorrectable (core offset : Nat) (s : State) : Res :=
  if barrelCores ≤ core ∨ 0x4_0000 ≤ offset then .fault (.noSuchUnit core)
  else
    let w := localAddr core (offset / 8 * 8)
    let s := s.setCore core fun k =>
      { k with badWords := if k.badWords.contains (offset / 8) then k.badWords else offset / 8 :: k.badWords, closed := true }
    let far := s.parked.filter fun q =>
      coreOf q.ctx != core && decide (q.ctx < 16 * allCores) &&
        (match unitOf q.word with
         | .localStore k _ => k == core
         | _ => false)
    let s := (List.range 15).foldl (fun s i => s.loseStore (16 * core + i + 1) 1 w) s
    .next (far.foldl (fun s q => s.loseStore q.ctx 2 q.word) s)

end Sys2Proof.Machine
end

