-- ==== Sys2Proof/Machine/Time.lean ====
section
/-! DEFINITION. Time: the house counter and its servo (24 R413 to R415), ebbs, fades and the sweep (17 R338 to R345, R351, R353). -/

namespace Sys2Proof.Machine

/-! Ebbs. -/

/-- Mark words of a hall that hold a nonzero mark, from first to last; a fade leaves the others as they are. -/
def State.markWords (s : State) (hall first last : Nat) : List Nat :=
  ((s.mem.filter fun c => decide (markAddr hall first ≤ c.1) && decide (c.1 < markAddr hall (last + 1))).map fun c =>
    (c.1 - markAddr hall 0) / 8).eraseDups

/-- Whether ebb `e` applies to a descriptor (R342). -/
def applies (w : Word) (e : Nat) : Bool := bitOf w.toNat 63 && fld w 51 43 != 256 && e % fld w 59 52 == 0

/-- The fade of an ebb becomes pending at a region's words, each after any fade that is pending still (R343). -/
def State.fadeRegion (s : State) (hall : Nat) (w : Word) : State :=
  (s.markWords hall (regFirst w) (regLast w)).foldl (fun s i =>
    (s.settleMark hall i).setHall hall fun h => { h with pendFade := h.pendFade ++ [(i, fld w 51 43)] }) s

/-- The descriptors that wait at a hall are installed, in order of arrival, and acknowledged (R353). -/
def State.install (s : State) (hall : Nat) : State :=
  let q := (s.hall hall).regionQ
  let s := s.setHall hall fun h => { h with regions := h.nextRegions, regionQ := [] }
  q.foldl (fun s x =>
    if (s.ctx x.1).status = .waiting .mfield then
      (s.setCtx x.1 fun c => { c with status := .waiting .reply }).send (hallPort hall) (s.lineAt (coreOf x.1))
        { cls := 2, bytes := 0, who := [(x.1, 0)], cargo := [.replyArrival x.1] }
    else s) s

/-- Contexts whose MWAIT ends at ebb `e` (R351). -/
def State.ebbWaiters (s : State) (e : Nat) : List Nat :=
  s.ctxs.filterMap fun x =>
    match x.2.status with
    | .waiting (.ebb n) => if n ≤ e && x.2.given.isNone then some x.1 else none
    | _ => none

/-- EBB_INSTANT (R342, R351, R353): fades, then installations, then the waiters. -/
def execEbbInstant (s : State) : Res :=
  let e := s.ebbNumber
  if e = s.clock.ebbSeen then .next s
  else
    let s := { s with clock := { s.clock with ebbSeen := e } }
    let s := s.halls.foldl (fun s h =>
      h.2.regions.foldl (fun s r => if applies r.2 e then s.fadeRegion h.1 r.2 else s) s) s
    let s := s.halls.foldl (fun s h => if h.2.regionQ.isEmpty then s else s.install h.1) s
    .next ((s.ebbWaiters e).foldl (fun s c =>
      (s.setCtx c fun x => { x with given := some (word e) }).post (.stationWake c (word e))) s)

/-- MARK_SWEEP_WORD (R343): the sweep applies the pending fade of a word. -/
def execMarkSweepWord (hall wd : Nat) (s : State) : Res :=
  if 32 ≤ hall ∨ 262144 ≤ wd then .fault (.noSuchUnit hall) else .next (s.settleMark hall wd)

/-! The house counter. -/

/-- Migration packets whose time to be sent again has come (03 R78). -/
def State.resends (s : State) : List Nat :=
  s.flights.filterMap fun x =>
    match x.2.resendAt with
    | some t => if t ≤ s.clock.cc then some x.1 else none
    | none => none

/-- The packets of a wing's heartbeat (11 R256), beside what they bring about (log 84). -/
def State.sendBeat (s : State) (wing : Nat) : State :=
  if !s.wingUp wing then s
  else ((List.range 8).filter fun w => w != wing && s.wingUp w).foldl (fun s w => s.convey (wingPort wing) (wingPort w) 8 []) s

/-- Port of the unit that sends the attic a message: a core's, or that of a hall's dispatcher (log 84). -/
def State.messagePort (s : State) : AtticMsg → Nat × Nat
  | .translation _ c _ _ _ => s.lineAt (coreOf c)
  | .fault _ c _ => s.lineAt (coreOf c)
  | .unit _ _ => hallPort 0
  | .poolEmpty hall => hallPort hall

/-- The messages of the last cc go out to the attic by its ford (11 R256), beside what they bring about (log 84). -/
def State.carryMessages (s : State) : State :=
  let s := (s.attic.msgs.drop s.attic.carried).foldl (fun s m =>
    let p := s.messagePort m
    s.convey p (s.exitOf p.1 0 .gable) 32 []) s
  { s with attic := { s.attic with carried := s.attic.msgs.length } }

/-- What the wing dispatchers do once per microsecond (03 R60): each sends its heartbeat, unless its wing has failed, and looks for wings that have
been silent (log 53). -/
def State.heartbeats (s : State) : State :=
  let s := ((List.range 8).filter fun w => Config.wingWorks w (s.now / 1000)).foldl (fun s w => (s.beat w).sendBeat w) s
  (List.range 8).foldl (fun s w => (List.range 8).foldl (fun s x => s.declareLost w x) s) s

/-- What the attic does in a microsecond of an update (25 R438): one more system core runs the new image; once all do it may confirm itself, and where it has not
within 10 s the attic returns to the old slot. -/
def State.tendUpdate (s : State) : State :=
  let a := s.attic
  if !a.unconfirmed then s
  else if a.changed < 16 then { s with attic := { a with changed := a.changed + 1 } }
  else if Config.confirms (tget 0 a.slots 2) s.clock.cc then { s with attic := { a with unconfirmed := false } }
  else if a.updated + 12500000000 ≤ s.clock.cc then s.post .updateConfirmTimeout
  else s

/-- Whether an INC may be set (R413). -/
def incOk (inc : Nat) : Bool := decide (0xC000_0000 ≤ inc) && decide (inc ≤ 0xD999_999A)

/-- The payload of a time-correction record (R415). -/
def correction (c : Clock) (inc state : Nat) : Nat :=
  if c.timeState = 3 then inc * 2 ^ 32 + 3 * 2 ^ 88
  else c.offset.toNat + inc * 2 ^ 32 + c.sequence % 65536 * 2 ^ 64 + c.port * 2 ^ 80 + state * 2 ^ 88

/-- INC_CHANGE (R413, R415). Whether the servo counts as locked or slewing is a free value (log 9). -/
def execIncChange (inc : Nat) (holdover : Bool) (s : State) : Res :=
  command s <|
  if !incOk inc then .next s
  else
    let state := if holdover || s.clock.timeState == 2 then 2 else Config.freeChoice s.fresh % 2
    let c := s.clock
    let s := { s with clock := { c with inc := inc }, fresh := s.fresh + 1 }
    .next ((List.range 32).foldl (fun s h => s.traceTo h 0x07 (sourceOf 0 0 0 4) 0 (correction c inc state)) s)

/-- An offset saturated to ±(2^31 - 1) (R415). -/
def saturated (offset : Int) : Lane := BitVec.ofInt 32 (max (-(2 ^ 31 - 1)) (min (2 ^ 31 - 1) offset))

/-- Offset from the time source by the four timestamps of the delay request-response mechanism (R414; IEEE 1588, log 29): the Sync message left at `t1`
and came at `t2`, the delay request left at `t3` and came at `t4`. -/
def offsetOf (t1 t2 t3 t4 : Nat) : Int := (((t2 : Int) - t1) - ((t4 : Int) - t3)) / 2

/-- SYNC_MESSAGE (R414, R415): a Sync message is stamped from the house counter at its port. At the active port the house's delay request leaves at once, stamped from the
same counter, and the offset is taken, from the message's origin timestamp, its own or that of its Follow_Up, and from the response to that request. The other port stands by. A port becomes active by
the first Sync message after a loss of the time source (log 29). -/
def execSyncMessage (port sequence : Nat) (times : SyncTimes) (s : State) : Res :=
  if 2 ≤ port then .fault (.noSuchUnit port)
  else if s.attic.holding then .next s
  else
    let s := { s with clock := { s.clock with syncAt := tset s.clock.syncAt port s.now } }
    if s.clock.active.any (· != port) then .next s
    else
      let s := { s with clock := { s.clock with askAt := tset s.clock.askAt port s.now } }
      let offset := offsetOf times.origin.toNat (tget 0 s.clock.syncAt port) (tget 0 s.clock.askAt port) times.response.toNat
      .next { s with clock := { s.clock with active := some port, port := port, sequence := sequence % 65536, offset := saturated offset, timeState := 0 } }

/-- TIME_SOURCE_LOSS (R414): holdover; INC is kept, and no port is active. -/
def execTimeSourceLoss (s : State) : Res :=
  .next { s with clock := { s.clock with active := none, timeState := if s.clock.timeState = 3 then 3 else 2 } }

/-- SET_EBB_EXPONENT (17 R341): once, from 10 to 30, before any region is valid and before the first launch. -/
def execSetEbbExponent (exponent : Nat) (s : State) : Res :=
  command s <|
  let c := s.clock
  if exponent < 10 ∨ 30 < exponent ∨ c.ebbFixed = true ∨ c.launched = true ∨
      (s.halls.any fun h => h.2.regions.any fun r => bitOf r.2.toNat 63) = true then .next s
  else .next { s with clock := { c with ebbE := exponent, ebbFixed := true, ebbSeen := s.now / 2 ^ exponent } }

/-- SET_HOUSE_COUNTER (R413): once, before the first launch; the fraction becomes 0 (log 29). The times of the heartbeats move with it (03 R60). -/
def execSetHouseCounter (value : Word) (s : State) : Res :=
  command s <|
  let c := s.clock
  if c.counterSet || c.launched then .next s
  else
    .next { s with clock := { c with acc := value.toNat * 2 ^ 32, counterSet := true, ebbSeen := value.toNat / 2 ^ c.ebbE },
                   wings := (List.range 8).foldl (fun t w =>
                     let x : Wing := tget {} t w
                     tset t w { x with heard := (List.range 8).map fun v => (v, value.toNat - (s.now - tget 0 x.heard v)) }) s.wings }

end Sys2Proof.Machine
end

