-- ==== Sys2Proof/Machine/House.lean ====
section
/-! DEFINITION. House commands and what the attic does for the house (25 R429, R430, R433 to R437; 03 R71; 09 R223, R225; 17 R340; 19 R375; 23
R409; 24 R419). A command's DONE word is added to the attic's results: [63] complete, [47:16] by command, [7:0] the result.
An operand outside its limits makes a command refused, with no effect. -/

namespace Sys2Proof.Machine

/-! Translations. -/

/-- Whether a TLB entry overlaps a range. -/
def TlbEntry.overlaps (e : TlbEntry) (addr size : Nat) : Bool :=
  decide (e.base * 2 ^ e.size < addr + size) && decide (addr < (e.base + 1) * 2 ^ e.size)

/-- INVALIDATE_TRANSLATIONS (R430, command 0x01): a fetch-and-add carries the place that its core's port gave it, so the command is complete only once
those of the range have been performed. -/
def execInvalidateTranslations (addr size : Nat) (s : State) : Res :=
  command s <|
  let ok := (List.range 43).any fun i => size == 2 ^ (16 + i)
  if !ok || decide (addr % size ≠ 0) || decide (2 ^ 58 < addr + size) then .next (s.finished (.invalidateTranslations addr size) 1)
  else
    let t := (s.tlbs.map fun e => (e.1, e.2.filter fun x => !x.overlaps addr size)).filter fun e => !e.2.isEmpty
    let s := { s with tlbs := t }
    let adds := s.ctxs.filterMap fun e => (e.2.amo.filter fun a => decide (addr ≤ a.h ∧ a.h < addr + size)).map fun a => (e.1, a.id)
    let wait := adds.filter s.adding
    .next (if wait.isEmpty then s.finished (.invalidateTranslations addr size) 0
      else { s with attic := { s.attic with purges := s.attic.purges ++ [(addr, size, wait)] } })

/-- SET_TRANSLATION_ROOT (09 R223, R224): the level 0 table is aligned to its 4 MiB. -/
def execSetTranslationRoot (stack addr : Nat) (s : State) : Res :=
  command s <|
  if 24 ≤ stack then .fault (.noSuchUnit stack)
  else if addr % 2 ^ 22 ≠ 0 ∨ 2 ^ 48 ≤ addr then .next s
  else .next { s with root := (stack, addr) }

/-! Pre-emption. -/

/-- Whether the operands of commands 0x02 and 0x03 are within their limits (R430). -/
def preemptOk (kind halls : Nat) (which : Word) : Bool :=
  decide (kind ≤ 4) && decide (halls < 2 ^ 32) && (kind == 4 || decide (which.toNat < 65536))

/-- PREEMPT (R430, command 0x02; 23 R406): its result is given once every affected context has halted (23 R407). -/
def execPreempt (kind halls : Nat) (which : Word) (service : Bool) (s : State) : Res :=
  command s <|
  if !preemptOk kind halls which then .next (s.finished (.preempt kind halls which service) 1)
  else .next (s.preempt { kind := kind, halls := halls, which := which, service := service, command := true })

/-- RELEASE (R430, command 0x03; 23 R408): its result is given once the start event of every image has been sent. -/
def execRelease (kind halls : Nat) (which : Word) (s : State) : Res :=
  command s <|
  match s.release' kind halls which with
  | none => .next (s.finished (.release kind halls which) 1)
  | some s => .next (State.reportReleases { s with attic := { s.attic with releases := s.attic.releases ++ [.release kind halls which] } })

/-! Halls, cores, stacks. -/

/-- Copies a state block, page by page. -/
def State.copyBlock (s : State) (src dst : List Phys) : State :=
  (List.range 16).foldl (fun s i =>
    (List.range 8192).foldl (fun s j =>
      s.store (blockKey dst (0x1_0000 * i + 8 * j)) 8 (s.load (blockKey src (0x1_0000 * i + 8 * j)) 8)) s) s

/-- Moves one pre-empted image, with its block, to a free block of another hall; none where a block cannot be reached or none is free. The image of a task that
was pre-empted as it re-established the claims of a fault image (23 R410) stands apart from its block, and joins it. -/
def State.moveImage (s : State) (source target a : Nat) : Option State :=
  match tfind s.images a, (s.hall target).freeBlock with
  | some r, some i =>
    match s.imageRead source a r with
    | .ok s ws =>
      let xsave := (imgWord ws 0x1A0).toNat
      let block := if xsave = 0 then a - 0xF_FE00 else xsave
      let base := (s.hall target).block i
      match s.blockPages source block rR with
      | .ok s ps =>
        match s.blockPages target base rW with
        | .ok s qs =>
          let b := base + 0xF_FE00
          let s := ((s.copyBlock ps qs).bputWs qs 0xF_FE00 ws).bput qs 0x10 8 b
          let s := if xsave = 0 then s else s.bput qs (0xF_FE00 + 0x1A0) 8 base
          let s := s.setHall target fun h => { h with poolUsed := i :: h.poolUsed, images := h.images ++ [b] }
          let s := s.setHall source fun h => { h with images := h.images.erase a }
          some (State.freeBlock { s with images := tset (tdel s.images a) b { r with hall := target, words := [], home := 0 } } block)
        | _ => none
      | _ => none
    | _ => none
  | _, _ => none

/-- Moves images in the order they were written. -/
def State.moveAll (s : State) (source target : Nat) : List Nat → Option State
  | [] => some s
  | a :: t => (s.moveImage source target a).bind fun s => s.moveAll source target t

/-- Step 4 of R433: the hall's units refuse accesses, its contexts are gone, and every putter still parked at one of its launch words receives
the unit-offline fault, as does every waiter at another of its words (DEDUCED, log 126). -/
def State.goOffline (s : State) (hall : Nat) : State :=
  let at' := fun (q : Parked) => match unitOf q.word with
    | .launchWord h _ => h == hall
    | .future h _ => h == hall
    | .localStore core _ => !isPorch core && core / 192 == hall
    | _ => false
  let mine := s.parked.filter at'
  let s := s.setHall hall fun h => { h with service := .offline }
  let s := (List.range 192).foldl (fun s c => s.takeBack (192 * hall + c) (s.core (192 * hall + c)).promised) s
  let s := { s with ctxs := s.ctxs.filter fun e => isPorch (coreOf e.1) || coreOf e.1 / 192 != hall,
                    parked := s.parked.filter fun q => !at' q,
                    full := tclear s.full (0xF_0000_0000 + hall * 0x100_0000 + 0x2000) (0xF_0000_0000 + hall * 0x100_0000 + 0x2600),
                    cores := s.cores.map fun (e : Nat × Core) => if e.1 / 192 = hall then (e.1, { e.2 with promised := [], reaping := [] }) else e }
  let s := mine.foldl State.endWait (s.setHall hall fun h => { h with events := [] })
  mine.foldl (fun s q =>
    if q.ctx < 16 * allCores then
      s.raiseAt q.ctx { kind := 6, reason := 3, pc := (s.ctx q.ctx).pc, addr := word q.word, stamp := word s.now }
    else s) s

/-- The command 0x05 that has taken a hall out of service is complete, and what has named it again meanwhile (R433). -/
def State.removed (s : State) (hall : Nat) : State :=
  let e : Command := .hallService hall false
  (List.range (max 1 (s.attic.cmds.filter fun c => c.event == some e).length)).foldl (fun s _ => s.finished e 0) s

/-- Whether no task is left in a hall's slots, but for hearths that have been stopped, or on its way to one. -/
def State.drained (s : State) (hall : Nat) : Bool :=
  (s.ctxs.all fun e => isPorch (coreOf e.1) || coreOf e.1 / 192 != hall || slotOf e.1 == 0 || e.2.status == .vacant || e.2.status == .ended) &&
    s.flights.all fun f => isPorch f.2.target || f.2.target / 192 != hall

/-- MOVE_IMAGES (R430, command 0x04): all of a hall's pre-empted images, or none where they cannot all be moved. A hall that is being taken out
of service, and that is drained, then goes offline, and the command 0x05 that named it is complete (R433). -/
def execMoveImages (source target : Nat) (s : State) : Res :=
  command s <|
  if 32 ≤ source ∨ 32 ≤ target then .next (s.finished (.moveImages source target) 1)
  else if !s.hallUp target then .next (s.finished (.moveImages source target) 2)
  else
    match s.moveAll source target (s.hall source).images with
    | none => .next (s.finished (.moveImages source target) 1)
    | some s =>
      let s := s.finished (.moveImages source target) 0
      .next (if (s.hall source).service = .leaving && s.drained source then (s.goOffline source).removed source else s)

/-- Memory without the cells from `lo` up to `hi`, which read as at reset again. -/
def clearMem (m : List Host.Cell) (lo hi : Nat) : List Host.Cell := tclear m lo hi

/-- Zeroes a core's store: its words, its full/empty bits and its deferred list (R430). -/
def State.zeroStore (s : State) (core : Nat) : State :=
  let lo := localAddr core 0
  let hi := lo + 0x4_0000
  { (s.setCore core fun k => { k with closed := false, badWords := [] }) with
    mem := clearMem s.mem lo hi, full := tclear s.full lo hi, parked := s.parked.filter fun q => decide (q.word < lo) || decide (hi ≤ q.word) }

/-- HALL_SERVICE (R433, command 0x05). Out: the hall takes no more work, and its tasks are pre-empted with service stopped; named again once the
attic has moved their images, it goes offline. Back: its stores, marks and future table are as at reset, its region table holds region 0. -/
def execHallService (hall : Nat) (back : Bool) (s : State) : Res :=
  command s <|
  if 32 ≤ hall then .next (s.finished (.hallService hall back) 1)
  else
    let h := s.hall hall
    if back then
      if h.service ≠ .offline then .next (s.finished (.hallService hall back) 1)
      else
        let s := (List.range 192).foldl (fun s c => s.zeroStore (192 * hall + c)) s
        let m := clearMem (clearMem s.mem (markAddr hall 0) (markAddr hall 262144)) (futureAddr hall 0) (futureAddr hall 65536)
        let s := { s with mem := m, preempts := s.preempts.filter fun p => !(p.kind == 1 && p.halls == 2 ^ hall && p.service) }
        let s := s.setHall hall fun h =>
          { h with service := .inService, regions := [(0, 0x8014_0000_00BC_0000)], regionQ := [], pendFade := [] }
        let s := (List.range 24).foldl (fun s r => s.reopenRoom (24 * hall + r)) s
        .next ((s.post (.slotEvent hall)).finished (.hallService hall back) 0)
    else
      match h.service with
      | .offline => .next (s.finished (.hallService hall back) 2)
      | .leaving => if s.drained hall && h.images.isEmpty then .next ((s.goOffline hall).removed hall) else .next s
      | .inService =>
        let s := s.setHall hall fun h => { h with service := .leaving }
        let full := (List.range 256).filter fun w => s.isFull (launchAddr hall w)
        let s := s.postAll (full.map fun w => .launchIntake hall w)
        .next (s.preempt { kind := 1, halls := 2 ^ hall, which := 0, service := true })

/-- CORE_IN_SERVICE (R430, command 0x06): context 0 stands vacant afterwards (03 R71). -/
def execCoreInService (hall core : Nat) (s : State) : Res :=
  command s <|
  if 32 ≤ hall ∨ 192 ≤ core then .next (s.finished (.coreInService hall core) 1)
  else if !s.hallUp hall then .next (s.finished (.coreInService hall core) 2)
  else
    let k := 192 * hall + core
    let s := s.zeroStore k
    let s := { (s.withdraw (16 * k)) with ctxs := tdel s.ctxs (16 * k) }
    .next ((s.post (.slotEvent hall)).finished (.coreInService hall core) 0)

/-- Whether an entry of a page table, or of the tables below it, names a stack. -/
def tableNames (m : List Host.Cell) (stack : Nat) : List Nat → Nat → Nat → Bool
  | [], _, _ => false
  | l :: ls, st, addr =>
    let n := if l = 0 then 2 ^ 19 else if l = 3 then 32 else 512
    (List.range n).any fun i =>
      let e := word (memLoad m (hbmKey st (addr + 8 * i)) 8)
      if fld e 1 0 = 1 then fld e 61 57 == stack || tableNames m stack ls (fld e 61 57) (bits e.toNat 47 8 * 256)
      else fld e 1 0 == 2 && fld e 63 62 == 0 && fld e 61 57 == stack

/-- RETIRE_STACK (R437, command 0x07). -/
def execRetireStack (stack : Nat) (s : State) : Res :=
  command s <|
  if 24 ≤ stack then .next (s.finished (.retireStack stack) 1)
  else if s.retired.contains stack then .next (s.finished (.retireStack stack) 2)
  else if s.root.1 == stack || tableNames s.mem stack [0, 1, 2, 3] s.root.1 s.root.2 then .next (s.finished (.retireStack stack) 1)
  else
    let s := { s with retired := stack :: s.retired }
    let s := (List.range 4).foldl (fun s i => s.setCore (barrelCores + 4 * stack + i) fun k => { k with closed := true }) s
    .next (s.finished (.retireStack stack) 0)

/-! Links and peers. -/

/-- RECALIBRATE_LINK (R435, command 0x08): half B retrains while half A carries all traffic, then half A, and both carry traffic again. Where half A has been
left out before, it alone retrains (log 97). -/
def execRecalibrateLink (link : Nat) (s : State) : Res :=
  command s <|
  if 72 ≤ link then .next (s.finished (.recalibrateLink link) 1)
  else if !(s.link link).up then .next (s.finished (.recalibrateLink link) 2)
  else if (s.link link).recal ≠ 0 then .next (s.finished (.recalibrateLink link) 1)
  else .next (s.beginHalf link (if (s.link link).halfA then 1 else 2))

/-- HALF_RETRAIN_TIMEOUT (R435): the half that retrains, A when true, has not within 100 µs: it is left out, and the link runs at half width. -/
def execHalfRetrainTimeout (link : Nat) (half : Bool) (s : State) : Res :=
  if 72 ≤ link then .fault (.noSuchUnit link)
  else
    let l := s.link link
    if l.recal ≠ (if half then 2 else 1) ∨ s.clock.cc < l.halfBegun + 125000 then .next s else .next (s.endRecal link 1)

/-- Eslia links that lead to a peer (log 84). -/
def linksTo (peer : Nat) : List Nat := ((List.range 16).filter (Config.peerLink peer ·)).map (56 + ·)

/-- ISOLATE_PEER (R436, command 0x0A): the links to it are down, with what they carry lost, and no scope reaches it. -/
def execIsolatePeer (peer : Nat) (s : State) : Res :=
  command s <|
  if 32 ≤ peer then .next (s.finished (.isolatePeer peer) 1)
  else .next (((linksTo peer).foldl State.linkDown { s with peers := tdel s.peers peer }).writeScopes.finished (.isolatePeer peer) 0)

/-- PEER_DISCOVERY (R436; 11 R270): level 13 at one Eslia hop, 14 at two, 15 at more; the links to it work again. -/
def execPeerDiscovery (peer hops : Nat) (s : State) : Res :=
  command s <|
  if 32 ≤ peer ∨ hops = 0 then .fault (.noSuchUnit peer)
  else
    let s := (linksTo peer).foldl (fun s n =>
      (s.setLink n fun l => { l with up := true }).postAll ((s.link n).retry.map fun x => .meshHop (x.1 % 32) x.2.id)) s
    .next (State.writeScopes { s with peers := tset s.peers peer (min 15 (12 + hops)) })

/-! Rings, pools, hearths. -/

/-- Whether `size` bytes at a house address lie in pages of the HBM tier that grant some rights (23 R409, 24 R419). -/
def State.inHbm (s : State) (hall base size : Nat) (rights : List Nat) : Bool :=
  (List.range ((base % 0x1_0000 + size + 0xFFFF) / 0x1_0000)).all fun i =>
    let h := base / 0x1_0000 * 0x1_0000 + 0x1_0000 * i
    rights.all fun r =>
      match (s.reach (16 * hall + bits h 9 6) h r).2 with
      | .ok p => p.isHbm
      | .error _ => false

/-- SET_TRACE_RING (24 R419, command 0x09): a power of two from 64 KiB to 1 GiB. -/
def execSetTraceRing (hall base size : Nat) (s : State) : Res :=
  command s <|
  if 32 ≤ hall then .next (s.finished (.setTraceRing hall base size) 1)
  else if !((List.range 15).any fun i => size == 2 ^ (16 + i)) || unitOf base != .paged || base % 32 != 0 || !s.inHbm hall base size [rW] then .next (s.finished (.setTraceRing hall base size) 1)
  else .next ((s.setHall hall fun h => { h with ring := { base := base, size := size, dropped := h.ring.dropped } }).finished (.setTraceRing hall base size) 0)

/-- ADVANCE_TRACE_RING (24 R419, command 0x0D): the write offset comes back. -/
def execAdvanceTraceRing (hall offset : Nat) (s : State) : Res :=
  command s <|
  if 32 ≤ hall then .next (s.finished (.advanceTraceRing hall offset) 1)
  else
    let r := (s.hall hall).ring
    if offset % 32 ≠ 0 ∨ r.size ≤ offset then .next (s.finished (.advanceTraceRing hall offset) 1)
    else .next ((s.setHall hall fun h => { h with ring := { h.ring with rd := offset } }).finished (.advanceTraceRing hall offset) 0 r.wr)

/-- SET_STATE_POOL (23 R409, command 0x0C): paged space of the HBM tier; refused while a block of the present pool is in use. -/
def execSetStatePool (hall base count : Nat) (s : State) : Res :=
  command s <|
  if 32 ≤ hall then .next (s.finished (.setStatePool hall base count) 1)
  else if base % 0x10_0000 ≠ 0 ∨ 65535 < count ∨ unitOf base ≠ .paged ∨ (s.hall hall).poolUsed ≠ [] ∨
      !s.inHbm hall base (0x10_0000 * count) [rR, rW] then .next (s.finished (.setStatePool hall base count) 1)
  else .next (((s.setHall hall fun h => { h with poolBase := base, poolCount := count }).retryImages hall).finished (.setStatePool hall base count) 0)

/-- Whether a core's hearth can be started (03 R71): the core is in service, and its context 0 is not running. -/
def State.canStart (s : State) (core : Nat) : Bool :=
  s.hallUp (core / 192) && !(s.core core).closed &&
    (match (s.ctx (16 * core)).status with
     | .vacant => true
     | .halted 4 => true
     | _ => false)

/-- Context 0 of a core as command 0x0B starts it. -/
def hearthCtx (entry g1 : Word) (segs : Tab Seg) : Ctx :=
  { status := .ready, pc := entry, g := tput 0 [] 1 g1, segs := segs, st := 1 }

/-- Starts the hearth of a core; the image of the context that it replaces is dropped. -/
def State.startHearth (s : State) (core : Nat) (c : Ctx) : State :=
  let s := s.dropImage (16 * core)
  { (s.withdraw (16 * core)) with ctxs := tset s.ctxs (16 * core) c }

/-- START_HEARTHS (03 R71, command 0x0B); `core` is 0 to 191, or 255 for every core. Where the hearth cell or its segment set cannot be read, the result is
1 (log 91). -/
def execStartHearths (halls core cell : Nat) (s : State) : Res :=
  command s <|
  if 2 ^ 32 ≤ halls ∨ (191 < core ∧ core ≠ 255) then .next (s.finished (.startHearths halls core cell) 1)
  else
    match s.houseRead 0 cell 8 with
    | .ok s ws =>
      if !((ws.drop 3).all (· == 0)) || cell % 64 != 0 then .next (s.finished (.startHearths halls core cell) 1)
      else
        match s.houseRead 0 (ws.getD 1 0).toNat 16 with
        | .ok s ss =>
          let c := hearthCtx (ws.headD 0) (ws.getD 2 0) (readSegs ss 8)
          let named := ((List.range 32).filter fun h => bitOf halls h).flatMap fun h =>
            if core = 255 then (List.range 192).map (192 * h + ·) else [192 * h + core]
          let go := named.filter s.canStart
          let s := go.foldl (fun s k => s.startHearth k c) s
          .next (s.finished (.startHearths halls core cell) (if go.length = named.length then 0 else 3))
        | _ => .next (s.finished (.startHearths halls core cell) 1)
    | _ => .next (s.finished (.startHearths halls core cell) 1)

/-- OCCUPANCY_REGION_WRITE (17 R340; 03 R73). -/
def execOccupancyRegionWrite (s : State) : Res :=
  command s <|
  .next ((List.range 32).foldl (fun s h => s.setHall h fun x => { x with regions := tset x.regions 0 0x8014_0000_00BC_0000 }) s)

/-- KEEPER_STEP (19 R375): the station keeps a tree between operations. -/
def execKeeperStep (tree : Nat) (s : State) : Res :=
  match keepTree tree s with
  | .ok (_, s) => .next s
  | .error _ => .next s

end Sys2Proof.Machine
end

