-- ==== Sys2Proof/Machine/HostPort.lean ====
section
/-! DEFINITION. The host port (25 R431, R432; 03 R55), reset (03 R71), boot and firmware (25 R438, R439) and the security alarm (R440). -/

namespace Sys2Proof.Machine

/-! Requests of the host. -/

/-- HOST_LAUNCH_CAS (03 R55; R433): while the attic holds, the port is stopped (R440). -/
def execHostLaunchCas (hall wd : Nat) (compare swap : Word) (s : State) : Res :=
  if 32 ≤ hall ∨ 256 ≤ wd then .fault (.noSuchUnit hall) else .next (s.hostRequest (.launchCas hall wd compare swap))

/-- HOST_WINDOW_MISUSE (03 R55). -/
def execHostWindowMisuse (s : State) : Res := .next (s.hostRequest .misuse)

/-- HOST_WINDOW_OTHER (03 R55): a read returns all ones, a posted write is lost. -/
def execHostWindowOther (read : Bool) (s : State) : Res := .next (if read then s.hostRequest .otherRead else s)

/-- MISUSE_CLEAR (R431). -/
def execMisuseClear (s : State) : Res := .next (s.hostRequest .misuseClear)

/-- HOST_REGISTER_WRITE (R431): MBUF holds what is written, any write clears MISUSE, and one to MBOX may set GO; a write to a read-only or reserved place has
no effect. -/
def execHostRegisterWrite (offset : Nat) (value : Word) (s : State) : Res := .next (s.hostRequest (.registerWrite offset value))

/-- MBOX_GO (R431): the request in MBUF passes to the attic. -/
def execMboxGo (s : State) : Res := .next (s.hostRequest .mboxGo)

/-- ATTESTATION_REQUEST (R439). -/
def execAttestationRequest (nonce : Nat) (s : State) : Res := .next (if s.attic.holding then s else s.attest (nonce % 2 ^ 256))

/-- APERTURE_REQUEST (R431). -/
def execApertureRequest (write : Bool) (offset size : Nat) (data : Nat) (s : State) : Res :=
  .next (s.hostRequest (.aperture write offset size data))

/-! Reset and boot. -/

/-- RESET (03 R71): the house right after reset. The key store, the firmware slots, the alarm level, the dump area and what is fitted keep what they hold, and the counters of
free values and identities go on (log 31). -/
def execReset (s : State) : Res :=
  let a := s.attic
  .next { State.reset with
    fresh := s.fresh, nextId := s.nextId, fit := s.fit,
    attic := { slots := a.slots, slotB := a.slotB, rollback := a.rollback, keyErased := a.keyErased, alarmLevel := a.alarmLevel,
               dump := { a.dump with requested := false, taken := false } } }

/-- BOOT (R438): the image runs when its signature verifies and its version is not below the rollback counter; after 16 failures HSTAT[1] is
set. The attic sets the alarm level (R440), which only rises (log 58). -/
def execBoot (image version : Nat) (s : State) : Res :=
  if s.attic.running || s.attic.holding then .next s
  else if Config.signatureOk image && decide (s.attic.rollback ≤ version) then
    let s := s.setAttic fun a =>
      { a with running := true, slots := tset a.slots 2 image, alarmLevel := max a.alarmLevel (Config.alarmLevel image % 3) }
    .next (if s.attic.go then s.attest (s.attic.mbuf % 2 ^ 256) else s)
  else
    .next (s.setAttic fun a =>
      { a with bootTries := a.bootTries + 1, bootFailed := a.bootFailed || decide (16 ≤ a.bootTries + 1) })

/-- The security alarm (R440): the temperature and rail sources act at level 1 at least. The SOURCE of its record is that of log 100. -/
def State.alarm (s : State) (source : Nat) : State :=
  let level := if source = 3 ∨ source = 4 then max 1 s.attic.alarmLevel else s.attic.alarmLevel
  let s := s.traceTo 0 0x0A (sourceOf 0 0 0 4) 0 (source + level * 2 ^ 8)
  let s := s.setAttic fun a => { a with alarm := max a.alarm level }
  let s := if 1 ≤ level then
      (s.preempt { kind := 0, halls := 0, which := 0, service := false }).setAttic fun a => { a with holding := true }
    else s
  if 2 ≤ level then s.setAttic fun a => { a with keyErased := true } else s

/-- SECURITY_ALARM (R440; source numbers of 24 R417). -/
def execSecurityAlarm (source : Nat) (s : State) : Res := if 6 ≤ source then .fault (.noSuchUnit source) else .next (s.alarm source)

/-- RUNTIME_UPDATE (R438): the inactive slot is written; with its signature verified the system cores change to it one at a time, else the alarm is raised. -/
def execRuntimeUpdate (image _version : Nat) (s : State) : Res :=
  if !s.attic.running || s.attic.holding then .next s
  else
    let s := s.setAttic fun a => { a with slots := tset a.slots (1 - b2n a.slotB) image }
    if Config.signatureOk image then
      let cc := s.clock.cc
      .next (s.setAttic fun a =>
        { a with slotB := !a.slotB, unconfirmed := true, updated := cc, changed := 0, slots := tset a.slots 2 image })
    else .next (s.alarm 5)

/-- UPDATE_CONFIRM_TIMEOUT (R438): an image that has not confirmed itself within 10 s gives way to the old slot. -/
def execUpdateConfirmTimeout (s : State) : Res :=
  command s <|
  if !s.attic.unconfirmed || decide (s.clock.cc < s.attic.updated + 12500000000) then .next s
  else
    .next (s.setAttic fun a =>
      { a with slotB := !a.slotB, unconfirmed := false, changed := 16, slots := tset a.slots 2 (tget 0 a.slots (1 - b2n a.slotB)) })

end Sys2Proof.Machine
end

