-- ==== Sys2Proof/Machine/Tick.lean ====
section
/-! DEFINITION. The command registers of the system cores (25 R429), and the tick that begins each cc (24 R413). -/

namespace Sys2Proof.Machine

/-- The command of a descriptor (25 R429, R430); none where a reserved bit is set or the code is none of the table's. The limits of its operands are looked at
as it is performed. -/
def commandOf (ws : List Word) : Option Command :=
  let a := fun i => (ws.getD (1 + i) 0).toNat
  if fld (ws.headD 0) 63 8 ≠ 0 then none
  else
    match fld (ws.headD 0) 7 0 with
    | 0x01 => some (.invalidateTranslations (a 0) (a 1))
    | 0x02 => if a 3 < 2 then some (.preempt (a 0) (a 1) (word (a 2)) (a 3 == 1)) else none
    | 0x03 => if a 3 < 2 then some (.release (a 0) (a 1) (word (a 2))) else none
    | 0x04 => some (.moveImages (a 0) (a 1))
    | 0x05 => if a 1 < 2 then some (.hallService (a 0) (a 1 == 1)) else none
    | 0x06 => some (.coreInService (a 0) (a 1))
    | 0x07 => some (.retireStack (a 0))
    | 0x08 => some (.recalibrateLink (a 0))
    | 0x09 => some (.setTraceRing (a 0) (a 1) (a 2))
    | 0x0A => some (.isolatePeer (a 0))
    | 0x0B => some (.startHearths (a 0) (a 1) (a 2))
    | 0x0C => some (.setStatePool (a 0) (a 1) (a 2))
    | 0x0D => some (.advanceTraceRing (a 0) (a 1))
    | _ => none

/-- A write to a command register (25 R429): system core `core` names a descriptor at 0x20_0000_0000 + 8 × core, after what it has named before. The
stores of system cores are no instructions of this manual (log 53, log 110). -/
def State.writeCommand (s : State) (addr : Nat) (desc : Nat) : State :=
  let core := (addr - 0x20_0000_0000) / 8
  if addr < 0x20_0000_0000 ∨ 16 ≤ core ∨ addr % 8 ≠ 0 then s
  else { s with attic := { s.attic with cmds := s.attic.cmds ++ [{ core := core, desc := desc / 64 * 64 }] } }

/-- The eight words of a descriptor. -/
def Attic.descriptor (a : Attic) (desc : Nat) : List Word := (List.range 8).map fun i => tget 0 a.memory (desc / 8 + i)

/-- A command is performed as the event of its name is. -/
def Command.perform (s : State) : Command → Res
  | .invalidateTranslations addr size => execInvalidateTranslations addr size s
  | .preempt kind halls which service => execPreempt kind halls which service s
  | .release kind halls which => execRelease kind halls which s
  | .moveImages source target => execMoveImages source target s
  | .hallService hall back => execHallService hall back s
  | .coreInService hall core => execCoreInService hall core s
  | .retireStack stack => execRetireStack stack s
  | .recalibrateLink link => execRecalibrateLink link s
  | .setTraceRing hall base size => execSetTraceRing hall base size s
  | .isolatePeer peer => execIsolatePeer peer s
  | .startHearths halls core cell => execStartHearths halls core cell s
  | .setStatePool hall base count => execSetStatePool hall base count s
  | .advanceTraceRing hall offset => execAdvanceTraceRing hall offset s

/-- Begins the oldest command of a system core, where none of its commands has begun; one that is no command is refused (25 R429). No command ends in a
fault or a refusal. -/
def State.beginCommand (s : State) (core : Nat) : State :=
  match s.attic.cmds.find? fun c => c.core == core with
  | none => s
  | some c =>
    if c.event.isSome then s
    else
      match commandOf (s.attic.descriptor c.desc) with
      | some e =>
        match e.perform { s with attic := { s.attic with cmds := s.attic.cmds.replace c { c with event := some e } } } with
        | .next s => s
        | _ => s
      | none =>
        { s with attic := { s.attic with cmds := s.attic.cmds.erase c, memory := tset s.attic.memory (c.desc / 8 + 7) (word (2 ^ 63 + 1)),
                                         results := s.attic.results ++ [2 ^ 63 + 1] } }

/-- Commands that can begin; while the attic holds, none does (25 R440). -/
def State.beginCommands (s : State) : State :=
  if s.attic.holding then s else (List.range 16).foldl State.beginCommand s

/-- What is looked at in every cc: links (11 R266, 25 R435), pre-emptions and releases (23 R407, R408), invalidations and the command registers (25 R429,
R430). -/
def State.tend (s : State) : State :=
  let s := if s.net.holding || s.net.links.any (·.2.retraining) then s.tendLinks else s
  let s := if s.attic.carried < s.attic.msgs.length then s.carryMessages else s
  let s := if s.net.links.any fun l => l.2.recal != 0 then s.tendHalves else s
  let s := if s.preempts.any fun p => !p.told then s.reportPreempts else s
  let s := if s.attic.releases.isEmpty then s else s.reportReleases
  let s := if s.attic.purges.isEmpty then s else s.endPurges
  if s.attic.cmds.isEmpty then s else s.beginCommands

/-- COUNTER_TICK (R413): one cc. Every copy of the counter adds INC; banks of the local stores are free again, and what lost one is tried again (05 R114, R115); an ebb instant that the
counter reaches comes before everything else of the new cc, packets that a full inbox refused are sent again after 256 cc (03 R78), the wing
dispatchers send their heartbeats at every microsecond (03 R60), what is looked at in every cc goes on, and a rotation that ends is counted in every hall (03 R67). -/
def execCounterTick (s : State) : Res :=
  let old := s.ebbNumber
  let c := s.clock
  let s := { s with clock := { c with acc := (c.acc + c.inc) % 2 ^ 96, cc := c.cc + 1 },
                    cores := s.cores.map fun e => (e.1, { e.2 with busy := 0 }) }
  let s : State := if s.ebbNumber = old then s else { s with agenda := .ebbInstant :: s.agenda }
  let s := s.postAll (s.resends.map .migrationResend)
  let s := if s.now / 1000 = c.acc / 0x1_0000_0000 / 1000 then s else s.heartbeats.tendUpdate
  let s := s.tend
  let s := State.postAll { s with later := [] } s.later
  .next (if s.clock.cc % 16 = 0 then s.postAll ((List.range 32).map .rotationBoundary) else s)

end Sys2Proof.Machine
end

