-- ==== Sys2Proof/Machine/Dispatch.lean ====
section
/-! DEFINITION. The meaning of every instruction: one arm per constructor. -/

namespace Sys2Proof.Machine

def exec (i : Instr) (s : State) : Host.Outcome State Fault Refusal :=
  match i with
  | .nopS => Sys2Proof.Machine.execNopS s
  | .add d a b => Sys2Proof.Machine.execAdd d a b s
  | .sub d a b => Sys2Proof.Machine.execSub d a b s
  | .mul d a b => Sys2Proof.Machine.execMul d a b s
  | .mulhI d a b => Sys2Proof.Machine.execMulhI d a b s
  | .mulhN d a b => Sys2Proof.Machine.execMulhN d a b s
  | .divI d a b => Sys2Proof.Machine.execDivI d a b s
  | .divN d a b => Sys2Proof.Machine.execDivN d a b s
  | .remI d a b => Sys2Proof.Machine.execRemI d a b s
  | .remN d a b => Sys2Proof.Machine.execRemN d a b s
  | .and d a b => Sys2Proof.Machine.execAnd d a b s
  | .or d a b => Sys2Proof.Machine.execOr d a b s
  | .xor d a b => Sys2Proof.Machine.execXor d a b s
  | .andn d a b => Sys2Proof.Machine.execAndn d a b s
  | .shl d a b => Sys2Proof.Machine.execShl d a b s
  | .shr d a b => Sys2Proof.Machine.execShr d a b s
  | .sar d a b => Sys2Proof.Machine.execSar d a b s
  | .rol d a b => Sys2Proof.Machine.execRol d a b s
  | .ror d a b => Sys2Proof.Machine.execRor d a b s
  | .minI d a b => Sys2Proof.Machine.execMinI d a b s
  | .maxI d a b => Sys2Proof.Machine.execMaxI d a b s
  | .minN d a b => Sys2Proof.Machine.execMinN d a b s
  | .maxN d a b => Sys2Proof.Machine.execMaxN d a b s
  | .clz d a => Sys2Proof.Machine.execClz d a s
  | .ctz d a => Sys2Proof.Machine.execCtz d a s
  | .popc d a => Sys2Proof.Machine.execPopc d a s
  | .brev d a => Sys2Proof.Machine.execBrev d a s
  | .bswap d a => Sys2Proof.Machine.execBswap d a s
  | .addImm d a im => Sys2Proof.Machine.execAddImm d a im s
  | .mulImm d a im => Sys2Proof.Machine.execMulImm d a im s
  | .andImm d a im => Sys2Proof.Machine.execAndImm d a im s
  | .orImm d a im => Sys2Proof.Machine.execOrImm d a im s
  | .xorImm d a im => Sys2Proof.Machine.execXorImm d a im s
  | .shlImm d a n => Sys2Proof.Machine.execShlImm d a n s
  | .shrImm d a n => Sys2Proof.Machine.execShrImm d a n s
  | .sarImm d a n => Sys2Proof.Machine.execSarImm d a n s
  | .rolImm d a n => Sys2Proof.Machine.execRolImm d a n s
  | .rsub d a im => Sys2Proof.Machine.execRsub d a im s
  | .minIImm d a im => Sys2Proof.Machine.execMinIImm d a im s
  | .maxIImm d a im => Sys2Proof.Machine.execMaxIImm d a im s
  | .minNImm d a im => Sys2Proof.Machine.execMinNImm d a im s
  | .maxNImm d a im => Sys2Proof.Machine.execMaxNImm d a im s
  | .li d im => Sys2Proof.Machine.execLi d im s
  | .lih d im => Sys2Proof.Machine.execLih d im s
  | .lix d im => Sys2Proof.Machine.execLix d im s
  | .lit d im => Sys2Proof.Machine.execLit d im s
  | .extN d a p w => Sys2Proof.Machine.execExtN d a p w s
  | .extI d a p w => Sys2Proof.Machine.execExtI d a p w s
  | .ins d a p w => Sys2Proof.Machine.execIns d a p w s
  | .dep d a p w => Sys2Proof.Machine.execDep d a p w s
  | .setCc d a b c => Sys2Proof.Machine.execSetCc d a b c s
  | .cmpSkn c k a b => Sys2Proof.Machine.execCmpSkn c k a b s
  | .cmpSknImm c k a im => Sys2Proof.Machine.execCmpSknImm c k a im s
  | .br o => Sys2Proof.Machine.execBr o s
  | .call o => Sys2Proof.Machine.execCall o s
  | .jr a => Sys2Proof.Machine.execJr a s
  | .callr a => Sys2Proof.Machine.execCallr a s
  | .ret => Sys2Proof.Machine.execRet s
  | .endTask a => Sys2Proof.Machine.execEndTask a s
  | .spawn d a b => Sys2Proof.Machine.execSpawn d a b s
  | .launch d a b => Sys2Proof.Machine.execLaunch d a b s
  | .greplay d a => Sys2Proof.Machine.execGreplay d a s
  | .ldI d a z r sc im => Sys2Proof.Machine.execLdI d a z r sc im s
  | .ldN d a z r sc im => Sys2Proof.Machine.execLdN d a z r sc im s
  | .st d a z r sc im => Sys2Proof.Machine.execSt d a z r sc im s
  | .ldxI d a z r sc x => Sys2Proof.Machine.execLdxI d a z r sc x s
  | .ldxN d a z r sc x => Sys2Proof.Machine.execLdxN d a z r sc x s
  | .stx d a z r sc x => Sys2Proof.Machine.execStx d a z r sc x s
  | .lkup d a b => Sys2Proof.Machine.execLkup d a b s
  | .tagset d a b => Sys2Proof.Machine.execTagset d a b s
  | .taginv a b => Sys2Proof.Machine.execTaginv a b s
  | .pfx a z im => Sys2Proof.Machine.execPfx a z im s
  | .segld d a => Sys2Proof.Machine.execSegld d a s
  | .segst d a => Sys2Proof.Machine.execSegst d a s
  | .segnar d a b r => Sys2Proof.Machine.execSegnar d a b r s
  | .amo d a b sc z o => Sys2Proof.Machine.execAmo d a b sc z o s
  | .amocas d a b sc z => Sys2Proof.Machine.execAmocas d a b sc z s
  | .red a b z o => Sys2Proof.Machine.execRed a b z o s
  | .fence sc => Sys2Proof.Machine.execFence sc s
  | .qfence a => Sys2Proof.Machine.execQfence a s
  | .qfenceOwn a sc => Sys2Proof.Machine.execQfenceOwn a sc s
  | .take d a sc im => Sys2Proof.Machine.execTake d a sc im s
  | .put d a sc im => Sys2Proof.Machine.execPut d a sc im s
  | .fereadD d a sc im => Sys2Proof.Machine.execFereadD d a sc im s
  | .fereadProbe d a sc im => Sys2Proof.Machine.execFereadProbe d a sc im s
  | .fesetEmpty a sc im => Sys2Proof.Machine.execFesetEmpty a sc im s
  | .fesetFull d a sc im => Sys2Proof.Machine.execFesetFull d a sc im s
  | .futnew d a sc => Sys2Proof.Machine.execFutnew d a sc s
  | .futset a b sc => Sys2Proof.Machine.execFutset a b sc s
  | .futget d a sc => Sys2Proof.Machine.execFutget d a sc s
  | .futdrop a sc => Sys2Proof.Machine.execFutdrop a sc s
  | .barinit a b sc => Sys2Proof.Machine.execBarinit a b sc s
  | .arrive d a b sc => Sys2Proof.Machine.execArrive d a b sc s
  | .waitb d a b sc => Sys2Proof.Machine.execWaitb d a b sc s
  | .waitl d a b sc => Sys2Proof.Machine.execWaitl d a b sc s
  | .cpy d a b e v q => Sys2Proof.Machine.execCpy d a b e v q s
  | .cpys d a b e v q => Sys2Proof.Machine.execCpys d a b e v q s
  | .cpym d a b v q => Sys2Proof.Machine.execCpym d a b v q s
  | .landset a b n => Sys2Proof.Machine.execLandset a b n s
  | .mdep a b => Sys2Proof.Machine.execMdep a b s
  | .mdepx a b => Sys2Proof.Machine.execMdepx a b s
  | .msense d a b => Sys2Proof.Machine.execMsense d a b s
  | .mread d a => Sys2Proof.Machine.execMread d a s
  | .mclr d a => Sys2Proof.Machine.execMclr d a s
  | .mwait d => Sys2Proof.Machine.execMwait d s
  | .mwaitUntil d a => Sys2Proof.Machine.execMwaitUntil d a s
  | .ebb d => Sys2Proof.Machine.execEbb d s
  | .ebbPeriod d => Sys2Proof.Machine.execEbbPeriod d s
  | .mfield a b => Sys2Proof.Machine.execMfield a b s
  | .mfieldRd d a => Sys2Proof.Machine.execMfieldRd d a s
  | .dhash d a b => Sys2Proof.Machine.execDhash d a b s
  | .dlook d a b sc => Sys2Proof.Machine.execDlook d a b sc s
  | .dput d a b sc => Sys2Proof.Machine.execDput d a b sc s
  | .drel a b sc => Sys2Proof.Machine.execDrel a b sc s
  | .dstat d a b sc => Sys2Proof.Machine.execDstat d a b sc s
  | .dtouch a b sc => Sys2Proof.Machine.execDtouch a b sc s
  | .fcfg a n => Sys2Proof.Machine.execFcfg a n s
  | .fput d a b sc n => Sys2Proof.Machine.execFput d a b sc n s
  | .fread d a sc n => Sys2Proof.Machine.execFread d a sc n s
  | .fmerge d a sc n => Sys2Proof.Machine.execFmerge d a sc n s
  | .fsave d a sc n => Sys2Proof.Machine.execFsave d a sc n s
  | .fload d a sc n => Sys2Proof.Machine.execFload d a sc n s
  | .fclr n => Sys2Proof.Machine.execFclr n s
  | .fstat d sc n => Sys2Proof.Machine.execFstat d sc n s
  | .movcRead d c => Sys2Proof.Machine.execMovcRead d c s
  | .movcWrite c b => Sys2Proof.Machine.execMovcWrite c b s
  | .movsLo d a => Sys2Proof.Machine.execMovsLo d a s
  | .movsHi d a => Sys2Proof.Machine.execMovsHi d a s
  | .movsSeg d a => Sys2Proof.Machine.execMovsSeg d a s
  | .claimv d a => Sys2Proof.Machine.execClaimv d a s
  | .claimt d a => Sys2Proof.Machine.execClaimt d a s
  | .relv => Sys2Proof.Machine.execRelv s
  | .relt a => Sys2Proof.Machine.execRelt a s
  | .slotstart a => Sys2Proof.Machine.execSlotstart a s
  | .slotreap a => Sys2Proof.Machine.execSlotreap a s
  | .slotreapSave a b => Sys2Proof.Machine.execSlotreapSave a b s
  | .slotown d a => Sys2Proof.Machine.execSlotown d a s
  | .trap a c => Sys2Proof.Machine.execTrap a c s
  | .brk c => Sys2Proof.Machine.execBrk c s
  | .trc a b k => Sys2Proof.Machine.execTrc a b k s
  | .rdctr d a => Sys2Proof.Machine.execRdctr d a s
  | .taskres a => Sys2Proof.Machine.execTaskres a s
  | .taskkill a => Sys2Proof.Machine.execTaskkill a s
  | .nopV => Sys2Proof.Machine.execNopV s
  | .vaddF m t d a b r => Sys2Proof.Machine.execVaddF m t d a b r s
  | .vsubF m t d a b r => Sys2Proof.Machine.execVsubF m t d a b r s
  | .vmulF m t d a b r => Sys2Proof.Machine.execVmulF m t d a b r s
  | .vfma m t d a b r => Sys2Proof.Machine.execVfma m t d a b r s
  | .vfms m t d a b r => Sys2Proof.Machine.execVfms m t d a b r s
  | .vminF m t d a b => Sys2Proof.Machine.execVminF m t d a b s
  | .vmaxF m t d a b => Sys2Proof.Machine.execVmaxF m t d a b s
  | .vabsF m t d a => Sys2Proof.Machine.execVabsF m t d a s
  | .vnegF m t d a => Sys2Proof.Machine.execVnegF m t d a s
  | .vaddI m t d a b sc => Sys2Proof.Machine.execVaddI m t d a b sc s
  | .vsubI m t d a b sc => Sys2Proof.Machine.execVsubI m t d a b sc s
  | .vmulI m t d a b => Sys2Proof.Machine.execVmulI m t d a b s
  | .vmulh m t d a b => Sys2Proof.Machine.execVmulh m t d a b s
  | .vminI m t d a b => Sys2Proof.Machine.execVminI m t d a b s
  | .vmaxI m t d a b => Sys2Proof.Machine.execVmaxI m t d a b s
  | .vabsI m t d a sc => Sys2Proof.Machine.execVabsI m t d a sc s
  | .vnegI m t d a sc => Sys2Proof.Machine.execVnegI m t d a sc s
  | .vand m t d a b => Sys2Proof.Machine.execVand m t d a b s
  | .vor m t d a b => Sys2Proof.Machine.execVor m t d a b s
  | .vxor m t d a b => Sys2Proof.Machine.execVxor m t d a b s
  | .vshl m t d a b sc => Sys2Proof.Machine.execVshl m t d a b sc s
  | .vshr m t d a b => Sys2Proof.Machine.execVshr m t d a b s
  | .vcmp m t a b c => Sys2Proof.Machine.execVcmp m t a b c s
  | .vsel d a b => Sys2Proof.Machine.execVsel d a b s
  | .vcvt m t d a h sc x r => Sys2Proof.Machine.execVcvt m t d a h sc x r s
  | .vqmx t d a b => Sys2Proof.Machine.execVqmx t d a b s
  | .vdqmx t d a b => Sys2Proof.Machine.execVdqmx t d a b s
  | .vrcp m t d a r => Sys2Proof.Machine.execVrcp m t d a r s
  | .vrsq m t d a r => Sys2Proof.Machine.execVrsq m t d a r s
  | .vexp2 m t d a r => Sys2Proof.Machine.execVexp2 m t d a r s
  | .vlog2 m t d a r => Sys2Proof.Machine.execVlog2 m t d a r s
  | .vsin m t d a r => Sys2Proof.Machine.execVsin m t d a r s
  | .vcos m t d a r => Sys2Proof.Machine.execVcos m t d a r s
  | .vtanh m t d a r => Sys2Proof.Machine.execVtanh m t d a r s
  | .vclz m t d a => Sys2Proof.Machine.execVclz m t d a s
  | .vctz m t d a => Sys2Proof.Machine.execVctz m t d a s
  | .vpopc m t d a => Sys2Proof.Machine.execVpopc m t d a s
  | .vshuf m d a b => Sys2Proof.Machine.execVshuf m d a b s
  | .vsplat m t v a => Sys2Proof.Machine.execVsplat m t v a s
  | .vsplatSeq m t v a b => Sys2Proof.Machine.execVsplatSeq m t v a b s
  | .vvote m v a o => Sys2Proof.Machine.execVvote m v a o s
  | .vmatch m d a o => Sys2Proof.Machine.execVmatch m d a o s
  | .vred m t v a o => Sys2Proof.Machine.execVred m t v a o s
  | .vscan m t d a e o => Sys2Proof.Machine.execVscan m t d a e o s
  | .vins t v a b => Sys2Proof.Machine.execVins t v a b s
  | .vext t v a b => Sys2Proof.Machine.execVext t v a b s
  | .vld m v a sc r => Sys2Proof.Machine.execVld m v a sc r s
  | .vst m v a sc r => Sys2Proof.Machine.execVst m v a sc r s
  | .vlds m v a b sc r => Sys2Proof.Machine.execVlds m v a b sc r s
  | .vsts m v a b sc r => Sys2Proof.Machine.execVsts m v a b sc r s
  | .vgath m t v a im sc r => Sys2Proof.Machine.execVgath m t v a im sc r s
  | .vscat m t v a im sc r => Sys2Proof.Machine.execVscat m t v a im sc r s
  | .tld a g h => Sys2Proof.Machine.execTld a g h s
  | .tldx a g h => Sys2Proof.Machine.execTldx a g h s
  | .tst a g h => Sys2Proof.Machine.execTst a g h s
  | .tlw b c => Sys2Proof.Machine.execTlw b c s
  | .tscl a g => Sys2Proof.Machine.execTscl a g s
  | .tsclSt a g => Sys2Proof.Machine.execTsclSt a g s
  | .tmma a c => Sys2Proof.Machine.execTmma a c s
  | .tmmaW a b c n => Sys2Proof.Machine.execTmmaW a b c n s
  | .tzero c => Sys2Proof.Machine.execTzero c s
  | .tzeroT a => Sys2Proof.Machine.execTzeroT a s
  | .tdrain c g h sc t => Sys2Proof.Machine.execTdrain c g h sc t s
  | .tdrainByp a c sc z => Sys2Proof.Machine.execTdrainByp a c sc z s
  | .issueCycle core => Sys2Proof.Machine.execIssueCycle core s
  | .rnTileGiveUp ctx => Sys2Proof.Machine.execRnTileGiveUp ctx s
  | .headerWalk ctx => Sys2Proof.Machine.execHeaderWalk ctx s
  | .replyArrival ctx => Sys2Proof.Machine.execReplyArrival ctx s
  | .relaxedLoadData ctx id => Sys2Proof.Machine.execRelaxedLoadData ctx id s
  | .relaxedAcknowledgement ctx id => Sys2Proof.Machine.execRelaxedAcknowledgement ctx id s
  | .relaxedFaultReply ctx id kind reason => Sys2Proof.Machine.execRelaxedFaultReply ctx id kind reason s
  | .reductionFaultReply ctx id reason => Sys2Proof.Machine.execReductionFaultReply ctx id reason s
  | .remoteUpdate ctx id => Sys2Proof.Machine.execRemoteUpdate ctx id s
  | .stationWake ctx value => Sys2Proof.Machine.execStationWake ctx value s
  | .claimGrant room => Sys2Proof.Machine.execClaimGrant room s
  | .pageWalk port addr => Sys2Proof.Machine.execPageWalk port addr s
  | .wakeReissue ctx => Sys2Proof.Machine.execWakeReissue ctx s
  | .wakeRefuse ctx code => Sys2Proof.Machine.execWakeRefuse ctx code s
  | .lendEvent ctx => Sys2Proof.Machine.execLendEvent ctx s
  | .migrationArrival flight => Sys2Proof.Machine.execMigrationArrival flight s
  | .migrationResend flight => Sys2Proof.Machine.execMigrationResend flight s
  | .slotEvent hall => Sys2Proof.Machine.execSlotEvent hall s
  | .rotationBoundary hall => Sys2Proof.Machine.execRotationBoundary hall s
  | .hostLaunchCas hall word compare swap => Sys2Proof.Machine.execHostLaunchCas hall word compare swap s
  | .hostWindowMisuse => Sys2Proof.Machine.execHostWindowMisuse s
  | .hostWindowOther read => Sys2Proof.Machine.execHostWindowOther read s
  | .misuseClear => Sys2Proof.Machine.execMisuseClear s
  | .mboxGo => Sys2Proof.Machine.execMboxGo s
  | .apertureRequest write offset size data => Sys2Proof.Machine.execApertureRequest write offset size data s
  | .hostRegisterWrite offset value => Sys2Proof.Machine.execHostRegisterWrite offset value s
  | .launchIntake hall word => Sys2Proof.Machine.execLaunchIntake hall word s
  | .intakeReadRetry hall word => Sys2Proof.Machine.execIntakeReadRetry hall word s
  | .leaderDeltaLookup lnum => Sys2Proof.Machine.execLeaderDeltaLookup lnum s
  | .chunkRequest lnum wing => Sys2Proof.Machine.execChunkRequest lnum wing s
  | .grantNotice lnum wing spawn => Sys2Proof.Machine.execGrantNotice lnum wing spawn s
  | .grantAcknowledgement lnum first wing => Sys2Proof.Machine.execGrantAcknowledgement lnum first wing s
  | .grantCommit lnum first => Sys2Proof.Machine.execGrantCommit lnum first s
  | .chunkHandout lnum first => Sys2Proof.Machine.execChunkHandout lnum first s
  | .chunkCompletionReport lnum first => Sys2Proof.Machine.execChunkCompletionReport lnum first s
  | .heartbeat wing => Sys2Proof.Machine.execHeartbeat wing s
  | .wingLost wing silent => Sys2Proof.Machine.execWingLost wing silent s
  | .lossDeclaration wing lost => Sys2Proof.Machine.execLossDeclaration wing lost s
  | .leaderElection lnum => Sys2Proof.Machine.execLeaderElection lnum s
  | .launchCompletion lnum => Sys2Proof.Machine.execLaunchCompletion lnum s
  | .graphNodeComplete replay node status => Sys2Proof.Machine.execGraphNodeComplete replay node status s
  | .patchApply graph => Sys2Proof.Machine.execPatchApply graph s
  | .copyChunk room queue => Sys2Proof.Machine.execCopyChunk room queue s
  | .tileStep room => Sys2Proof.Machine.execTileStep room s
  | .sluiceSwitch hall stage switch => Sys2Proof.Machine.execSluiceSwitch hall stage switch s
  | .combinedReplySplit hall packet value => Sys2Proof.Machine.execCombinedReplySplit hall packet value s
  | .meshHop hall packet => Sys2Proof.Machine.execMeshHop hall packet s
  | .starvationToken hall output => Sys2Proof.Machine.execStarvationToken hall output s
  | .linkRetrain link => Sys2Proof.Machine.execLinkRetrain link s
  | .linkRetrainTimeout link => Sys2Proof.Machine.execLinkRetrainTimeout link s
  | .esliaFlitError link packet => Sys2Proof.Machine.execEsliaFlitError link packet s
  | .reroute => Sys2Proof.Machine.execReroute s
  | .requestTimeout ctx => Sys2Proof.Machine.execRequestTimeout ctx s
  | .counterTick => Sys2Proof.Machine.execCounterTick s
  | .ebbInstant => Sys2Proof.Machine.execEbbInstant s
  | .markSweepWord hall word => Sys2Proof.Machine.execMarkSweepWord hall word s
  | .incChange inc holdover => Sys2Proof.Machine.execIncChange inc holdover s
  | .syncMessage port sequence times => Sys2Proof.Machine.execSyncMessage port sequence times s
  | .timeSourceLoss => Sys2Proof.Machine.execTimeSourceLoss s
  | .deltaWithdrawal ctx => Sys2Proof.Machine.execDeltaWithdrawal ctx s
  | .keeperStep tree => Sys2Proof.Machine.execKeeperStep tree s
  | .frontStorageError room front => Sys2Proof.Machine.execFrontStorageError room front s
  | .faultHandover ctx => Sys2Proof.Machine.execFaultHandover ctx s
  | .localStoreUncorrectable core offset => Sys2Proof.Machine.execLocalStoreUncorrectable core offset s
  | .gangStop ctx => Sys2Proof.Machine.execGangStop ctx s
  | .imageWrite ctx => Sys2Proof.Machine.execImageWrite ctx s
  | .claimReestablish ctx => Sys2Proof.Machine.execClaimReestablish ctx s
  | .debugResume ctx => Sys2Proof.Machine.execDebugResume ctx s
  | .stopTableWrite index who hdr ctl => Sys2Proof.Machine.execStopTableWrite index who hdr ctl s
  | .traceAppend hall stamp gtid head payload => Sys2Proof.Machine.execTraceAppend hall stamp gtid head payload s
  | .invalidateTranslations addr size => Sys2Proof.Machine.execInvalidateTranslations addr size s
  | .preempt kind halls which service => Sys2Proof.Machine.execPreempt kind halls which service s
  | .release kind halls which => Sys2Proof.Machine.execRelease kind halls which s
  | .moveImages source target => Sys2Proof.Machine.execMoveImages source target s
  | .hallService hall back => Sys2Proof.Machine.execHallService hall back s
  | .coreInService hall core => Sys2Proof.Machine.execCoreInService hall core s
  | .retireStack stack => Sys2Proof.Machine.execRetireStack stack s
  | .recalibrateLink link => Sys2Proof.Machine.execRecalibrateLink link s
  | .halfRetrainTimeout link half => Sys2Proof.Machine.execHalfRetrainTimeout link half s
  | .setTraceRing hall base size => Sys2Proof.Machine.execSetTraceRing hall base size s
  | .isolatePeer peer => Sys2Proof.Machine.execIsolatePeer peer s
  | .startHearths halls core cell => Sys2Proof.Machine.execStartHearths halls core cell s
  | .setStatePool hall base count => Sys2Proof.Machine.execSetStatePool hall base count s
  | .advanceTraceRing hall offset => Sys2Proof.Machine.execAdvanceTraceRing hall offset s
  | .peerDiscovery peer hops => Sys2Proof.Machine.execPeerDiscovery peer hops s
  | .reset => Sys2Proof.Machine.execReset s
  | .boot image version => Sys2Proof.Machine.execBoot image version s
  | .runtimeUpdate image version => Sys2Proof.Machine.execRuntimeUpdate image version s
  | .updateConfirmTimeout => Sys2Proof.Machine.execUpdateConfirmTimeout s
  | .attestationRequest nonce => Sys2Proof.Machine.execAttestationRequest nonce s
  | .securityAlarm source => Sys2Proof.Machine.execSecurityAlarm source s
  | .crashDump writer => Sys2Proof.Machine.execCrashDump writer s
  | .frozenContext ctx => Sys2Proof.Machine.execFrozenContext ctx s
  | .dumpHeartbeat progress => Sys2Proof.Machine.execDumpHeartbeat progress s
  | .watchdogTakeover report => Sys2Proof.Machine.execWatchdogTakeover report s
  | .setEbbExponent exponent => Sys2Proof.Machine.execSetEbbExponent exponent s
  | .setHouseCounter value => Sys2Proof.Machine.execSetHouseCounter value s
  | .setTranslationRoot stack addr => Sys2Proof.Machine.execSetTranslationRoot stack addr s
  | .scopeTableWrite => Sys2Proof.Machine.execScopeTableWrite s
  | .occupancyRegionWrite => Sys2Proof.Machine.execOccupancyRegionWrite s
  | .clearCoreCounters core => Sys2Proof.Machine.execClearCoreCounters core s

end Sys2Proof.Machine
end

