-- ==== Sys2Proof/Machine/Run.lean ====
section
/-! DEFINITION. Execution of a bundle (04 R88, R89; log 8): both syllables read what stands before it, and it takes effect whole or not at
all. -/

namespace Sys2Proof.Machine

/-- The state in which a bundle's syllables execute: its context is the executing one, seen as the bundle finds it, with the PC at the next
bundle. -/
def State.begin (s : State) (ctx : Nat) : State :=
  let c := s.ctx ctx
  let t := advance c 0
  let s := { s with cur := ctx, view := some { c with status := .ready }, latch := none, dest := none }
  s.setMe fun c => { c with status := .ready, pc := t.1, place := t.2, raised := 0, given := none }

/-- What a syllable leaves when it alone is executed. -/
abbrev Half := Host.Outcome State Fault Refusal

/-- The two syllables together (log 101). The V syllable follows the S syllable where that does not stop; where one stops, only its own wait or fault
stands. A stop of the V syllable comes before a wait of the S syllable, so that nothing is parked or taken for a bundle that faults. -/
def pair (ctx : Nat) (start : Ctx) (i j : Instr) (s : State) : Half :=
  match exec i s with
  | .next a =>
    match a.stopOf ctx start with
    | .faults => .next a
    | .waits =>
      match exec j s with
      | .next b => if b.stopOf ctx start = .none then .next a else .next b
      | r => r
    | .none =>
      match exec j a with
      | .next b =>
        if b.stopOf ctx start = .none then .next b
        else
          match exec j s with
          | .next v =>
            if v.stopOf ctx start ≠ .none then .next v
            else
              match exec i v with
              | .next w =>
                if w.stopOf ctx start = .none ∨ start.relaxed = [] then .next w
                else .next (s.hold .register)
              | r => r
          | r => r
      | r => r
  | r => r

/-- What is kept of a bundle whose fetch-and-add or MFIELD is on its way, for the case that it takes no effect after all (04 R89): `old` is the state that it found. -/
def State.undoOf (s : State) (ctx : Nat) (old : State) : Undo := { ctx := old.ctx ctx, ids := old.nextId, at' := (s.dest.map (·.1)).getD 0 }

/-- Whether a bundle that has been tried travels: its request goes out as a packet, and the bundle executes as the reply comes (log 4). Not one whose fetch-and-add travels by
itself, or that has travelled. -/
def State.travels' (s : State) (ctx : Nat) (start : Ctx) : Bool :=
  let c := s.ctx ctx
  start.flying.isNone && c.amo.isNone && (s.dest.any fun d => (s.goesTo (coreOf ctx) d.1).isSome) &&
    (match c.status with
     | .waiting (.parked _) => true
     | _ => s.stopOf ctx start == .none)

/-- The register that an S syllable sets to what it reads at issue (17 R352; 06 R163, R146). -/
def readsAtIssue : Instr → Option (BitVec 5)
  | .ebb d => some d
  | .ebbPeriod d => some d
  | .rdctr d _ => some d
  | .movcRead d _ => some d
  -- no other syllable reads what changes with time without an access
  | _ => none

/-- The bundle of a context has issued, where it issues in this cycle and was not held back before (05 R108; 24 R420). -/
def State.issued (s : State) (ctx : Nat) (old : State) : State :=
  if old.issuing then
    let cc := s.clock.cc
    ((s.setCtx ctx fun c => { c with lastIssue := some cc, entered := false }).countIssue ctx).traceEntry ctx (old.ctx ctx)
  else s

/-- The forfeit bit of a context clears as a bundle that has lost a bank after a wait goes on (05 R115). -/
def State.won (s : State) (ctx : Nat) : State :=
  let core := coreOf ctx
  let slot := slotOf ctx
  if bitOf (s.core core).forfeit slot then s.setCore core fun k => { k with forfeit := k.forfeit - 2 ^ slot } else s

/-- Whether a bundle is an END, which leaves a porch context vacant (log 20). -/
def Ctx.ends (c : Ctx) : Bool :=
  match decodeBundle c.bits with
  | .ok (.endTask _, _) => true
  | _ => false

/-- A bundle that has not issued leaves the cycle to its core's other contexts (05 R108, R110, R122; 03 R76). -/
def State.passOn (s : State) (ctx : Nat) (old : State) : State := if old.issuing then { s with looked := s.looked.erase (coreOf ctx) } else s

/-- A bundle travels: the house is as it was but for what its port has translated, its context is out of the rotation, and its request is on the way (05 R111; log 4). `t` is
what its trial has left. -/
def State.fly (s : State) (ctx : Nat) (i : Instr) (t : State) : State :=
  let u : State := { s with cur := ctx, tlbs := t.tlbs, view := none, latch := none, issuing := false }
  let early := (readsAtIssue i).map fun d => (d.toNat, (t.ctx ctx).rg d.toNat)
  match t.dest with
  | none => u
  | some (h, bytes, back) =>
    let u := (u.setCtx ctx fun c => { c with status := .waiting .reply, parkedAt := s.clock.cc, flying := some h, early := early }).noteWait ctx .reply
    let u := u.request ctx h bytes (some back) [.replyArrival ctx]
    (u.issued ctx s).won ctx

/-- A bundle that has travelled has executed as its reply came: what it read at issue is in its register, and what waited for its boundary takes hold where it goes on waiting. -/
def State.arrived (s : State) (ctx : Nat) (start : Ctx) : State :=
  let s := match start.early with
    | some (d, v) => if s.stopOf ctx start = Stop.none then s.setCtx ctx fun c => c.wr d v else s
    | none => s
  let c := s.ctx ctx
  match c.status with
  | .waiting .reply => s.setCtx ctx fun c => { c with status := .ready, flying := none, early := none }
  | .waiting .fence => s
  | .waiting .retry => s
  | _ => s.setCtx ctx fun c => { c with flying := none, early := none }

/-- A context that waits again after its bundle has travelled: a fault reply or a halt that came meanwhile does not wait for it (10 R236; 23 R406). -/
def State.heed (s : State) (ctx : Nat) : State :=
  let c := s.ctx ctx
  match c.status with
  | .waiting _ =>
    match c.lateFault with
    | some f => (s.setCtx ctx fun c => { c with lateFault := none, haltReq := 0, flying := none, early := none }).stopWith ctx f
    | none => if c.haltReq = 0 then s else (s.setCtx ctx fun c => { c with haltReq := 0, flying := none, early := none }).halt ctx c.haltReq
  | _ => s

/-- What follows the syllables: a held-back bundle is tried again, a complete one has its effects on its core and its flags. A value given
to a parked instruction stays given while the bundle waits. A bundle that faults as it executes has issued, and one that a check at its fetch or
decoding stops has not (log 85). -/
def State.finish (s : State) (ctx : Nat) (old : State) : State :=
  let start := old.ctx ctx
  let s := if start.flying.isSome then s.arrived ctx start else s
  let c := s.ctx ctx
  let cc := s.clock.cc
  let s := { s with view := none, latch := none, issuing := false }
  match c.status with
  | .waiting .retry =>
    if start.given.isSome || start.flying.isSome then (s.setCtx ctx fun c => { c with status := .waiting .fence, given := start.given }).defer (.stationWake ctx 0)
    else s.setCtx ctx fun c => { c with status := .ready, lastIssue := some cc }
  | .waiting .register => (s.setCtx ctx fun c => { c with given := start.given }).passOn ctx old
  | .waiting .migrate => (s.setCtx ctx fun c => { c with given := start.given }).passOn ctx old
  | .vacant => if start.ends && old.issuing then (s.countIssue ctx).traceEntry ctx start else s.passOn ctx old
  | .waiting .reply =>
    (State.issued (if c.amo.isSome then { s with before := tset s.before ctx (s.undoOf ctx old) } else s) ctx old).won ctx
  | .waiting .mfield => (State.issued { s with before := tset s.before ctx (s.undoOf ctx old) } ctx old).won ctx
  | .waiting _ => (s.issued ctx old).setCtx ctx fun c => { c with given := start.given }
  | _ => ((s.issued ctx old).won ctx).bundleDone ctx

/-- Executes the bundle that a context has latched; one that loses the bank of a word is executed in the next cycle (05 R115). -/
def State.runBundle (s : State) (ctx : Nat) : Half :=
  let start := s.ctx ctx
  match decodeBundle start.bits with
  | .error _ => .next { s with latch := none, issuing := false }
  | .ok (i, j) =>
    let b := s.begin ctx
    match pair ctx start i j b with
    | .next t =>
      if t.travels' ctx start then .next (s.fly ctx i t)
      else
        let t := if b.losesPort i j then b.forgo i j else t
        let t := t.finish ctx s
        .next (if start.flying.isSome then t.heed ctx else t)
    | r => r

end Sys2Proof.Machine
end

