-- ==== Sys2Proof/Machine/Step.lean ====
section
/-! DEFINITION. One step of the house (log 3): the oldest event of the agenda, else the issue cycle of the next core that has not looked in this cc,
else the tick that begins the next cc. A bundle that an event has latched is executed in the same step. -/

namespace Sys2Proof.Machine

/-- Cores that hold a context in the rotation, in increasing number. -/
def State.activeCores (s : State) : List Nat :=
  ((s.ctxs.filter fun e => e.2.status == .ready).map fun e => coreOf e.1).eraseDups

/-- The next core to look for a bundle in this cc: the lowest that holds a context in the rotation and has not looked yet. A context that an event of
this cc brings back counts (05 R111). -/
def State.nextCore (s : State) : Option Nat := s.activeCores.find? fun c => !s.looked.contains c

/-- What follows an event: the bundle that it has latched is executed. -/
def State.settle (s : State) : Host.Outcome State Fault Refusal :=
  match s.latch with
  | some ctx => s.runBundle ctx
  | none => .next s

/-- An event, and the bundle that it latches. -/
def perform (e : Instr) (s : State) : Host.Outcome State Fault Refusal :=
  match exec e s with
  | .next t => t.settle
  | .fault f => .fault f
  | .refused r => .refused r

/-- One step. -/
def step (s : State) : Host.Outcome State Fault Refusal :=
  match s.agenda with
  | e :: rest => perform e { s with agenda := rest }
  | [] =>
    match s.nextCore with
    | some c => perform (.issueCycle c) { s with looked := c :: s.looked }
    | none => perform .counterTick { s with looked := [] }

/-- Bundles that must follow an instruction in its block: those that a skip annuls (04 R91). -/
def followers : Instr → Nat
  | .cmpSkn _ k _ _ => k.toNat
  | .cmpSknImm _ k _ _ => k.toNat
  | _ => 0

/-- The bundle that holds a table word: in the S slot when it is an S syllable, else in the V slot (log 6). -/
def tableBundle (x : Lane) : Word :=
  match decodeS x, decodeV x with
  | .error _, .ok _ => x.setWidth 64 <<< 32
  | _, _ => x.setWidth 64

/-- A block header of LEN `n` with its check byte (04 R81). -/
def headerOf (n : Nat) : Word := setFld (word n) 63 56 (hdrChk (word n))

/-- The state with a table word's bundle as the next that issues (log 7): context 0 of core 0 stands at it, in a block that s0 reaches at the start
of the core's store. -/
def State.withFetchWord (s : State) (nbits w : Nat) : State :=
  let x : Lane := BitVec.ofNat 32 (w % 2 ^ nbits)
  let n := match decodeTableWord nbits w with
    | some i => 1 + followers i
    | none => 1
  let hdr := headerOf n
  let seg : Seg := BitVec.ofNat 128 (localAddr 0 0 + 0x4_0000 * 2 ^ 64 + 0xFF * 2 ^ 108)
  let s := s.store (localAddr 0 0) 8 hdr.toNat
  let s := s.store (localAddr 0 8) 8 (tableBundle x).toNat
  let s := s.setCtx 0 fun c =>
    { c with status := .ready, pc := 8, place := .block 0 hdr, segs := tput 0 c.segs 0 seg, lastIssue := none, given := none,
             flying := none, early := none, relaxed := [], haltReq := 0, stopSkip := true }
  let s := s.setCore 0 fun k => { k with ptr := 0, badWords := [] }
  { s with agenda := [], looked := [], latch := none, issuing := false, view := none }

end Sys2Proof.Machine
end

