-- ==== Sys2Proof/Safety.lean ====
section
/-! DEFINITION. What a safe run is, and the words in which the statements say what an instruction does and what it leaves unchanged. -/

namespace Sys2Proof.Machine

/-- Memory stands in its canonical form: equal memories are equal lists. -/
def State.MemOk (s : State) : Prop := Memory.wf s.mem = true

/-- The house goes on: its next step answers a next state. -/
def State.GoesOn (s : State) : Prop := ∃ t, step s = .next t

/-- A run of `n` steps that ends in a state, through states that all go on. -/
inductive Runs : Nat → State → State → Prop
  | refl (s : State) : Runs 0 s s
  | tail {n : Nat} {s t u : State} : step s = .next t → Runs n t u → Runs (n + 1) s u

/-- A safe run: no step of it ends in a fault or a refusal. -/
def State.Safe (s : State) : Prop := ∀ n : Nat, ∃ t, Runs n s t

/-! Frames. `t = { s with … }` says that every part of the house but those named is as before: memory, full/empty bits, the other rooms
and halls, the launches, the fabric, the attic. -/

/-- Nothing of the house but its contexts differs, and of these only the executing one. -/
def OnlyMe (s t : State) : Prop := t = { s with ctxs := t.ctxs } ∧ ∀ c, c ≠ s.cur → t.ctx c = s.ctx c

/-- Register `d` of the executing context holds `v` (g0 stays zero, 02 R27), its other general registers what they held, and nothing else of it
differs but the model's record of the registers written since block entry (03 R77). -/
def SetsReg (s t : State) (d : Nat) (v : Word) : Prop :=
  t.me = { s.me with g := t.me.g, written := t.me.written } ∧ t.me.rg d = (if d = 0 then 0 else v) ∧
    ∀ r, r ≠ d → t.me.rg r = s.me.rg r

/-- In every state an instruction answers a next state in which register `d` alone has changed, to a value of which `P` holds. -/
def Gives (i : Instr) (d : BitVec 5) (P : State → Word → Prop) : Prop :=
  ∀ s, ∃ t v, exec i s = .next t ∧ OnlyMe s t ∧ SetsReg s t d.toNat v ∧ P s v

/-! Results of 06, bit by bit. -/

/-- `a` moved up by `n` places, zeros below (R130). -/
def IsShl (a : Word) (n : Nat) (v : Word) : Prop := ∀ k, k < 64 → v.getLsbD k = (decide (n ≤ k) && a.getLsbD (k - n))

/-- `a` moved down by `n` places, zeros above (R130). -/
def IsShr (a : Word) (n : Nat) (v : Word) : Prop := ∀ k, k < 64 → v.getLsbD k = a.getLsbD (k + n)

/-- `a` moved down by `n` places, copies of its top bit above (R130). -/
def IsSar (a : Word) (n : Nat) (v : Word) : Prop := ∀ k, k < 64 → v.getLsbD k = if k + n < 64 then a.getLsbD (k + n) else a.getLsbD 63

/-- `a` turned up by `n` places (R130). -/
def IsRol (a : Word) (n : Nat) (v : Word) : Prop := ∀ k, k < 64 → v.getLsbD k = a.getLsbD ((k + 64 - n) % 64)

/-- The lesser of two by an order (R127). -/
def IsMin {α : Type} [LE α] (f : Word → α) (a b v : Word) : Prop := (v = a ∨ v = b) ∧ f v ≤ f a ∧ f v ≤ f b

/-- The greater of two by an order (R127). -/
def IsMax {α : Type} [LE α] (f : Word → α) (a b v : Word) : Prop := (v = a ∨ v = b) ∧ f a ≤ f v ∧ f b ≤ f v

/-- Bits `[hi:lo]` of `v` are the low bits of `x`, its others those of `w`. -/
def Inserts (w : Word) (hi lo : Nat) (x v : Word) : Prop :=
  ∀ k, k < 64 → v.getLsbD k = if lo ≤ k ∧ k ≤ hi then x.getLsbD (k - lo) else w.getLsbD k

/-- The conditions of 04 R95, by COND. -/
def Holds (c : Nat) (a b p : Word) : Prop :=
  match c with
  | 0 => a = b
  | 1 => a ≠ b
  | 2 => a.toInt < b.toInt
  | 3 => a.toInt ≥ b.toInt
  | 4 => a.toInt > b.toInt
  | 5 => a.toInt ≤ b.toInt
  | 6 => a.toNat < b.toNat
  | 7 => a.toNat ≥ b.toNat
  | 8 => a.toNat > b.toNat
  | 9 => a.toNat ≤ b.toNat
  | 10 => a &&& b ≠ 0
  | 11 => a &&& b = 0
  | 12 => p.getLsbD (b.toNat % 64) = true
  | 13 => p.getLsbD (b.toNat % 64) = false
  | _ => False

/-! Waits, replies and memory. -/

/-- No relaxed access or front operation of the executing context is outstanding and its reduction log is empty: a fence point goes on at once (13
R299, 14 R318). -/
def State.Quiet (s : State) : Prop := s.me.relaxed = [] ∧ s.me.frontQ = [] ∧ s.src.rlog = []

/-- Something of the executing context that a fence of scope `n` waits for is outstanding (13 R299, R310). -/
def State.Near (s : State) (n : Nat) : Prop := s.me.relaxed.any (s.within s.cur n) = true ∨ n ≠ 0 ∧ s.me.frontQ ≠ []

/-- The fence point of a SCOPE field goes on at once: scope 0, or nothing outstanding within the scope and an empty log (13 R299, R300). -/
def State.PassesScope (s : State) (n : BitVec 4) : Prop := n = 0 ∨ ¬ s.Near n.toNat ∧ s.src.rlog = []

/-- An event is on its way: it stands on the agenda, or a packet of the network brings it about (11 R255). -/
def State.Comes (s : State) (e : Instr) : Prop := e ∈ s.agenda ∨ ∃ p, p ∈ s.net.packets ∧ e ∈ p.cargo

/-- The executing context has left the rotation until the reply of its access arrives (05 R111): the step has sent for it, unless the other syllable of
the bundle has, or the bundle's request has travelled already. -/
def AwaitsReply (s t : State) : Prop := t.me.status = .waiting .reply ∧ (s.me.status = .waiting .reply ∨ s.src.flying.isSome = true ∨ t.Comes (.replyArrival s.cur))

/-- A returning instruction's next state where nothing is stored: register `d` is `v`, the context awaits the reply, and besides the port's TLB,
its core's records of waits and banks, the packets in the network and the agenda nothing else differs. -/
def Replied (s t : State) (d : Nat) (v : Word) : Prop :=
  t = { s with tlbs := t.tlbs, ctxs := t.ctxs, cores := t.cores, agenda := t.agenda, net := t.net, nextId := t.nextId, dest := t.dest } ∧
    (∀ c, c ≠ s.cur → t.ctx c = s.ctx c) ∧
    t.me = { s.me with g := t.me.g, written := t.me.written, status := .waiting .reply, parkedAt := t.me.parkedAt } ∧
    t.me.rg d = (if d = 0 then 0 else v) ∧ (∀ r, r ≠ d → t.me.rg r = s.me.rg r) ∧ AwaitsReply s t

/-- The general registers of every context are as before. -/
def SameRegs (s t : State) : Prop := ∀ c r, (t.ctx c).rg r = (s.ctx c).rg r

/-- Every byte of memory outside the `n` bytes at key `k` reads as before, and those hold the low `n` bytes of `v`. -/
def Stored (s t : State) (k n v : Nat) : Prop :=
  memLoad t.mem k n = v % 2 ^ (8 * n) ∧ ∀ a, a < k ∨ k + n ≤ a → memGet t.mem a = memGet s.mem a

/-- What a store changes: memory, the TLB of the port that translated it, the banks granted, the packets in the network, and, where it wakes waiters of
its word (09 R232, 14 R327), the lists they stood on, what they were given and the agenda; a store into a Delta's slots spoils its node (19 R363). -/
def StoreFrame (s t : State) : Prop :=
  t = { s with mem := t.mem, tlbs := t.tlbs, ctxs := t.ctxs, cores := t.cores, parked := t.parked, agenda := t.agenda, net := t.net, nextId := t.nextId,
               dest := t.dest, trees := t.trees } ∧ SameRegs s t

/-- The executing context stops on a fault of its bundle (23 R400): the PC names the bundle, and the record says what 23 R399 gives for it. -/
def Stops (s t : State) (kind : Nat) (addr info0 info1 : Word) (reason : Nat := 0) : Prop :=
  t = { s with ctxs := t.ctxs, agenda := t.agenda } ∧ (∀ c, c ≠ s.cur → t.ctx c = s.ctx c) ∧
    t.me = { s.me with status := t.me.status, pc := s.src.pc, place := s.src.place, lostAt := s.clock.cc } ∧ .faultHandover s.cur ∈ t.agenda ∧
    ∃ f : FaultRec, t.me.status = .faulted f ∧ f.kind = kind ∧ f.reason = reason ∧ f.pc = s.src.pc ∧ f.addr = addr ∧ f.info0 = info0 ∧
      f.info1 = info1

/-- A fault of the executing task is handed over and not reported to the attic: its launch is not 0, and no fault reply came before (23 R400). -/
def State.HandsOver (s : State) : Prop := s.me.lnum ≠ 0 ∧ s.me.lateFault = none

/-- The same for a task of launch 0, whose faults go to the attic (23 R400): the context halts and its image is to be written, or, once the crash kernel has
requested its pre-emption, it is to be frozen (24 R427). -/
def StopsForAttic (s t : State) (kind : Nat) (addr info0 info1 : Word) (reason : Nat := 0) : Prop :=
  ∃ f : FaultRec, f.kind = kind ∧ f.reason = reason ∧ f.pc = s.src.pc ∧ f.addr = addr ∧ f.info0 = info0 ∧ f.info1 = info1 ∧
    t = { s with ctxs := t.ctxs, agenda := t.agenda, attic := { s.attic with msgs := s.attic.msgs ++ [.fault s.me.gid s.cur f] } } ∧
    (∀ c, c ≠ s.cur → t.ctx c = s.ctx c) ∧
    (s.attic.dump.requested = false →
      t.me = { s.me with status := .halted 4, pc := s.src.pc, place := s.src.place } ∧ .imageWrite s.cur ∈ t.agenda) ∧
    (s.attic.dump.requested = true →
      t.me = { s.me with status := .faulted f, lostAt := s.clock.cc, pc := s.src.pc, place := s.src.place } ∧ .faultHandover s.cur ∈ t.agenda)

/-- An access of a syllable has passed its checks (09 R214) at house address `h` and can be performed at place `p`, seen from `u`, the house after
the translation (09 R223). -/
def State.Reaches (s : State) (a : Word) (k : Int) (size right : Nat) (c : Cls) (acc : AccKind) (u : State) (h : Nat) (p : Phys) : Prop :=
  s.resolve a k size size right c = .ok h ∧ s.prepare h right acc (s.touches a) = .go u p

/-- Register `d` of the executing context is `v` (g0 stays zero); every other register of every context is as before. -/
def OneReg (s t : State) (d : Nat) (v : Word) : Prop :=
  t.me.rg d = (if d = 0 then 0 else v) ∧ (∀ r, r ≠ d → t.me.rg r = s.me.rg r) ∧ ∀ c r, c ≠ s.cur → (t.ctx c).rg r = (s.ctx c).rg r

/-- What an operation at a station changes besides memory: the port's TLB, full/empty bits, contexts, waiter lists, the core's records of waits and
banks, the packets in the network and the agenda; and a node of a Delta whose slot it writes (19 R363). -/
def StationFrame (s t : State) : Prop :=
  t = { s with mem := t.mem, full := t.full, tlbs := t.tlbs, ctxs := t.ctxs, cores := t.cores, parked := t.parked, agenda := t.agenda, net := t.net,
               nextId := t.nextId, dest := t.dest, trees := t.trees }

/-- The executing context parks at the word at `h` (09 R230, R231): it is the youngest of the list, its bundle is still to take effect, and memory,
full/empty bits and registers are as before. -/
def Parks (s t : State) (h : Nat) (k : ParkKind) : Prop :=
  t.me.status = .waiting (.parked h) ∧ t.parked = s.parked ++ [{ word := h, ctx := s.cur, kind := k : Parked }] ∧ t.me.pc = s.src.pc ∧
    t.mem = s.mem ∧ t.full = s.full ∧ SameRegs s t

/-- Results of the atomic operations on `w`-bit words (14 R313); fadd rounds to nearest even. -/
def AmoValue (op w old b : Nat) : Nat :=
  match op with
  | 0 => (old + b) % 2 ^ w
  | 1 => b
  | 2 => old &&& b
  | 3 => old ||| b
  | 4 => old ^^^ b
  | 5 => if (BitVec.ofNat w old).toInt ≤ (BitVec.ofNat w b).toInt then old else b
  | 6 => if (BitVec.ofNat w old).toInt ≤ (BitVec.ofNat w b).toInt then b else old
  | 7 => min old b
  | 8 => max old b
  | _ => ((fmt 6).add 0 old b).1

/-! Vector syllables (08 R190, R191). -/

/-- The executing context holds a lane claim (08 R192): of 1 to 64 lanes, in a barrel core. -/
def State.HasLanes (s : State) : Prop := isPorch s.myCore = false ∧ 0 < s.src.lanes ∧ s.src.lanes ≤ 64

/-- Whether lane `i` takes part (08 R191). -/
def State.Takes (s : State) (m : BitVec 1) (i : Nat) : Prop := i < s.src.lanes ∧ (m = 0 ∨ s.src.p.getLsbD i = true)

/-- Of the house only lanes of vector register `d` of the executing context differ, and the flags that its bundle raises: lane `i` is such that `R i` holds
of it where it takes part, and as before where it does not. -/
def WritesLanes (s t : State) (m : BitVec 1) (d : BitVec 4) (R : Nat → Nat → Prop) : Prop :=
  OnlyMe s t ∧ t.me = { s.me with vregs := t.me.vregs, raised := t.me.raised } ∧
    (∀ v i, i < 64 → v ≠ d.toNat → t.me.lane v i = s.me.lane v i) ∧
    ∀ i, i < 64 → (s.Takes m i → R i (t.me.lane d.toNat i).toNat) ∧ (¬ s.Takes m i → t.me.lane d.toNat i = s.me.lane d.toNat i)

/-- A vector syllable answers a next state in which it has written lanes of `d`. -/
def GivesLanes (i : Instr) (s : State) (m : BitVec 1) (d : BitVec 4) (R : Nat → Nat → Prop) : Prop :=
  ∃ t, exec i s = .next t ∧ WritesLanes s t m d R

/-- Each element of a lane, of width `w`, is such that `P` holds of it and its place. -/
def Elements (w : Nat) (P : Nat → Nat → Prop) (v : Nat) : Prop := ∀ k, k < 32 / w → P k (el w v k)

/-- An element is the delivery of an exact integer to an integer type: clamped to its range, or equal modulo 2^w (08 R197). -/
def Delivers (t : Nat) (sat : Bool) (x : Int) (v : Nat) : Prop :=
  if sat then tyInt t v = min (tyHi t) (max (tyLo t) x) else (tyInt t v - x) % (2 ^ tyWidth t : Nat) = 0

/-- Only register `d` of the executing context and the flags that its bundle raises differ. -/
def GivesScalar (i : Instr) (s : State) (d : BitVec 5) (v : Word) : Prop :=
  ∃ t, exec i s = .next t ∧ OnlyMe s t ∧ OneReg s t d.toNat v ∧
    t.me = { s.me with g := t.me.g, written := t.me.written, raised := t.me.raised }

/-! Events. -/

/-- Nothing waits for the next bundle boundary of a context: no fault reply, no halt, no access held at its port (10 R236, 09 R228, 23 R406). -/
def State.Clear (s : State) (c : Nat) : Prop :=
  (s.ctx c).lateFault = none ∧ (s.ctx c).haltReq = 0 ∧ (s.ctx c).relaxed.any (·.held) = false

/-- Of the house only context `c` differs, and it is `x`. -/
def OnlyCtx (s t : State) (c : Nat) (x : Ctx) : Prop :=
  t = { s with ctxs := t.ctxs } ∧ (∀ k, k ≠ c → t.ctx k = s.ctx k) ∧ t.ctx c = x

/-- A context of a task outside launch 0, with no fault reply before, that stops on a fault: what the record says, and its hand-over is on the way
(23 R399, R400). -/
def FaultsAt (t : State) (c kind reason : Nat) (addr : Word) : Prop :=
  ∃ f : FaultRec, (t.ctx c).status = .faulted f ∧ f.kind = kind ∧ f.reason = reason ∧ f.addr = addr ∧ .faultHandover c ∈ t.agenda

/-- A house command is complete with a result (25 R429): its DONE word follows those of the commands before. -/
def Answers (s t : State) (result : Nat) : Prop := t.attic.results = s.attic.results ++ [2 ^ 63 + result]

/-- Completions that the host port has given (25 R431): one more follows. -/
def Completes (s t : State) (v : Nat) : Prop := t.attic.completions = s.attic.completions ++ [v]

end Sys2Proof.Machine
end

