-- ==== Sys2Proof/Certificates/Slice0/Obligations.lean ====
section
/-! DEFINITION. The statements for the provers. Each says which rule of the specification it formalises; `cites` of OBLIGATIONS.json says it again. -/

open Sys2Proof Sys2Proof.Machine


/-- 06 R127 with R125: sums, differences and products modulo 2^64, the high halves of the 128-bit products, and the permutations BREV and BSWAP. Every
register but gD, memory and the rest of the house are unchanged; a write to g0 is discarded. 06 R127, R128: the bitwise forms and the lesser and
greater of two, signed and natural. 06 R128 with 04 R97: the immediate forms, each immediate sign-extended or zero-extended as its form reads it. 06
R132: LI sign-extends its 20 bits; LIH, LIX and LIT replace [39:20], [59:40] and [63:60] of gD and keep every other bit of it. -/
def Obligations.ScalarArithmetic : Prop :=
  (
    ∀ d a b : BitVec 5,
      Gives (.add d a b) d (fun s v => v.toNat = ((s.rg a).toNat + (s.rg b).toNat) % 2 ^ 64) ∧
      Gives (.sub d a b) d (fun s v => (v.toNat + (s.rg b).toNat) % 2 ^ 64 = (s.rg a).toNat) ∧
      Gives (.mul d a b) d (fun s v => v.toNat = (s.rg a).toNat * (s.rg b).toNat % 2 ^ 64) ∧
      Gives (.mulhI d a b) d (fun s v => v = (((s.rg a).signExtend 128 * (s.rg b).signExtend 128).extractLsb' 64 64)) ∧
      Gives (.mulhN d a b) d (fun s v => v = (((s.rg a).setWidth 128 * (s.rg b).setWidth 128).extractLsb' 64 64)) ∧
      Gives (.brev d a) d (fun s v => ∀ k, k < 64 → v.getLsbD k = (s.rg a).getLsbD (63 - k)) ∧
      Gives (.bswap d a) d (fun s v => ∀ j k, j < 8 → k < 8 → v.getLsbD (8 * j + k) = (s.rg a).getLsbD (56 - 8 * j + k))
  ) ∧
  (
    ∀ d a b : BitVec 5,
      Gives (.and d a b) d (fun s v => ∀ k, v.getLsbD k = ((s.rg a).getLsbD k && (s.rg b).getLsbD k)) ∧
      Gives (.or d a b) d (fun s v => ∀ k, v.getLsbD k = ((s.rg a).getLsbD k || (s.rg b).getLsbD k)) ∧
      Gives (.xor d a b) d (fun s v => ∀ k, v.getLsbD k = ((s.rg a).getLsbD k != (s.rg b).getLsbD k)) ∧
      Gives (.andn d a b) d (fun s v => ∀ k, v.getLsbD k = ((s.rg a).getLsbD k && !(s.rg b).getLsbD k)) ∧
      Gives (.minI d a b) d (fun s v => IsMin BitVec.toInt (s.rg a) (s.rg b) v) ∧
      Gives (.maxI d a b) d (fun s v => IsMax BitVec.toInt (s.rg a) (s.rg b) v) ∧
      Gives (.minN d a b) d (fun s v => IsMin BitVec.toNat (s.rg a) (s.rg b) v) ∧
      Gives (.maxN d a b) d (fun s v => IsMax BitVec.toNat (s.rg a) (s.rg b) v)
  ) ∧
  (
    ∀ (d a : BitVec 5) (im : BitVec 15),
      Gives (.addImm d a im) d (fun s v => v = s.rg a + im.signExtend 64) ∧
      Gives (.mulImm d a im) d (fun s v => v = s.rg a * im.signExtend 64) ∧
      Gives (.andImm d a im) d (fun s v => v = s.rg a &&& im.setWidth 64) ∧
      Gives (.orImm d a im) d (fun s v => v = s.rg a ||| im.setWidth 64) ∧
      Gives (.xorImm d a im) d (fun s v => v = s.rg a ^^^ im.setWidth 64) ∧
      Gives (.rsub d a im) d (fun s v => v = im.signExtend 64 - s.rg a) ∧
      Gives (.minIImm d a im) d (fun s v => IsMin BitVec.toInt (s.rg a) (im.signExtend 64) v) ∧
      Gives (.maxIImm d a im) d (fun s v => IsMax BitVec.toInt (s.rg a) (im.signExtend 64) v) ∧
      Gives (.minNImm d a im) d (fun s v => IsMin BitVec.toNat (s.rg a) (im.setWidth 64) v) ∧
      Gives (.maxNImm d a im) d (fun s v => IsMax BitVec.toNat (s.rg a) (im.setWidth 64) v)
  ) ∧
  (
    ∀ (d : BitVec 5) (im : BitVec 20) (n : BitVec 4),
      Gives (.li d im) d (fun _ v => v = im.signExtend 64) ∧
      Gives (.lih d im) d (fun s v => Inserts (s.rg d) 39 20 (im.setWidth 64) v) ∧
      Gives (.lix d im) d (fun s v => Inserts (s.rg d) 59 40 (im.setWidth 64) v) ∧
      Gives (.lit d n) d (fun s v => Inserts (s.rg d) 63 60 (n.setWidth 64) v)
  )

/-- 06 R129: the quotients and remainders, by zero and at MIN / −1 too; no division faults. -/
def Obligations.DivisionResults : Prop :=
  ∀ d a b : BitVec 5,
    Gives (.divI d a b) d (fun s q =>
      if s.rg b = 0 then q = 0xFFFF_FFFF_FFFF_FFFF
      else if s.rg a = 0x8000_0000_0000_0000 ∧ s.rg b = 0xFFFF_FFFF_FFFF_FFFF then q = 0x8000_0000_0000_0000
      else q.toInt = (s.rg a).toInt.tdiv (s.rg b).toInt) ∧
    Gives (.remI d a b) d (fun s r =>
      if s.rg b = 0 then r = s.rg a
      else if s.rg a = 0x8000_0000_0000_0000 ∧ s.rg b = 0xFFFF_FFFF_FFFF_FFFF then r = 0
      else r.toInt = (s.rg a).toInt - (s.rg a).toInt.tdiv (s.rg b).toInt * (s.rg b).toInt) ∧
    Gives (.divN d a b) d (fun s q =>
      if s.rg b = 0 then q = 0xFFFF_FFFF_FFFF_FFFF
      else q.toNat * (s.rg b).toNat ≤ (s.rg a).toNat ∧ (s.rg a).toNat < (q.toNat + 1) * (s.rg b).toNat) ∧
    Gives (.remN d a b) d (fun s r =>
      if s.rg b = 0 then r = s.rg a
      else r.toNat < (s.rg b).toNat ∧ ∃ q, (s.rg a).toNat = q * (s.rg b).toNat + r.toNat)

/-- 06 R130 with R128: shifts and rotates by a register's low six bits and by an immediate, bit by bit. 06 R131: CLZ, CTZ and POPC count bits; CLZ and CTZ
of zero give 64. -/
def Obligations.ShiftAndCountResults : Prop :=
  (
    ∀ (d a b : BitVec 5) (n : BitVec 6),
      Gives (.shl d a b) d (fun s v => IsShl (s.rg a) ((s.rg b).toNat % 64) v) ∧
      Gives (.shr d a b) d (fun s v => IsShr (s.rg a) ((s.rg b).toNat % 64) v) ∧
      Gives (.sar d a b) d (fun s v => IsSar (s.rg a) ((s.rg b).toNat % 64) v) ∧
      Gives (.rol d a b) d (fun s v => IsRol (s.rg a) ((s.rg b).toNat % 64) v) ∧
      Gives (.ror d a b) d (fun s v => IsRol v ((s.rg b).toNat % 64) (s.rg a)) ∧
      Gives (.shlImm d a n) d (fun s v => IsShl (s.rg a) n.toNat v) ∧
      Gives (.shrImm d a n) d (fun s v => IsShr (s.rg a) n.toNat v) ∧
      Gives (.sarImm d a n) d (fun s v => IsSar (s.rg a) n.toNat v) ∧
      Gives (.rolImm d a n) d (fun s v => IsRol (s.rg a) n.toNat v)
  ) ∧
  (
    ∀ d a : BitVec 5,
      Gives (.clz d a) d (fun s v => v.toNat ≤ 64 ∧ (∀ k, 64 - v.toNat ≤ k → k < 64 → (s.rg a).getLsbD k = false) ∧
        (v.toNat < 64 → (s.rg a).getLsbD (63 - v.toNat) = true)) ∧
      Gives (.ctz d a) d (fun s v => v.toNat ≤ 64 ∧ (∀ k, k < v.toNat → (s.rg a).getLsbD k = false) ∧
        (v.toNat < 64 → (s.rg a).getLsbD v.toNat = true)) ∧
      Gives (.popc d a) d (fun s v => v.toNat = ((List.range 64).filter fun k => (s.rg a).getLsbD k).length)
  )

/-- 06 R134: the bit-field instructions, for every position and width that R133 admits. -/
def Obligations.BitFieldResults : Prop :=
  ∀ (d a : BitVec 5) (p w : BitVec 6), p.toNat + w.toNat + 1 ≤ 64 →
    Gives (.extN d a p w) d (fun s v => ∀ k, k < 64 → v.getLsbD k = (decide (k ≤ w.toNat) && (s.rg a).getLsbD (p.toNat + k))) ∧
    Gives (.extI d a p w) d (fun s v => ∀ k, k < 64 → v.getLsbD k = (s.rg a).getLsbD (p.toNat + min k w.toNat)) ∧
    Gives (.ins d a p w) d (fun s v => Inserts (s.rg d) (p.toNat + w.toNat) p.toNat (s.rg a) v) ∧
    Gives (.dep d a p w) d (fun s v => Inserts 0 (p.toNat + w.toNat) p.toNat (s.rg a) v)

/-- 06 R135 with 04 R95: SET.cc writes 1 when its condition holds of gA and gB and of p, and 0 otherwise. 06 R136 and 05 R113: a CMP whose condition does
not hold changes nothing; one that holds moves the PC past the `k` bundles that follow in the block, to the word after the block where they end it,
and counts them on the core (24 R421). 04 R90: NOP has no effect in either slot. -/
def Obligations.ConditionsAndSkips : Prop :=
  (
    ∀ (d a b : BitVec 5) (c : BitVec 4), c.toNat < 14 →
      Gives (.setCc d a b c) d (fun s v => (Holds c.toNat (s.rg a) (s.rg b) s.src.p → v = 1) ∧ (¬ Holds c.toNat (s.rg a) (s.rg b) s.src.p → v = 0))
  ) ∧
  (
    ∀ (c : BitVec 4) (k : BitVec 2) (a b : BitVec 5) (im : BitVec 14) (s : State), c.toNat < 14 →
      ∀ i x, (i = .cmpSkn c k a b ∧ x = s.rg b ∨ i = .cmpSknImm c k a im ∧ x = if c.toNat ≤ 5 then im.signExtend 64 else im.setWidth 64) →
        (¬ Holds c.toNat (s.rg a) x s.src.p → exec i s = .next s) ∧
        (Holds c.toNat (s.rg a) x s.src.p → ∃ t, exec i s = .next t ∧
          t = { s with ctxs := t.ctxs, cores := t.cores } ∧ (∀ c, c ≠ s.cur → t.ctx c = s.ctx c) ∧
          (∀ hdr b, s.src.place = .block hdr b → t.me.pc = pcWord s.src.pc ((fld s.src.pc 60 0 : Int) + 8 * (k.toNat + 1)) ∧
            t.me.place = if t.me.pc = pcWord hdr ((fld hdr 60 0 : Int) + 8 * (fld b 7 0 + 1)) then .header else .block hdr b) ∧
          t.me = { s.me with pc := t.me.pc, place := t.me.place } ∧
          (∀ n, n ≠ s.myCore → t.core n = s.core n) ∧ t.core s.myCore = { s.core s.myCore with counters := (t.core s.myCore).counters } ∧
          ∀ n, tget 0 (t.core s.myCore).counters n =
            if n = 24 then (tget 0 (s.core s.myCore).counters 24 + k.toNat) % 2 ^ 64 else tget 0 (s.core s.myCore).counters n)
  ) ∧
  (
    ∀ s, exec .nopS s = .next s ∧ exec .nopV s = .next s
  )

/-- 06 R137, R138: each transfer enters its target as a header, BR and CALL in the PC's own segment; CALL and CALLR leave in g23 the word after their
bundle, and CALLR's target is the old register. -/
def Obligations.TransfersEnterTheirTarget : Prop :=
  ∀ (s : State) (o : BitVec 25) (a : BitVec 5),
    let off : Int := (s.src.pc.toNat % 2 ^ 61 : Nat)
    let far := fun (x : Int) => BitVec.ofInt 61 x
    let here := fun (x : Int) => (s.src.pc.extractLsb' 61 3 ++ far x : BitVec 64)
    (∀ i w, (i = .br o ∧ w = here (off + 8 * o.toInt) ∨ i = .jr a ∧ w = s.rg a ∨ i = .ret ∧ w = s.rg 23) →
      ∃ t, exec i s = .next t ∧ OnlyMe s t ∧ t.me = { s.me with pc := w, place := .header }) ∧
    (∀ i w, (i = .call o ∧ w = here (off + 8 * o.toInt) ∨ i = .callr a ∧ w = s.rg a) →
      ∃ t, exec i s = .next t ∧ OnlyMe s t ∧
        t.me = { s.me with pc := w, place := .header, g := t.me.g, written := t.me.written } ∧
        t.me.rg 23 = here (off + 8) ∧ ∀ r, r ≠ 23 → t.me.rg r = s.me.rg r)

/-- 06 R144, R145; 03 R69: END in a task context with no access outstanding and an empty reduction log leaves the slot occupied by an ended task without
claims, with the slot event KIND 3 on its way to the hearth (a porch context's becomes vacant, log 20); it fills the task's completion future with gA,
lowers the LIVE count of its launch, and leaves every other context's registers. While an access is outstanding it waits; a log entry stops the task
on the reduction fault. With ST.HP set it raises the privilege fault, which of a task of launch 0, as every hearth's is, goes to the attic (23 R400). -/
def Obligations.EndRetiresTheTask : Prop :=
  ∀ (a : BitVec 5) (s : State),
    (bitOf s.src.st.toNat 0 = true → s.HandsOver → ∃ t, exec (.endTask a) s = .next t ∧ Stops s t 2 0 s.src.bits 0) ∧
    (bitOf s.src.st.toNat 0 = true → s.me.lnum = 0 → s.me.lateFault = none → ∃ t, exec (.endTask a) s = .next t ∧ StopsForAttic s t 2 0 s.src.bits 0) ∧
    (bitOf s.src.st.toNat 0 = false → (s.me.relaxed ≠ [] ∨ s.me.frontQ ≠ []) → ∃ t, exec (.endTask a) s = .next t ∧ t.me.status = .waiting .fence ∧
      t.me.pc = s.src.pc ∧ t.mem = s.mem ∧ SameRegs s t) ∧
    (bitOf s.src.st.toNat 0 = false → s.me.relaxed = [] → s.me.frontQ = [] → s.src.rlog ≠ [] → s.HandsOver →
      ∃ t, exec (.endTask a) s = .next t ∧ Stops s t 0x13 0 (word s.src.rlogWord) 0) ∧
    (bitOf s.src.st.toNat 0 = false → s.Quiet → ∃ t, exec (.endTask a) s = .next t ∧
      (isPorch s.myCore = true → t.me.status = .vacant) ∧
      (isPorch s.myCore = false → t.me.status = .ended ∧ t.me.lanes = 0 ∧ t.me.tile = 0 ∧ (∀ r, t.me.rg r = s.me.rg r) ∧
        (s.myCore, word (3 * 2 ^ 60 + slotOf s.cur)) ∈ (t.hall (s.myCore / 192)).events) ∧
      (let x := s.me.doneFuture;
        x ≠ 0 → x < 2 ^ 32 → s.hallUp (bits x 31 27) = true → s.futLive x = true → fld (s.futWord (handleAddr x)) 14 14 = 0 →
        (∀ e, e ∈ s.rooms → ∀ f, f ∈ e.2.fails → f.gid ≠ s.me.gid) →
        t.loadW (handleAddr x) = s.rg a ∧ fld (t.futWord (handleAddr x)) 14 14 = 1) ∧
      (∀ c r, c ≠ s.cur → (t.ctx c).rg r = (s.ctx c).rg r) ∧
      ∀ l, s.launch? s.me.lnum = some l → ∃ l', t.launch? s.me.lnum = some l' ∧ l'.live = l.live - 1)

/-- 06 R141: SPAWN in a task of a live launch that still has serials adds one task to the launch: it waits in the spawner's hall and queue, enters at gA
with gB in g1, and its completion future is gD; LIVE rises by one; no register changes. In a task of launch 0 it raises the privilege fault. 06 R142:
LAUNCH is a PUT of gD to launch word gB of hall gA. A covered word of an open hall that is empty, with no taker parked at it, becomes full with gD and
its record is taken in; nothing else of memory changes. A hall above 31 and a word above 255 raise the operand fault. 06 R143 with 02 R46, R47:
GREPLAY of a graph whose header and dependences are well formed starts a replay of it, with the predecessor counts of its nodes and gD as its future;
the nodes without predecessors are on their way to the hall's launch word 0. No register changes. -/
def Obligations.WorkIsStarted : Prop :=
  (
    ∀ (d a b : BitVec 5) (s : State),
      (s.src.lnum = 0 → s.me.lnum = 0 → s.me.lateFault = none → ∃ t, exec (.spawn d a b) s = .next t ∧ StopsForAttic s t 2 0 s.src.bits 0) ∧
      (∀ l, s.src.lnum ≠ 0 → s.Quiet → s.launch? s.src.lnum = some l → l.serialsLeft (s.myHall / 4) = true →
        ∃ t l', exec (.spawn d a b) s = .next t ∧ SameRegs s t ∧ t.launch? s.src.lnum = some l' ∧ l'.live = l.live + 1 ∧
          ∃ st : Start, st.lnum = s.src.lnum ∧ st.entry = s.rg a ∧ tget 0 st.regs 1 = s.rg b ∧ st.doneFuture = (s.rg d).toNat ∧
            st.queue = s.src.queue ∧ st.segs = s.src.segs ∧
            (if (l.takeSerial (s.myHall / 4)).isSome then (t.hall s.myHall).waiting = (s.hall s.myHall).waiting ++ [st]
             else l'.spawnQ = l.spawnQ ++ [(s.myHall, st)]))
  ) ∧
  (
    ∀ (d a b : BitVec 5) (s : State), s.src.given = none →
      (31 < (s.rg a).toNat → s.HandsOver → ∃ t, exec (.launch d a b) s = .next t ∧ Stops s t 0x0B 0 (word (1 + a.toNat * 256)) (s.rg a)) ∧
      ((s.rg a).toNat ≤ 31 → 255 < (s.rg b).toNat → s.HandsOver →
        ∃ t, exec (.launch d a b) s = .next t ∧ Stops s t 0x0B 0 (word (2 + b.toNat * 256)) (s.rg b)) ∧
      ((s.rg a).toNat ≤ 31 → (s.rg b).toNat ≤ 255 →
        let h := launchAddr (s.rg a).toNat (s.rg b).toNat
        s.src.covers h 8 = true → s.hallOpen (s.rg a).toNat = true → s.isFull h = false → s.takers h = [] → s.me.status.going = true →
        ∃ t, exec (.launch d a b) s = .next t ∧ t.isFull h = true ∧ Stored s t h 8 (s.rg d).toNat ∧ SameRegs s t ∧ AwaitsReply s t ∧
          .launchIntake (s.rg a).toNat (s.rg b).toNat ∈ t.agenda)
  ) ∧
  (
    ∀ (d a : BitVec 5) (s u : State) (h core : Nat) (ns : List (Nat × Nat × List Nat)),
      s.resolve (s.rg a) 0 128 64 rR .span = .ok h → unitOf h = .localStore core (h % 0x4_0000) → s.Quiet →
      u = { s with graphs := if s.graphs.contains h then s.graphs else h :: s.graphs,
                   agenda := if s.isFull (h + 0x40) then s.agenda ++ [.patchApply h] else s.agenda } →
      ghdrOk (s.loadW h) = true →
      u.readNodes (core / 192) (s.loadW (h + 8)).toNat (s.loadW (h + 0x10)).toNat 0 (fld (s.loadW h) 15 0) = some ns →
      graphOk ns.length (ns.zipIdx.map fun x => (x.2, x.1.2.2)) = true →
      ∃ t r, exec (.greplay d a) s = .next t ∧ SameRegs s t ∧ tfind t.replays s.nextId = some r ∧ r.graph = h ∧
        r.future = (s.rg d).toNat ∧ r.remain = ns.zipIdx.map (fun x => (x.2, x.1.2.1)) ∧
        ∀ x, x ∈ ns.zipIdx → x.1.2.1 = 0 → (x.1.1, s.nextId, x.2) ∈ (t.hall (core / 192)).nodesIn
  )

/-- 09 R214, R215: an access resolves in order: the segment's reserved bits and right, its limit (an offset below zero or past it fails), the alignment,
the 58-bit house space, and the unit that answers; the first that fails raises its fault, and only then an address results. -/
def Obligations.ResolutionChecksInOrder : Prop :=
  ∀ (s : State) (a : Word) (k : Int) (size align right acc : Nat) (c : Cls),
    let seg := (a.extractLsb' 61 3).toNat
    let off : Int := (a.toNat % 2 ^ 61 : Nat) + k
    let g := s.src.seg seg
    let rights := segClean g = true ∧ segHas g right = true
    let inside := 0 ≤ off ∧ off < 2 ^ 61 ∧ off + size ≤ (segLimit g : Int)
    let aligned := off % align = 0
    let h := segBase g + off.toNat
    (¬ rights → ∃ f, s.resolve a k size align right c acc = .error f ∧ f.kind = 3 ∧ f.info0 = word (seg + 2 ^ right * 256)) ∧
    (rights → ¬ inside → ∃ f, s.resolve a k size align right c acc = .error f ∧ f.kind = 4 ∧ f.info0 = word seg) ∧
    (rights → inside → ¬ aligned → ∃ f, s.resolve a k size align right c acc = .error f ∧ f.kind = 5 ∧ f.info0 = word acc) ∧
    (rights → inside → aligned → 2 ^ 58 ≤ h → ∃ f, s.resolve a k size align right c acc = .error f ∧ f.kind = 6 ∧ f.reason = 1 ∧ f.addr = word h) ∧
    (rights → inside → aligned → h < 2 ^ 58 → ∀ r, s.unitFault h c = some r →
      ∃ f, s.resolve a k size align right c acc = .error f ∧ f.kind = 6 ∧ f.reason = r ∧ f.addr = word h) ∧
    (rights → inside → aligned → h < 2 ^ 58 → s.unitFault h c = none → s.resolve a k size align right c acc = .ok h)

/-- 09 R223, R227; 01 R12; 13 R296; 23 R403: a checked address is performed at its place unless its translation fails (the context parks and the attic is
told), its unit is offline, its word is unreadable (for a store too: log 66's choice), or an earlier relaxed access to the word is still to be
performed. Preparing an access changes no more than the TLB of its port, the model's record of where the bundle's access goes, and the bank of its
word, which it is granted. -/
def Obligations.PreparedAccesses : Prop :=
  ∀ (s u : State) (h right : Nat) (acc : AccKind),
    (∀ p, s.reach (s.portOf s.myCore h) h right = (u, .ok p) →
      u = { s with tlbs := u.tlbs } ∧
      (s.physOffline p = false → s.badWord h = false → s.conflicts h = false →
        ∃ v, s.prepare h right acc false = .go v p ∧ v = { u with cores := v.cores, dest := v.dest } ∧
          ∀ k b, bankOf h = some (k, b) → bitOf (v.core k).busy b = true) ∧
      (s.physOffline p = true → s.HandsOver → ∃ t, s.prepare h right acc false = .stop t ∧ Stops u t 6 (word h) 0 0 3) ∧
      (s.physOffline p = false → s.badWord h = true → s.HandsOver → ∃ t, s.prepare h right acc false = .stop t ∧ Stops u t 0x0D (word h) 0 0 3) ∧
      (s.physOffline p = false → s.badWord h = false → s.conflicts h = true →
        ∃ t, s.prepare h right acc false = .stop t ∧ t.me.status = .waiting .fence ∧ t.me.pc = s.src.pc ∧ t.mem = s.mem)) ∧
    (∀ why m, s.reach (s.portOf s.myCore h) h right = (u, .error why) →
      ∃ t, s.prepare h right acc m = .stop t ∧ t.me.status = .waiting (.translation h acc why) ∧ t.me.pc = s.src.pc ∧ t.mem = s.mem ∧
        t.attic.msgs = s.attic.msgs ++ [.translation s.me.gid s.cur h acc why]) ∧
    (unitOf h ≠ .paged → s.reach (s.portOf s.myCore h) h right = (s, .ok (.house h)))

/-- 10 R234, R235: the plain loads. The address is gA plus the displacement or index in units of the access size; the bytes at its place, the lowest
first, are extended by the form into gD, and nothing is stored. Bytes of an undefined snapshot (19 R363), or that a tile command under way may have
written, give some value. 10 R234, R235; 13 R300: the plain stores write the low bytes of gD at the place of their address, once the fence of their
SCOPE lets them, and no other byte of memory and no register. -/
def Obligations.PlainMemoryResults : Prop :=
  (
    ∀ (d a x : BitVec 5) (z : BitVec 2) (sc : BitVec 4) (im : BitVec 8) (s u : State) (h : Nat) (p : Phys) (i : Instr) (k : Int) (signed : Bool),
      (i = .ldI d a z 0 sc im ∧ k = im.toInt * 2 ^ z.toNat ∧ signed = true ∨ i = .ldN d a z 0 sc im ∧ k = im.toInt * 2 ^ z.toNat ∧ signed = false ∨
        i = .ldxI d a z 0 sc x ∧ k = (s.rg x).toInt * 2 ^ z.toNat ∧ signed = true ∨
        i = .ldxN d a z 0 sc x ∧ k = (s.rg x).toInt * 2 ^ z.toNat ∧ signed = false) →
      s.Reaches (s.rg a) k (2 ^ z.toNat) rR .scalarLoad .load u h p → s.me.status.going = true →
      let raw := BitVec.ofNat (8 * 2 ^ z.toNat) (memLoad s.mem p.key (2 ^ z.toNat))
      let hits := s.tileHits s.cur h (2 ^ z.toNat) false
      (hits = false → s.blurred p.key (2 ^ z.toNat) = true → ∃ t v, exec i s = .next t ∧ Replied s t d.toNat v) ∧
      (hits = false → s.blurred p.key (2 ^ z.toNat) = false → ∃ t, exec i s = .next t ∧ Replied s t d.toNat (if signed then raw.signExtend 64 else raw.setWidth 64)) ∧
      (hits = true → ∃ t v, exec i s = .next t ∧ Replied { s with fresh := s.fresh + 1 } t d.toNat v)
  ) ∧
  (
    ∀ (d a x : BitVec 5) (z : BitVec 2) (sc : BitVec 4) (im : BitVec 8) (s u : State) (h : Nat) (p : Phys) (i : Instr) (k : Int),
      (i = .st d a z 0 sc im ∧ k = im.toInt * 2 ^ z.toNat ∨ i = .stx d a z 0 sc x ∧ k = (s.rg x).toInt * 2 ^ z.toNat) →
      s.Reaches (s.rg a) k (2 ^ z.toNat) rW .scalarStore .store u h p → s.PassesScope sc → s.me.status.going = true →
      ∃ t, exec i s = .next t ∧ Stored s t p.key (2 ^ z.toNat) (s.rg d).toNat ∧ SameRegs s t ∧ AwaitsReply s t ∧
        StoreFrame { s with rooms := t.rooms } t ∧ (s.tileHits s.cur h (2 ^ z.toNat) true = false → t.rooms = s.rooms)
  )

/-- 10 R236, 13 R303, 05 R112: a relaxed load or store becomes one more outstanding access, and its context goes on. In the issuer's own store it is
performed at issue; elsewhere memory and registers are as before, and its performance is on the way or held by the core behind an earlier access (13
R296, R304). A fifth is held back. -/
def Obligations.RelaxedAccesses : Prop :=
  ∀ (d a x : BitVec 5) (z : BitVec 2) (sc : BitVec 4) (im : BitVec 8) (s : State) (h : Nat) (i : Instr) (k : Int) (signed : Bool),
    let n := 2 ^ z.toNat
    let byDisp : Int := im.toInt * 2 ^ z.toNat
    let byIndex : Int := (s.rg x).toInt * 2 ^ z.toNat
    ((i = .ldI d a z 1 sc im ∧ k = byDisp ∧ signed = true ∨ i = .ldN d a z 1 sc im ∧ k = byDisp ∧ signed = false ∨
      i = .ldxI d a z 1 sc x ∧ k = byIndex ∧ signed = true ∨ i = .ldxN d a z 1 sc x ∧ k = byIndex ∧ signed = false) →
      s.resolve (s.rg a) k n n rR .scalarLoad = .ok h →
      (4 ≤ s.me.relaxed.length → ∃ t, exec i s = .next t ∧ t.me.status = .waiting .register ∧ t.mem = s.mem ∧ SameRegs s t) ∧
      (s.me.relaxed.length < 4 → s.touches (s.rg a) = false → ∃ t e, exec i s = .next t ∧ t.mem = s.mem ∧
        t.me.status = s.me.status ∧ t.me.relaxed = s.me.relaxed ++ [e] ∧ e.op = .load d.toNat n signed ∧ e.h = h ∧
        e.done = (s.own h && !s.badWord h) ∧ e.unsent = (!e.done && s.holdsBack s.cur e) ∧ (e.unsent = false → t.Comes (.relaxedLoadData s.cur e.id)) ∧
        (e.done = true → ∃ v, OneReg s t d.toNat v ∧ (s.tileHits s.cur h n false = false → v = loaded n signed (memLoad s.mem h n))) ∧ (e.done = false → SameRegs s t))) ∧
    ((i = .st d a z 1 sc im ∧ k = byDisp ∨ i = .stx d a z 1 sc x ∧ k = byIndex) →
      s.resolve (s.rg a) k n n rW .scalarStore = .ok h → s.PassesScope sc → s.me.relaxed.length < 4 → s.touches (s.rg a) = false →
      ∃ t e, exec i s = .next t ∧ SameRegs s t ∧ t.me.status = s.me.status ∧ t.me.relaxed = s.me.relaxed ++ [e] ∧
        e.op = .store n (s.rg d).toNat ∧ e.h = h ∧ e.done = (s.own h && !s.badWord h) ∧ e.unsent = (!e.done && s.holdsBack s.cur e) ∧
        (e.unsent = false → t.Comes (.relaxedAcknowledgement s.cur e.id)) ∧
        (e.done = true → Stored s t h n (s.rg d).toNat) ∧ (e.done = false → t.mem = s.mem))

/-- 14 R313, R314; 11 R259: AMO puts the result of its operation at its word and returns the old value; AMOCAS stores gB where the old value equals gD,
and returns the old value. Every other byte and register is as before. An integer add whose word a packet reaches travels there and may combine on its
way: memory and registers are as before until it arrives, and the context awaits its value; one whose bundle has an access in its other syllable is
performed with it (log 52's choice). A word of an undefined snapshot gives some value (19 R363). 14 R315, R316; 13 R303: RED is checked at issue and
then outstanding; at the issuer's own store the word takes its result at once, elsewhere memory is as before until it arrives, which the core lets it
do when no earlier access holds it (R296, R304). No register changes. -/
def Obligations.AtomicsAndReductions : Prop :=
  (
    ∀ (d a b : BitVec 5) (n : BitVec 4) (z : BitVec 1) (o : BitVec 5) (s u : State) (h : Nat) (p : Phys),
      let size := 4 * (z.toNat + 1)
      let old := memLoad s.mem p.key size
      s.Reaches (s.rg a) 0 size rA .atomic .atomic u h p → s.PassesScope n → s.me.status.going = true →
      (o.toNat ≤ 9 → p.performs o.toNat false = true → (o = 0 → s.alone = false ∨ u.goesTo s.myCore h = none) →
        (s.blurred p.key size = true → ∃ t v, exec (.amo d a b n z o) s = .next t ∧ StationFrame s t ∧ OneReg s t d.toNat v ∧ AwaitsReply s t) ∧
        (s.blurred p.key size = false → ∃ t, exec (.amo d a b n z o) s = .next t ∧ Stored s t p.key size (AmoValue o.toNat (8 * size) old ((s.rg b).toNat % 2 ^ (8 * size))) ∧
          StationFrame s t ∧ OneReg s t d.toNat (word old) ∧ AwaitsReply s t)) ∧
      (o = 0 → s.alone = true → ∀ dst on, u.goesTo s.myCore h = some (dst, on) →
        ∃ t w x, exec (.amo d a b n z o) s = .next t ∧ t.mem = s.mem ∧ SameRegs s t ∧ t.me.status = .waiting .reply ∧ t.me.amo = some w ∧
          w.d = d.toNat ∧ w.h = h ∧ w.place = p ∧ t.net.sluice = s.net.sluice ++ [x] ∧ x.hall = s.myHall ∧ x.pkt.op = 32 ∧ x.pkt.h = h ∧
          x.pkt.width = size ∧ x.pkt.value = (s.rg b).toNat % 2 ^ (8 * size) ∧ x.pkt.who = [(s.cur, w.id)]) ∧
      (p.performs o.toNat false = false → s.HandsOver → ∃ t, exec (.amo d a b n z o) s = .next t ∧ Stops u t 6 (word h) 0 0 2) ∧
      (s.blurred p.key size = true → ∃ t v, exec (.amocas d a b n z) s = .next t ∧ StationFrame s t ∧ OneReg s t d.toNat v ∧ AwaitsReply s t) ∧
      (s.blurred p.key size = false → ∃ t, exec (.amocas d a b n z) s = .next t ∧
        Stored s t p.key size (if old = (s.rg d).toNat % 2 ^ (8 * size) then (s.rg b).toNat else old) ∧
        StationFrame s t ∧ OneReg s t d.toNat (word old) ∧ AwaitsReply s t)
  ) ∧
  (
    ∀ (a b : BitVec 5) (z : BitVec 1) (o : BitVec 5) (s : State) (h : Nat), o.toNat ≤ 9 →
      let size := 4 * (z.toNat + 1)
      s.resolve (s.rg a) 0 size size rA .atomic = .ok h → s.me.relaxed.length < 4 →
      ∃ t e, exec (.red a b z o) s = .next t ∧ SameRegs s t ∧ t.me.status = s.me.status ∧ t.me.relaxed = s.me.relaxed ++ [e] ∧
        e.op = .red o.toNat size (s.rg b) ∧ e.h = h ∧ e.done = (s.own h && !s.badWord h) ∧
        e.unsent = (!e.done && s.holdsBack s.cur e) ∧
          (e.unsent = false → t.Comes (if e.done then .relaxedAcknowledgement s.cur e.id else .remoteUpdate s.cur e.id)) ∧
        (e.done = true → Stored s t h size (AmoValue o.toNat (8 * size) (memLoad s.mem h size) ((s.rg b).toNat % 2 ^ (8 * size)))) ∧
        (e.done = false → t.mem = s.mem)
  )

/-- 13 R299, R310; 14 R318, R320, R321: FENCE, QFENCE and QFENCE.own wait while what they name is outstanding, with their bundle still to take effect;
with nothing left and an empty log they complete and change nothing; with an entry in the log they stop on the reduction fault. A recorded failure of
a named queue is taken out of its room and stops the task on the tile or the copy command fault. A queue mask above 9 bits raises the operand fault. -/
def Obligations.FencesWaitThenComplete : Prop :=
  ∀ (n : BitVec 4) (a : BitVec 5) (s : State),
    let near := s.Near n.toNat
    let mask := (s.rg a).toNat
    let holds := fun i => ∃ t, exec i s = .next t ∧ t.me.status = .waiting .fence ∧ t.me.pc = s.src.pc ∧ t.mem = s.mem ∧ SameRegs s t
    (near → holds (.fence n)) ∧
    (¬ near → s.src.rlog = [] → exec (.fence n) s = .next s) ∧
    (¬ near → s.src.rlog ≠ [] → s.HandsOver → ∃ t, exec (.fence n) s = .next t ∧ Stops s t 0x13 0 (word s.src.rlogWord) 0) ∧
    (mask < 512 → s.queued mask = true → holds (.qfence a) ∧ holds (.qfenceOwn a n)) ∧
    (mask < 512 → near → holds (.qfenceOwn a n)) ∧
    (mask < 512 → s.queued mask = false → s.failure mask = none → s.src.rlog = [] → exec (.qfence a) s = .next s) ∧
    (mask < 512 → s.queued mask = false → ¬ near → s.failure mask = none → s.src.rlog = [] → exec (.qfenceOwn a n) s = .next s) ∧
    (mask < 512 → s.queued mask = false → s.failure mask = none → s.src.rlog ≠ [] → s.HandsOver → ∀ i, (i = .qfence a ∨ ¬ near ∧ i = .qfenceOwn a n) →
      ∃ t, exec i s = .next t ∧ Stops s t 0x13 0 (word s.src.rlogWord) 0) ∧
    (∀ room f i, mask < 512 → s.queued mask = false → s.failure mask = some (room, f) → s.HandsOver → (i = .qfence a ∨ ¬ near ∧ i = .qfenceOwn a n) → ∃ t, exec i s = .next t ∧ FaultsAt t s.cur (if f.queue = 8 then 0x12 else 0x11) (if f.queue = 8 then f.reason else 0) f.pc ∧
        (t.room room).fails = (s.room room).fails.erase f ∧ (∀ r, r ≠ room → t.room r = s.room r) ∧ t.mem = s.mem ∧ SameRegs s t) ∧
    (512 ≤ mask → s.HandsOver → ∀ i, i ∈ [Instr.qfence a, .qfenceOwn a n] → ∃ t, exec i s = .next t ∧ Stops s t 0x0B 0 (word (1 + a.toNat * 256)) (s.rg a))

/-- 09 R230, 14 R323: TAKE of a full word returns its value and leaves it empty, or full with the oldest parked putter's value; of an empty word it parks.
PUT into an empty word with no taker parked leaves it full with gD; into a full one it parks. 14 R323: FEREAD.d of a full word returns its value and
leaves it, of an empty one it parks; FEREAD.probe returns whether the word is full and whether anyone is parked at it; FESET.empty empties a word at
which no putter is parked, and FESET.full leaves it full with gD. 14 R323, R325, R328, R329: the bundle of a context that was parked and has been
given its value completes with that value, and its word is not looked at again. -/
def Obligations.FullEmptyInstructions : Prop :=
  (
    ∀ (d a : BitVec 5) (n : BitVec 4) (im : BitVec 8) (s u : State) (h : Nat) (p : Phys),
      let k : Int := im.toInt * 8
      s.src.given = none → s.Reaches (s.rg a) k 8 rF .sync .atomic u h p → s.PassesScope n → s.me.status.going = true →
      (feParty (s.rg a) (disp im 8) .take s h = none →
        (s.isFull h = true → s.putters h = [] → ∃ t, exec (.take d a n im) s = .next t ∧ OneReg s t d.toNat (s.loadW h) ∧ t.isFull h = false ∧
          t.mem = s.mem ∧ (∀ g, g ≠ h → t.isFull g = s.isFull g) ∧ AwaitsReply s t) ∧
        (∀ q qs, s.isFull h = true → s.putters h = q :: qs → ∃ t, exec (.take d a n im) s = .next t ∧ OneReg s t d.toNat (s.loadW h) ∧
          t.full = s.full ∧ Stored s t h 8 q.kind.value.toNat ∧ AwaitsReply s t) ∧
        (s.isFull h = false → s.listCount h < (listOf h).2 → ∃ t, exec (.take d a n im) s = .next t ∧ Parks s t h .taker)) ∧
      (feParty (s.rg a) (disp im 8) .put s h = none → (∀ hall w, unitOf h = .launchWord hall w → s.hallOpen hall = true) →
        (s.isFull h = false → s.takers h = [] → ∃ t, exec (.put d a n im) s = .next t ∧ t.isFull h = true ∧ Stored s t h 8 (s.rg d).toNat ∧
          SameRegs s t ∧ (∀ g, g ≠ h → t.isFull g = s.isFull g) ∧ AwaitsReply s t) ∧
        (s.isFull h = true → s.listCount h < (listOf h).2 → ∃ t, exec (.put d a n im) s = .next t ∧ Parks s t h (.putter (s.rg d))))
  ) ∧
  (
    ∀ (d a : BitVec 5) (n : BitVec 4) (im : BitVec 8) (s u : State) (h : Nat) (p : Phys),
      let k : Int := im.toInt * 8
      s.src.given = none → s.Reaches (s.rg a) k 8 rF .sync .atomic u h p → s.PassesScope n → s.me.status.going = true →
      (feParty (s.rg a) (disp im 8) .read s h = none →
        (s.isFull h = true → ∃ t, exec (.fereadD d a n im) s = .next t ∧ Replied s t d.toNat (s.loadW h)) ∧
        (s.isFull h = false → s.listCount h < (listOf h).2 → ∃ t, exec (.fereadD d a n im) s = .next t ∧ Parks s t h .reader) ∧
        (∃ t, exec (.fereadProbe d a n im) s = .next t ∧ Replied s t d.toNat
          (if s.isFull h then (if s.putters h = [] then 1 else 3) else (if s.takers h = [] ∧ s.readers h = [] then 0 else 2)))) ∧
      (feParty (s.rg a) (disp im 8) .set s h = none → s.putters h = [] → s.takers h = [] →
        (∃ t, exec (.fesetEmpty a n im) s = .next t ∧ t.isFull h = false ∧ t.mem = s.mem ∧ SameRegs s t ∧ (∀ g, g ≠ h → t.isFull g = s.isFull g) ∧
          AwaitsReply s t) ∧
        (∃ t, exec (.fesetFull d a n im) s = .next t ∧ t.isFull h = true ∧ Stored s t h 8 (s.rg d).toNat ∧ SameRegs s t ∧
          (∀ g, g ≠ h → t.isFull g = s.isFull g) ∧ AwaitsReply s t))
  ) ∧
  (
    ∀ (d a b : BitVec 5) (n : BitVec 4) (im : BitVec 8) (s : State) (v : Word), s.src.given = some v →
      (∀ i, i ∈ [Instr.take d a n im, .fereadD d a n im, .futget d a n, .waitb d a b n, .waitl d a b n] →
        ∃ t, exec i s = .next t ∧ OnlyMe s t ∧ t.me = { s.me with given := none, g := t.me.g, written := t.me.written } ∧
          OneReg s t d.toNat v) ∧
      (∀ i, i ∈ [Instr.put d a n im, .launch d a b] → ∃ t, exec i s = .next t ∧ OnlyMe s t ∧ t.me = { s.me with given := none })
  )

/-- 14 R324, R325: FUTNEW allocates a free entry of its hall, empty, and returns its handle, or 0 where none is free (which entry, the specification
leaves open); FUTSET fills a live empty entry; FUTGET returns the value of a full one; FUTDROP ends the handle. A stale handle raises the future
fault. -/
def Obligations.FutureResults : Prop :=
  ∀ (d a b : BitVec 5) (n : BitVec 4) (s : State), s.PassesScope n → s.me.status.going = true →
    let hall := (s.rg a).toNat
    let x := (s.rg a).toNat
    let e := handleAddr x
    let open' := x < 2 ^ 32 ∧ s.src.covers e 16 = true ∧ s.hallUp (bits x 31 27) = true
    (hall ≤ 31 → s.src.covers (futureAddr hall 0) 16 = true → s.hallUp hall = true →
      ((∃ j, j < 65536 ∧ fld (s.futWord (futureAddr hall j)) 13 13 = 0) →
        ∃ t v j, exec (.futnew d a n) s = .next t ∧ j < 65536 ∧ fld (s.futWord (futureAddr hall j)) 13 13 = 0 ∧
          v = word (hall * 2 ^ 27 + j * 2 ^ 11 + fld (s.futWord (futureAddr hall j)) 10 0) ∧ OneReg s t d.toNat v ∧
          t.futLive v.toNat = true ∧ fld (t.futWord (futureAddr hall j)) 14 14 = 0 ∧
          (∀ k, k < futureAddr hall j ∨ futureAddr hall j + 16 ≤ k → memGet t.mem k = memGet s.mem k) ∧ AwaitsReply s t) ∧
      ((∀ j, j < 65536 → fld (s.futWord (futureAddr hall j)) 13 13 = 1) →
        ∃ t, exec (.futnew d a n) s = .next t ∧ OneReg s t d.toNat 0 ∧ t.mem = s.mem)) ∧
    (open' → s.src.given = none → s.futLive x = true → fld (s.futWord e) 14 14 = 1 →
      ∃ t, exec (.futget d a n) s = .next t ∧ Replied s t d.toNat (s.loadW e)) ∧
    (open' → s.futLive x = true → fld (s.futWord e) 14 14 = 0 →
      ∃ t, exec (.futset a b n) s = .next t ∧ t.loadW e = s.rg b ∧ fld (t.futWord e) 14 14 = 1 ∧ t.futLive x = true ∧ SameRegs s t ∧
        (∀ k, k < e ∨ e + 16 ≤ k → memGet t.mem k = memGet s.mem k) ∧ AwaitsReply s t) ∧
    (open' → s.futLive x = true → s.parkedAt e (· == .future) = [] →
      ∃ t, exec (.futdrop a n) s = .next t ∧ t.futLive x = false ∧ fld (t.futWord e) 13 13 = 0 ∧ SameRegs s t ∧
        (∀ k, k < e + 8 ∨ e + 16 ≤ k → memGet t.mem k = memGet s.mem k) ∧ AwaitsReply s t) ∧
    (open' → s.futLive x = false → s.HandsOver → ∃ t, exec (.futset a b n) s = .next t ∧ Stops (s.toward e 8 0) t 0x15 (word x) 0 0 1)

/-- 14 R328: BARINIT sets a barrier word with no waiters; ARRIVE returns the phase and counts, and the last arrival advances the phase modulo 2^16, clears
the count and returns the new phase with bit 16; WAITB returns the word once its phase is another than gB's, and parks before. 10 R254, 14 R329:
LANDSET writes a landing word's target and clears its count, and with NEW its generation; WAITL returns the word once its generation is another than
gB's, and parks before. -/
def Obligations.BarriersAndLandingWords : Prop :=
  (
    ∀ (d a b : BitVec 5) (n : BitVec 4) (s u : State) (h : Nat) (p : Phys),
      s.Reaches (s.rg a) 0 8 rF .sync .atomic u h p → localOnly s h = none → s.PassesScope n → s.me.status.going = true →
      let w := s.loadW h
      let q := (s.rg b).toNat
      (fld (s.rg b) 63 36 = 0 → fld (s.rg b) 19 0 ≠ 0 → s.parkedAt h (fun _ => true) = [] →
        ∃ t, exec (.barinit a b n) s = .next t ∧ Stored s t h 8 (fld (s.rg b) 19 0 * 2 ^ 24 + fld (s.rg b) 35 20 * 2 ^ 8 + 1) ∧
          StationFrame s t ∧ SameRegs s t ∧ AwaitsReply s t) ∧
      (q < 2 ^ 16 → fld w 7 0 = 1 → fld w 23 8 = q →
        let count := (fld w 63 44 + 1) % 2 ^ 20
        (count ≠ fld w 43 24 → ∃ t, exec (.arrive d a b n) s = .next t ∧ Stored s t h 8 (setFld w 63 44 count).toNat ∧ StationFrame s t ∧
          OneReg s t d.toNat (word q) ∧ AwaitsReply s t) ∧
        (count = fld w 43 24 → ∃ t, exec (.arrive d a b n) s = .next t ∧
          Stored s t h 8 (setFld (setFld w 63 44 0) 23 8 ((q + 1) % 2 ^ 16)).toNat ∧ StationFrame s t ∧
          OneReg s t d.toNat (word (2 ^ 16 + (q + 1) % 2 ^ 16)) ∧ AwaitsReply s t)) ∧
      (s.src.given = none → q < 2 ^ 16 → fld w 7 0 = 1 →
        (fld w 23 8 ≠ q → ∃ t, exec (.waitb d a b n) s = .next t ∧ Replied s t d.toNat w) ∧
        (fld w 23 8 = q → s.listCount h < (listOf h).2 → ∃ t, exec (.waitb d a b n) s = .next t ∧ Parks s t h (.barrier q)))
  ) ∧
  (
    ∀ (d a b : BitVec 5) (n : BitVec 4) (w : BitVec 1) (s u : State) (h : Nat) (p : Phys),
      s.Reaches (s.rg a) 0 8 rF .sync .atomic u h p → localOnly s h = none → s.me.status.going = true →
      (fld (s.rg b) 63 24 = 0 →
        ∃ t, exec (.landset a b w) s = .next t ∧
          Stored s t h 8 ((s.rg b).toNat * 2 ^ 32 + if w = 1 then 0 else fld (s.loadW h) 7 0) ∧ StationFrame { s with rooms := t.rooms } t ∧ (s.tileHits s.cur h 8 true = false → t.rooms = s.rooms) ∧ SameRegs s t ∧
              AwaitsReply s t) ∧
      (s.src.given = none → s.PassesScope n → fld (s.rg b) 63 8 = 0 →
        (fld (s.loadW h) 7 0 ≠ (s.rg b).toNat → ∃ t, exec (.waitl d a b n) s = .next t ∧ Replied s t d.toNat (s.loadW h)) ∧
        (fld (s.loadW h) 7 0 = (s.rg b).toNat → s.listCount h < (listOf h).2 →
          ∃ t, exec (.waitl d a b n) s = .next t ∧ Parks s t h (.landing (s.rg b).toNat)))
  )

/-- 10 R246, R247: a CPY, CPYS or CPYM that passes its checks joins the named queue of its room behind the commands that stand there, with its spans and
its length and stride words, and its context goes on; with 16 commands in the queue the bundle does not issue. Memory and registers are as before. A
CPYM's list is checked whole, by the number its first word holds at issue (the model's choice, log 41). 10 R248: the event COPY_CHUNK moves up to 4096
bytes of a CPY or CPYS without a landing word: every word of the chunk's destination, none of which is a word of the command's source or shares bytes
with another, holds what its source word held; then the next chunk is due, or the command leaves its queue. On a queue that is empty, parked or
stopped, nothing happens, nor while the attic holds (the model's choice, log 96) or before the reply that the command's bundle awaits (the model's
choice, log 52); a chunk that loses a bank is tried again in the next cycle. -/
def Obligations.CopyCommands : Prop :=
  (
    ∀ (d a b : BitVec 5) (e v : BitVec 1) (q : BitVec 3) (s : State) (i : Instr) (form : Nat) (st : Word) (src dst : Nat),
      let w := s.rg b
      let len := fld w 23 0
      let span := fun (hi lo : Nat) => (fld st 15 0 - 1) * fld st hi lo + len
      isPorch s.myCore = false → lenOk w = true →
      (i = .cpy d a b e v q ∧ form = 0 ∧ st = 1 ∨ i = .cpys d a b e v q ∧ form = 1 ∧ st = s.rg (b + 1) ∧ strideOk st len = true →
        s.copySpan (s.rg a) (span 39 16) rR = .ok src → s.copySpan (s.rg d) (span 63 40) rW = .ok dst →
        (v = 1 → oneStore src (span 39 16) = true) → (e = 1 → oneStore dst (span 63 40) = true) → (fld w 50 50 = 1 → oneStore dst 1 = true) →
        let old := tget [] (s.room s.myRoom).copyQ q.toNat
        (old.length < 16 → ∃ t c, exec i s = .next t ∧ t = { s with rooms := t.rooms, agenda := t.agenda } ∧
          (∀ r, r ≠ s.myRoom → t.room r = s.room r) ∧ (∀ k, k ≠ q.toNat → tget [] (t.room s.myRoom).copyQ k = tget [] (s.room s.myRoom).copyQ k) ∧
          tget [] (t.room s.myRoom).copyQ q.toNat = old ++ [c] ∧ c.ctx = s.cur ∧ c.gid = s.src.gid ∧ c.form = form ∧ c.lenWord = w ∧
          c.stride = st ∧ c.src = src ∧ c.dst = dst ∧ c.sv = (v == 1) ∧ c.dv = (e == 1) ∧ c.chunk = 0) ∧
        (16 ≤ old.length → ∃ t, exec i s = .next t ∧ t.me.status = .waiting .retry ∧ t.me.pc = s.src.pc ∧ t.rooms = s.rooms ∧ t.mem = s.mem)) ∧
      (i = .cpym d a b v q → s.copySpan (s.rg a) len rR = .ok src → s.copySpan (s.rg d) 16 rR = .ok dst → s.copySpan (s.rg d) 16 rW = .ok dst →
        (∃ h, s.copySpan (s.rg d) (s.listBytes dst) rR = .ok h) → (∃ h, s.copySpan (s.rg d) (s.listBytes dst) rW = .ok h) →
        (v = 1 → oneStore src len = true) → (tget [] (s.room s.myRoom).copyQ q.toNat).length < 16 →
        ∃ t c, exec i s = .next t ∧ t = { s with rooms := t.rooms, agenda := t.agenda } ∧
          tget [] (t.room s.myRoom).copyQ q.toNat = tget [] (s.room s.myRoom).copyQ q.toNat ++ [c] ∧ c.ctx = s.cur ∧ c.form = 2 ∧ c.lenWord = w ∧
          c.src = src ∧ c.dst = dst)
  ) ∧
  (
    ∀ (s u v : State) (room q : Nat),
      (tget [] (s.room room).copyQ q = [] → exec (.copyChunk room q) s = .next s) ∧
      ∀ (c : CopyCmd) (cs : List CopyCmd) (ps qs : List Phys), tget [] (s.room room).copyQ q = c :: cs →
        ((s.room room).stopped = true ∨ s.attic.holding = true ∨ c.parked.isSome = true ∨ c.chunk = 0 ∧ s.pendingPc c.ctx c.pc = true →
          exec (.copyChunk room q) s = .next s) ∧
        let served := (s.room room).stopped = false ∧ s.attic.holding = false ∧ c.parked = none ∧ (c.chunk = 0 → s.pendingPc c.ctx c.pc = false)
        (served → s.bankTaken 2 c.touched = true → exec (.copyChunk room q) s = .next { s with later := s.later ++ [.copyChunk room q] }) ∧
        (served → s.bankTaken 2 c.touched = false → c.form < 2 → c.bad = false → c.lands = false → headBytes c.sv c.src = 8 → headBytes c.dv c.dst = 8 →
          s.places (room / 24) rR (c.words.map c.from) = .ok u ps → u.places (room / 24) rW (c.words.map c.to) = .ok v qs →
          (∀ p, p ∈ qs → ∀ e, e ∈ v.sourceKeys (room / 24) c → e.1 + e.2 ≤ p.key ∨ p.key + 8 ≤ e.1) → (∀ p, p ∈ ps → v.blurred p.key 8 = false) →
          (∀ j k, j < k → k < qs.length → (qs.getD j (.host 0)).key + 8 ≤ (qs.getD k (.host 0)).key ∨ (qs.getD k (.host 0)).key + 8 ≤ (qs.getD j (.host 0)).key) →
          ∃ t, exec (.copyChunk room q) s = .next t ∧ SameRegs s t ∧
            (∀ j, j < qs.length → memLoad t.mem (qs.getD j (.host 0)).key 8 = memLoad s.mem (ps.getD j (.host 0)).key 8) ∧
            (∀ a, (∀ p, p ∈ qs → a < p.key ∨ p.key + 8 ≤ a) → memGet t.mem a = memGet s.mem a) ∧
            tget [] (t.room room).copyQ q = if c.chunk + 1 < c.chunks then { c with chunk := c.chunk + 1 } :: cs else cs)
  )

/-- 17 R347, R344; 11 R256, R257: MDEP and MDEPX become outstanding deposits that enter the sluice of the issuer's hall, with their amount, at once or,
behind an earlier access of the core that holds them (13 R296, R304), when that has been performed; a value above 16 bits raises the operand fault. No
register and no byte of memory changes at issue. 17 R342, R343, R349, R350: a mark is read after the pending fade of its word, which multiplies each
of its four marks by k / 256, rounded down, once. MREAD returns the mark, MCLR returns it and leaves zero, MSENSE returns the greatest of its eight
marks with the lowest place that holds it, 0xFF when all are zero. -/
def Obligations.MarkInstructions : Prop :=
  (
    ∀ (a b : BitVec 5) (s : State) (h : Nat) (i : Instr) (op : Nat) (k : RelOp),
      (i = .mdep a b ∧ op = 16 ∧ k = .mdep (s.rg b).toNat ∨ i = .mdepx a b ∧ op = 17 ∧ k = .mdepx (s.rg b).toNat) →
      s.resolve (s.rg a) 0 2 2 rK .mark = .ok h →
      ((s.rg b).toNat < 2 ^ 16 → s.me.relaxed.length < 4 →
        ∃ t e, exec i s = .next t ∧ t.mem = s.mem ∧ SameRegs s t ∧ t.me.status = s.me.status ∧ t.me.relaxed = s.me.relaxed ++ [e] ∧
          e.op = k ∧ e.h = h ∧ e.done = false ∧ e.unsent = s.holdsBack s.cur e ∧ (e.unsent = true → t.net = s.net) ∧
          (e.unsent = false → ∃ x, t.net.sluice = s.net.sluice ++ [x] ∧ x.hall = s.myHall ∧ x.stage = 0 ∧
            x.line = lineOf s.myCore ∧ x.pkt.cls = 1 ∧ x.pkt.cargo = [.remoteUpdate s.cur e.id] ∧ x.pkt.op = op ∧
            x.pkt.h = h ∧ x.pkt.value = (s.rg b).toNat ∧ x.pkt.who = [(s.cur, e.id)])) ∧
      (2 ^ 16 ≤ (s.rg b).toNat → s.HandsOver → ∃ t, exec i s = .next t ∧ Stops s t 0x0B 0 (word (2 + b.toNat * 256)) (s.rg b))
  ) ∧
  (
    (∀ (s : State) (h : Nat), let m := markOf h
      ((s.hall m.1).pendFade.find? (·.1 == m.2) = none → s.markAt h = (s, memLoad s.mem h 2)) ∧
      (∀ k, (s.hall m.1).pendFade.find? (·.1 == m.2) = some (m.2, k) → k ≤ 256 →
        ((s.markAt h).1.hall m.1).pendFade.find? (·.1 == m.2) = none ∧
        ∀ j, j < 4 → fld ((s.markAt h).1.loadW (markAddr m.1 m.2)) (16 * j + 15) (16 * j) =
          fld (s.loadW (markAddr m.1 m.2)) (16 * j + 15) (16 * j) * k / 256)) ∧
    (∀ (d a b : BitVec 5) (s : State) (h : Nat), s.me.status.going = true →
      (s.resolve (s.rg a) 0 2 2 rK .mark = .ok h → s.conflicts h = false →
        (∃ t, exec (.mread d a) s = .next t ∧ OneReg s t d.toNat (word (s.markAt h).2) ∧ t.mem = (s.markAt h).1.mem ∧ AwaitsReply s t) ∧
        (∃ t, exec (.mclr d a) s = .next t ∧ OneReg s t d.toNat (word (s.markAt h).2) ∧ Stored (s.markAt h).1 t h 2 0 ∧ AwaitsReply s t)) ∧
      (∀ hs, s.senseAddrs (s.rg a) (s.rg b) 8 = .ok hs → (∀ h, h ∈ hs → (markOf h).1 = (markOf (hs.headD 0)).1) → (∀ h, h ∈ hs → s.conflicts h = false) →
        ∃ t v, exec (.msense d a b) s = .next t ∧ OneReg s t d.toNat v ∧ AwaitsReply s t ∧
          let ms := (s.sense hs).2
          ((∀ m, m ∈ ms → m = 0) ∧ v = 0xFF ∨
            ∃ m j, v = word (m * 256 + j) ∧ m ≠ 0 ∧ ms[j]? = some m ∧ (∀ x, x ∈ ms → x ≤ m) ∧ ∀ k, k < j → ms[k]? ≠ some m)))
  )

/-- 17 R351, R352: EBB and EBB.period return the current ebb number and E; MWAIT leaves the rotation until the next ebb number is reached, MWAIT.until
until gA is, at once when it has been; either completes with the number given at the ebb. 17 R353: a task of launch 0 offers a region descriptor with
MFIELD, which waits for the hall's next ebb instant when it keeps the rules, and raises the operand fault when it does not; MFIELD.rd reads the
installed descriptor. The rules are checked against the descriptors that wait as well (the model's choice, log 47). A nonzero reserved bit of gA, or
region 0, raises the operand fault on A. Any other task raises the privilege fault. -/
def Obligations.EbbsAndRegions : Prop :=
  (
    ∀ (d a : BitVec 5),
      Gives (.ebb d) d (fun s v => v = word (s.now / 2 ^ s.clock.ebbE)) ∧
      Gives (.ebbPeriod d) d (fun s v => v = word s.clock.ebbE) ∧
      ∀ s : State,
        (s.src.given = none → ∃ t, exec (.mwait d) s = .next t ∧ t.me.status = .waiting (.ebb (s.now / 2 ^ s.clock.ebbE + 1)) ∧
          t.me.pc = s.src.pc ∧ t.mem = s.mem ∧ SameRegs s t) ∧
        (s.src.given = none → (s.rg a).toNat ≤ s.now / 2 ^ s.clock.ebbE →
          ∃ t, exec (.mwaitUntil d a) s = .next t ∧ OnlyMe s t ∧ SetsReg s t d.toNat (word (s.now / 2 ^ s.clock.ebbE))) ∧
        (s.src.given = none → s.now / 2 ^ s.clock.ebbE < (s.rg a).toNat →
          ∃ t, exec (.mwaitUntil d a) s = .next t ∧ t.me.status = .waiting (.ebb (s.rg a).toNat) ∧ t.me.pc = s.src.pc ∧ t.mem = s.mem ∧ SameRegs s t) ∧
        ∀ v, s.src.given = some v → ∀ i, i ∈ [Instr.mwait d, .mwaitUntil d a] → ∃ t, exec i s = .next t ∧ OnlyMe s t ∧ OneReg s t d.toNat v
  ) ∧
  (
    ∀ (d a b : BitVec 5) (s : State),
      let hall := fld (s.rg a) 4 0
      let region := fld (s.rg a) 13 8
      (s.src.lnum ≠ 0 → s.HandsOver → ∀ i, i ∈ [Instr.mfield a b, .mfieldRd d a] → ∃ t, exec i s = .next t ∧ Stops s t 2 0 s.src.bits 0) ∧
      (s.src.lnum = 0 → (fld (s.rg a) 7 5 ≠ 0 ∨ fld (s.rg a) 63 14 ≠ 0 ∨ region = 0) → s.me.lnum = 0 → s.me.lateFault = none → ∀ i, i ∈ [Instr.mfield a b, .mfieldRd d a] →
        ∃ t, exec i s = .next t ∧ StopsForAttic s t 0x0B 0 (word (1 + a.toNat * 256)) (s.rg a)) ∧
      (s.src.lnum = 0 → fld (s.rg a) 7 5 = 0 → fld (s.rg a) 63 14 = 0 → region ≠ 0 → s.hallUp hall = true →
        (regOk (s.hall hall).nextRegions region (s.rg b) s.clock.ebbE = true → ∃ t, exec (.mfield a b) s = .next t ∧
          t = { s with halls := t.halls, ctxs := t.ctxs, cores := t.cores, agenda := t.agenda, net := t.net, nextId := t.nextId } ∧ SameRegs s t ∧ t.me.status = .waiting .mfield ∧
          (∀ k, k ≠ hall → t.hall k = s.hall k) ∧ t.hall hall = { s.hall hall with regionQ := (s.hall hall).regionQ ++ [(s.cur, region, s.rg b)] }) ∧
        (regOk (s.hall hall).nextRegions region (s.rg b) s.clock.ebbE = false → s.me.lnum = 0 → s.me.lateFault = none →
          ∃ t, exec (.mfield a b) s = .next t ∧ StopsForAttic s t 0x0B 0 (word (2 + b.toNat * 256)) (s.rg b)) ∧
        (s.me.status.going = true → ∃ t, exec (.mfieldRd d a) s = .next t ∧ Replied s t d.toNat (tget 0 (s.hall hall).regions region)))
  )

/-- 19 R360, R368: DHASH is one step h × base + symbol + 1 modulo 2^61 − 1 of the key function; a symbol above 32 bits, a base or a key that is not below
the modulus raises the operand fault. 19 R364, R367, R369 to R371: a Delta operation whose descriptor resolves with the right D, and whose one step at
the station commits, leaves memory as that step left it and returns its results: DLOOK a handle, the symbols consumed and the payload's address; DPUT
a handle and a status; DSTAT a count; DREL and DTOUCH nothing. The context awaits the reply. One that does not commit leaves memory as it was: a Delta
fault carries its reason, the descriptor and the handle. -/
def Obligations.DeltaOperations : Prop :=
  (
    ∀ (d a b : BitVec 5) (s : State),
      (fld (s.rg a) 63 32 = 0 → (s.rg b).toNat < 2 ^ 61 - 1 → (s.rg d).toNat < 2 ^ 61 - 1 → ∃ t v, exec (.dhash d a b) s = .next t ∧ OnlyMe s t ∧
        SetsReg s t d.toNat v ∧ v.toNat = ((s.rg b).toNat * (s.rg d).toNat + (s.rg a).toNat + 1) % (2 ^ 61 - 1)) ∧
      (fld (s.rg a) 63 32 ≠ 0 → s.HandsOver → ∃ t, exec (.dhash d a b) s = .next t ∧ Stops s t 0x0B 0 (word (1 + a.toNat * 256)) (s.rg a)) ∧
      (fld (s.rg a) 63 32 = 0 → (2 ^ 61 - 1 ≤ (s.rg b).toNat ∨ 2 ^ 61 - 1 ≤ (s.rg d).toNat) → s.HandsOver →
        ∃ t, exec (.dhash d a b) s = .next t ∧ Stops s t 0x0B 0 (word (2 + b.toNat * 256)) (s.rg b))
  ) ∧
  (
    ∀ (d a b : BitVec 5) (sc : BitVec 4) (s : State) (tree : Nat), d.toNat < 22 → b.toNat < 23 →
      s.resolve (s.rg a) 0 8 256 rD .delta = .ok tree → s.PassesScope sc → s.me.status.going = true →
      let cw := s.rg (b + 1)
      let v := s.toward tree 8 8
      (∀ h r u, fld cw 63 48 = 0 → h = (s.resolve (s.rg b) 0 (4 * fld cw 31 0) 4 rR .span 4).toOption.getD 0 →
        (fld cw 31 0 ≠ 0 → s.resolve (s.rg b) 0 (4 * fld cw 31 0) 4 rR .span 4 = .ok h ∧ s.spanFault h (4 * fld cw 31 0) .span = none) →
        lookTree tree h (fld cw 31 0) (fld cw 47 32) v = .ok (r, u) → u.me = s.me → u.cur = s.cur →
        ∃ t, exec (.dlook d a b sc) s = .next t ∧ t.mem = u.mem ∧ t.me.rg d.toNat = (if d = 0 then 0 else word r.1) ∧
          t.me.rg (d.toNat + 1) = word r.2.1 ∧ t.me.rg (d.toNat + 2) = word r.2.2 ∧
          (∀ k, k ≠ d.toNat → k ≠ d.toNat + 1 → k ≠ d.toNat + 2 → t.me.rg k = s.me.rg k) ∧ AwaitsReply s t) ∧
      (∀ h r u, s.resolve (s.rg b) 0 32 8 rR .span = .ok h → s.spanFault h 32 .span = none → putTree tree h v = .ok (r, u) →
        u.me = s.me → u.cur = s.cur →
        ∃ t, exec (.dput d a b sc) s = .next t ∧ t.mem = u.mem ∧ t.me.rg d.toNat = (if d = 0 then 0 else word r.1) ∧
          t.me.rg (d.toNat + 1) = word r.2 ∧ (∀ k, k ≠ d.toNat → k ≠ d.toNat + 1 → t.me.rg k = s.me.rg k) ∧ AwaitsReply s t) ∧
      (∀ i m r u, (i = .drel a b sc ∧ m = relTree tree (s.rg b).toNat ∨ i = .dtouch a b sc ∧ m = touchTree tree (s.rg b).toNat) → m v = .ok (r, u) →
        u.me = s.me → u.cur = s.cur → ∃ t, exec i s = .next t ∧ t.mem = u.mem ∧ (∀ k, t.me.rg k = s.me.rg k) ∧ AwaitsReply s t) ∧
      (∀ n u, (s.rg b).toNat ≤ 10 → statTree tree (s.rg b).toNat v = .ok (n, u) → u.me = s.me → u.cur = s.cur →
        ∃ t, exec (.dstat d a b sc) s = .next t ∧ t.mem = u.mem ∧ t.me.rg d.toNat = (if d = 0 then 0 else word n) ∧
          (∀ k, k ≠ d.toNat → t.me.rg k = s.me.rg k) ∧ AwaitsReply s t) ∧
      (∀ r handle, relTree tree (s.rg b).toNat v = .error (.delta r handle) → s.HandsOver →
        ∃ t, exec (.drel a b sc) s = .next t ∧ Stops s t 0x17 (word tree) (word handle) 0 r)
  )

/-- 21 R382, R384: no offer leaves a front in which one held tuple dominates or equals another, if there was none before, and none leaves more tuples than
CAP, if there were no more before. -/
def Obligations.OffersKeepAFront : Prop :=
  ∀ (cfg : Word) (ovf ovf' : Bool) (ts ts' : Held) (x : FTuple) (status removed : Nat), offer cfg ovf ts x = some (ts', ovf', status, removed) →
    frontCap cfg ≠ 0 →
    (frontSound cfg (ts.map (·.1)) = true → frontSound cfg (ts'.map (·.1)) = true) ∧ (ts.length ≤ frontCap cfg → ts'.length ≤ frontCap cfg) ∧
      (ovf = true → ovf' = true)

/-- 21 R382, R387 to R389, R392, R394; 13 R310: the instructions on a front of the issuer's room. FCFG and FCLR commit at issue and are outstanding; they
reach their front by an event, or before the next operation of their context that returns, and empty it. FPUT makes its offer, and returns the status,
the number removed, the index, the count, OVF and EPOCH; FREAD returns one held tuple, or zeros and ones; FSTAT the front's state. Each advances EPOCH
once where it changes the front, and memory, other fronts and other registers are as before. 21 R385, R386, R390, R391: FSAVE writes the front's image
at its address and nothing else; FLOAD of a well-formed image replaces the front by it, and FMERGE offers its tuples in order. Each advances EPOCH
once where it changes the front. The words read hold nothing that a Delta leaves undefined. -/
def Obligations.FrontInstructions : Prop :=
  (
    ∀ (d a b : BitVec 5) (sc : BitVec 4) (n : BitVec 2) (s : State), isPorch s.myCore = false →
      let f := s.front n
      let others := fun (t : State) => t.mem = s.mem ∧ (∀ r, r ≠ s.myRoom → t.room r = s.room r) ∧
        ∀ k, k ≠ n.toNat → tget {} (t.room s.myRoom).fronts k = tget {} (s.room s.myRoom).fronts k
      let sent := fun (i : Instr) (w : Option Word) => ∃ t q, exec i s = .next t ∧ t.mem = s.mem ∧ t.rooms = s.rooms ∧ SameRegs s t ∧
        t.me = { s.me with frontQ := s.me.frontQ ++ [q] } ∧ q.front = n.toNat ∧ q.cfg = w ∧ .remoteUpdate s.cur q.id ∈ t.agenda
      (cfgOk (s.rg a) = true → sent (.fcfg a n) (some (s.rg a))) ∧
      (cfgOk (s.rg a) = false → s.HandsOver → ∃ t, exec (.fcfg a n) s = .next t ∧ Stops s t 0x0B 0 (word (1 + a.toNat * 256)) (s.rg a)) ∧
      sent (.fclr n) none ∧
      (∀ q, s.me.frontQ = [q] → q.front = n.toNat → s.pendingId s.cur q.id = false → ∃ t, exec (.remoteUpdate s.cur q.id) s = .next t ∧ others t ∧ SameRegs s t ∧ t.me.frontQ = [] ∧
        t.front n = (match q.cfg with
          | some w => { f with cfg := w, ovf := false, tuples := [], lost := false, epoch := f.epoch + 1 }
          | none => { f with ovf := false, tuples := [], epoch := f.epoch + 1 })) ∧
      (∀ i, i ∈ [Instr.fput d a b sc n, .fread d a sc n, .fstat d sc n, .fsave d a sc n, .fload d a sc n, .fmerge d a sc n] →
        exec i s = exec i (s.landFronts s.cur s.nextId)) ∧
      (d.toNat < 22 → s.PassesScope sc → s.me.frontQ = [] → s.me.status.going = true →
        (∃ t v, exec (.fstat d sc n) s = .next t ∧ Replied s t d.toNat v ∧
          (f.tuples.length < 128 → fld v 63 32 = f.epoch.toNat ∧ fld v 6 0 = f.tuples.length ∧ fld v 7 7 = b2n f.ovf ∧ fld v 22 16 = frontCap f.cfg ∧ fld v 23 23 = b2n (f.cfg != 0))) ∧
        (f.lost = false → f.cfg ≠ 0 → ∀ ts ovf st ev, st ≤ 6 → ev ≤ 64 → ts.length ≤ 64 →
          offer f.cfg f.ovf (f.tuples.map fun t => (t, false)) (tupleOf (s.rg a) (s.rg b) (s.rg d)) = some (ts, ovf, st, ev) →
          let took := st = 0 ∨ st = 3 ∨ st = 5
          ∃ t v, exec (.fput d a b sc n) s = .next t ∧ others t ∧ OneReg s t d.toNat v ∧ AwaitsReply s t ∧
            (t.front n).tuples = ts.map (·.1) ∧ (t.front n).ovf = ovf ∧ (t.front n).cfg = f.cfg ∧
            (t.front n).epoch = (if took ∨ ovf ≠ f.ovf then f.epoch + 1 else f.epoch) ∧
            fld v 7 0 = st ∧ fld v 15 8 = ev ∧ fld v 22 16 = (if took then ts.length - 1 else 127) ∧ fld v 30 24 = ts.length ∧ fld v 31 31 = b2n ovf ∧
            fld v 63 32 = (t.front n).epoch.toNat) ∧
        (f.lost = false → f.cfg ≠ 0 →
          offer f.cfg f.ovf (f.tuples.map fun t => (t, false)) (tupleOf (s.rg a) (s.rg b) (s.rg d)) = none → s.HandsOver →
          ∃ t, exec (.fput d a b sc n) s = .next t ∧ Stops s t 0x18 0 (word (n.toNat + s.myRoom % 24 * 256)) 0 2) ∧
        (f.lost = false → (s.rg a).toNat ≤ 63 → ∀ x y z, (x, y, z) = (match f.tuples[(s.rg a).toNat]? with
            | some t => (t.k1 ++ t.k0, t.k3 ++ t.k2, t.payload.setWidth 64)
            | none => ((0 : Word), (0 : Word), (0xFFFF_FFFF_FFFF_FFFF : Word))) →
          ∃ t, exec (.fread d a sc n) s = .next t ∧ others t ∧ t.rooms = s.rooms ∧ t.me.rg d.toNat = (if d = 0 then 0 else x) ∧
            t.me.rg (d.toNat + 1) = y ∧ t.me.rg (d.toNat + 2) = z ∧
            (∀ k, k ≠ d.toNat → k ≠ d.toNat + 1 → k ≠ d.toNat + 2 → t.me.rg k = s.me.rg k) ∧ AwaitsReply s t))
  ) ∧
  (
    ∀ (d a : BitVec 5) (sc : BitVec 4) (n : BitVec 2) (s u : State) (h : Nat), isPorch s.myCore = false → s.PassesScope sc →
      s.me.frontQ = [] → s.me.status.going = true →
      let f := s.front n
      (f.lost = false → s.resolve (s.rg a) 0 1552 8 rW .scalarStore 8 = .ok h → s.spanFault h 1552 .scalarStore = none →
        ∀ ps, s.readySpan rW .store (wordsAt h (2 + 3 * f.tuples.length)) = (u, some ps) →
          (∀ j k, j < k → k < ps.length → (ps.getD j (.host 0)).key + 8 ≤ (ps.getD k (.host 0)).key ∨ (ps.getD k (.host 0)).key + 8 ≤ (ps.getD j (.host 0)).key) →
          ∃ t, exec (.fsave d a sc n) s = .next t ∧ t.rooms = s.rooms ∧ OneReg s t d.toNat (word (f.epoch.toNat * 2 ^ 32 + f.tuples.length)) ∧
            (∀ j, j < ps.length → memLoad t.mem (ps.getD j (.host 0)).key 8 = (f.image.getD j 0).toNat) ∧
            (∀ x, (∀ p, p ∈ ps → x < p.key ∨ p.key + 8 ≤ x) → memGet t.mem x = memGet s.mem x) ∧ AwaitsReply s t) ∧
      (∀ v ps qs ts, s.resolve (s.rg a) 0 1552 8 rR .span 8 = .ok h → s.spanFault h 1552 .span = none →
        s.readySpan rR .load (wordsAt h 2) = (u, some ps) →
        let w0 := s.loadW ((ps.getD 0 (.host 0)).key)
        let w1 := s.loadW ((ps.getD 1 (.host 0)).key)
        u.readySpan rR .load (wordsAt (h + 16) (3 * min 64 (fld w1 6 0))) = (v, some qs) →
        (∀ p, p ∈ ps ++ qs → s.blurred p.key 8 = false) →
        tuplesOf (qs.map fun p => s.loadW p.key) = some ts → fld w0 63 56 = 1 → fld w0 55 27 = 0 → fld w1 31 8 = 0 →
        (cfgOk (word (fld w0 26 0)) = true → fld w1 6 0 ≤ frontCap (word (fld w0 26 0)) → (∀ t, t ∈ ts → unorderable (word (fld w0 26 0)) t = false) →
          frontSound (word (fld w0 26 0)) ts = true →
          ∃ t, exec (.fload d a sc n) s = .next t ∧ t.mem = s.mem ∧ AwaitsReply s t ∧ OneReg s t d.toNat (word ((f.epoch + 1).toNat * 2 ^ 32 + ts.length)) ∧
            t.front n = { f with cfg := word (fld w0 26 0), ovf := fld w1 7 7 == 1, tuples := ts, lost := false, epoch := f.epoch + 1 }) ∧
        (f.lost = false → f.cfg ≠ 0 → fld w1 6 0 ≤ 64 → fld w0 19 19 = 0 → fld w0 15 0 = fld f.cfg 15 0 →
          ∀ m, mergeFrom f.cfg 0 ts { held := f.tuples.map fun t => (t, false), ovf := f.ovf, passed := 0, removed := 0, changed := false } = (m, none) →
          ∃ t, exec (.fmerge d a sc n) s = .next t ∧ t.mem = s.mem ∧ AwaitsReply s t ∧ (∀ r, r ≠ d.toNat → t.me.rg r = s.me.rg r) ∧
            (t.front n).tuples = m.held.map (·.1) ∧ (t.front n).ovf = m.ovf ∧ (t.front n).cfg = f.cfg ∧
            (t.front n).epoch = if m.changed = true ∨ m.ovf ≠ f.ovf then f.epoch + 1 else f.epoch))
  )

/-- 06 R147; 02 R34: what MOVC reads of each control register, PINNED and RLF of ST being what the claims and the log say; a descriptor of a tile register
that is not claimed raises the claim fault. Only gD changes. 06 R147; 02 R34, R35: MOVC writes SS and FEX of ST, FPC, TC, HND, p and the descriptors
of claimed tile registers, with their reserved bits zero; a write to any other control register, of a nonzero reserved bit, or of a descriptor that 12
R272 does not allow, raises the illegal-instruction fault. Nothing else changes. -/
def Obligations.ControlRegisters : Prop :=
  (
    ∀ (d c : BitVec 5) (s : State),
      let r := s.src
      let reads := fun (v : Word) => ∃ t, exec (.movcRead d c) s = .next t ∧ OnlyMe s t ∧ SetsReg s t d.toNat v
      (c = 0 → ∃ v, reads v ∧ (v.getLsbD 1 = (r.lanes != 0 || r.tile != 0)) ∧ v.getLsbD 7 = !r.rlog.isEmpty ∧
        ∀ k, k < 64 → k ≠ 1 → k ≠ 7 → v.getLsbD k = r.st.getLsbD k) ∧
      (c = 1 → reads r.fpc) ∧ (c = 2 → reads (word r.lanes)) ∧ (c = 3 → reads r.tc) ∧ (c = 4 → reads r.gid) ∧ (c = 5 → reads r.grp) ∧
      (c = 6 → reads (word s.now)) ∧ (c = 7 → reads (word (s.now / 2 ^ s.clock.ebbE))) ∧ (c = 8 → reads r.hnd) ∧ (c = 9 → reads r.p) ∧
      (16 ≤ c.toNat → bitOf r.tile c.toNat = true → reads (s.td (c.toNat - 16))) ∧
      (16 ≤ c.toNat → bitOf r.tile c.toNat = false → s.HandsOver →
        ∃ t, exec (.movcRead d c) s = .next t ∧ Stops s t 0x0A 0 r.claim (word (2 ^ c.toNat)))
  ) ∧
  (
    ∀ (c b : BitVec 5) (s : State),
      let w := s.rg b
      let writes := fun (m : Ctx) => ∃ t, exec (.movcWrite c b) s = .next t ∧ OnlyMe s t ∧ t.me = m
      let illegal := ∃ t, exec (.movcWrite c b) s = .next t ∧ Stops s t 1 0 s.src.bits 0
      (c = 0 → fld w 63 8 = 0 → fld w 6 4 = 0 → ∃ st : Word, writes { s.me with st := st } ∧
        ∀ k, k < 64 → st.getLsbD k = if k = 2 ∨ k = 3 then w.getLsbD k else s.me.st.getLsbD k) ∧
      (c = 0 → (fld w 63 8 ≠ 0 ∨ fld w 6 4 ≠ 0) → s.HandsOver → illegal) ∧
      (c = 1 → fpcOk w = true → writes { s.me with fpc := w }) ∧ (c = 1 → fpcOk w = false → s.HandsOver → illegal) ∧
      (c = 3 → fld w 63 2 = 0 → writes { s.me with tc := w }) ∧ (c = 3 → fld w 63 2 ≠ 0 → s.HandsOver → illegal) ∧
      (c = 8 → writes { s.me with hnd := w }) ∧ (c = 9 → writes { s.me with p := w }) ∧
      (c ∈ [2, 4, 5, 6, 7] → s.HandsOver → illegal) ∧
      (16 ≤ c.toNat → bitOf s.src.tile c.toNat = true → tdOk w = true → ∃ td, writes { s.me with td := td } ∧
        ∀ k, tget 0 td k = if k = c.toNat - 16 then w else tget 0 s.me.td k) ∧
      (16 ≤ c.toNat → bitOf s.src.tile c.toNat = true → tdOk w = false → s.HandsOver → illegal) ∧
      (16 ≤ c.toNat → bitOf s.src.tile c.toNat = false → s.HandsOver →
        ∃ t, exec (.movcWrite c b) s = .next t ∧ Stops s t 0x0A 0 s.src.claim (word (2 ^ c.toNat)))
  )

/-- 06 R148; 10 R243, R244: MOVS reads the halves of a segment register and copies one; SEGNAR makes a segment of base and limit within its source and
with no right that its source lacks, or raises the operand fault. 10 R241, R243: PFX changes at most TLBs and never faults; SEGLD loads a well-formed
segment that lies within one the context holds, or any with ST.HP set, and SEGST stores one; a segment with a reserved bit set raises the operand
fault. -/
def Obligations.SegmentInstructions : Prop :=
  (
    ∀ (d a b : BitVec 5) (r : BitVec 8) (s : State),
      let g := s.src.seg a.toNat
      Gives (.movsLo d a) d (fun s v => v = (s.src.seg a.toNat).setWidth 64) ∧
      Gives (.movsHi d a) d (fun s v => v = (s.src.seg a.toNat).extractLsb' 64 64) ∧
      (∃ t, exec (.movsSeg d a) s = .next t ∧ OnlyMe s t ∧ t.me = { s.me with segs := t.me.segs } ∧
        ∀ k, t.me.seg k = if k = d.toNat then g else s.me.seg k) ∧
      (b.toNat < 23 →
        let o := (s.rg b).toNat
        let n := (s.rg (b + 1)).toNat
        (o + n ≤ segLimit g → segBase g + o < 2 ^ 58 → ∃ t x, exec (.segnar d a b r) s = .next t ∧ OnlyMe s t ∧ t.me = { s.me with segs := t.me.segs } ∧
          (∀ k, t.me.seg k = if k = d.toNat then x else s.me.seg k) ∧ segClean x = true ∧ segBase x = segBase g + o ∧ segLimit x = n ∧
          segRights x = segRights g &&& r.toNat) ∧
        (segLimit g < o + n → s.HandsOver → ∃ t, exec (.segnar d a b r) s = .next t ∧ Stops s t 0x0B 0 (word (2 + b.toNat * 256)) (s.rg b)))
  ) ∧
  (
    ∀ (d a : BitVec 5) (z : BitVec 2) (im : BitVec 8) (s : State),
      (∃ t, exec (.pfx a z im) s = .next t ∧ t = { s with tlbs := t.tlbs }) ∧
      ∀ (u : State) (h : Nat) (p : Phys), s.me.status.going = true → s.conflicts (h + 8) = false → s.badWord (h + 8) = false →
        (s.Reaches (s.rg a) 0 16 rR .span .load u h p → s.blurred p.key 16 = false →
          ∃ g : Seg, (s.tileHits s.cur h 16 false = false → g = BitVec.ofNat 128 (memLoad s.mem p.key 16)) ∧
            (segClean g = true → (bitOf s.src.st.toNat 0 = true ∨ s.src.narrows g = true) → ∃ t, exec (.segld d a) s = .next t ∧ SameRegs s t ∧
            t.mem = s.mem ∧ (∀ k, t.me.seg k = if k = d.toNat then g else s.me.seg k) ∧ AwaitsReply s t) ∧
          (segClean g = false → s.HandsOver → ∃ t n, exec (.segld d a) s = .next t ∧ Stops { u with fresh := n } t 0x0B 0 (word (1 + a.toNat * 256)) (s.rg a))) ∧
        (s.Reaches (s.rg a) 0 16 rW .scalarStore .store u h p →
          ∃ t, exec (.segst d a) s = .next t ∧ Stored s t p.key 16 (s.src.seg d.toNat).toNat ∧ StoreFrame { s with rooms := t.rooms } t ∧
              (s.tileHits s.cur h 16 true = false → t.rooms = s.rooms) ∧ AwaitsReply s t)
  )

/-- 05 R116 to R118; 06 R150, R152: CLAIMV of 8, 16, 32 or 64 lanes is granted at once when it asks for no more than is held, or when no request waits and
the room has the storage: gD is L, lanes below both the old and the new L keep their values and new ones read as zero. Otherwise it joins the room's
waiting requests. RELV gives the lanes back. Any other number raises the operand fault. 05 R117, R120; 06 R151, R152: CLAIMT of parts that are free,
with no request waiting, makes the claim the union and returns it; of a part that another task or a queued command uses, it joins the room's waiting
requests; an empty set or a reserved bit raises the operand fault. RELT gives its parts back and ignores others. -/
def Obligations.Claims : Prop :=
  (
    ∀ (d a : BitVec 5) (s : State), s.src.lanes = s.me.lanes → isPorch s.myCore = false →
      let l := (s.rg a).toNat
      let old := s.me.lanes
      let free := (s.room s.myRoom).vwait = [] ∧ 64 * (l - old) ≤ s.laneSpace s.myRoom
      let granted := fun (t : State) (v : Word) => OneReg s t d.toNat v ∧ t.me.lanes = v.toNat ∧ t.mem = s.mem ∧
        ∀ r i, i < v.toNat → v.toNat ≤ 64 → t.me.lane r i = if i < old then s.me.lane r i else 0
      (s.src.given = none → (l = 8 ∨ l = 16 ∨ l = 32 ∨ l = 64) → (l ≤ old ∨ free) → ∃ t, exec (.claimv d a) s = .next t ∧ granted t (s.rg a)) ∧
      (s.src.given = none → (l = 8 ∨ l = 16 ∨ l = 32 ∨ l = 64) → ¬ (l ≤ old ∨ free) → ∃ t, exec (.claimv d a) s = .next t ∧ SameRegs s t ∧
        t.me.status = .waiting .claim ∧ t.me.pc = s.src.pc ∧ (t.room s.myRoom).vwait = (s.room s.myRoom).vwait ++ [(s.cur, l)]) ∧
      (∀ v, s.src.given = some v → ∃ t, exec (.claimv d a) s = .next t ∧ granted t v) ∧
      (s.src.given = none → l ≠ 8 → l ≠ 16 → l ≠ 32 → l ≠ 64 → s.HandsOver →
        ∃ t, exec (.claimv d a) s = .next t ∧ Stops s t 0x0B 0 (word (1 + a.toNat * 256)) (s.rg a)) ∧
      (∃ t, exec .relv s = .next t ∧ SameRegs s t ∧ t.me.lanes = 0 ∧ t.mem = s.mem)
  ) ∧
  (
    ∀ (d a : BitVec 5) (s : State), s.src.tile = s.me.tile → isPorch s.myCore = false →
      let w := s.rg a
      let set := w.toNat
      let new := set - (set &&& s.me.tile)
      let clean := fld w 63 36 = 0 ∧ fld w 15 0 = 0
      (s.src.given = none → clean → w ≠ 0 → (s.room s.myRoom).twait = [] → s.tileBusy s.myRoom s.cur &&& new = 0 →
        ∃ t, exec (.claimt d a) s = .next t ∧ OneReg s t d.toNat (word (s.me.tile ||| set)) ∧ t.me.tile = s.me.tile ||| set ∧ t.mem = s.mem) ∧
      (s.src.given = none → clean → new ≠ 0 → ((s.room s.myRoom).twait ≠ [] ∨ s.tileBusy s.myRoom s.cur &&& new ≠ 0) →
        ∃ t, exec (.claimt d a) s = .next t ∧ SameRegs s t ∧ t.me.status = .waiting .claim ∧ t.me.pc = s.src.pc ∧
          (t.room s.myRoom).twait = (s.room s.myRoom).twait ++ [(s.cur, set)]) ∧
      (∀ v, s.src.given = some v → ∃ t, exec (.claimt d a) s = .next t ∧ OneReg s t d.toNat (word (s.me.tile ||| v.toNat)) ∧
        t.me.tile = s.me.tile ||| v.toNat) ∧
      (s.src.given = none → (¬ clean ∨ w = 0) → s.HandsOver →
        ∃ t, exec (.claimt d a) s = .next t ∧ Stops s t 0x0B 0 (word (1 + a.toNat * 256)) (s.rg a)) ∧
      (clean → ∃ t, exec (.relt a) s = .next t ∧ SameRegs s t ∧ t.me.tile = s.me.tile - (s.me.tile &&& set) ∧ t.mem = s.mem) ∧
      (¬ clean → s.HandsOver → ∃ t, exec (.relt a) s = .next t ∧ Stops s t 0x0B 0 (word (1 + a.toNat * 256)) (s.rg a))
  )

/-- 05 R442; 06 R149: in a porch context the claims and the front and copy instructions raise the claim fault with CLAIM 0 and 0. 08 R192: without a lane
claim every lane-pool syllable raises the claim fault, and has no effect. That INFO1 is 1 is the model's reading of 23 R399 (log 19). -/
def Obligations.ClaimsAreNeeded : Prop :=
  (
    ∀ (d a b : BitVec 5) (e v : BitVec 1) (q : BitVec 3) (sc : BitVec 4) (n : BitVec 2) (s : State),
      isPorch s.myCore = true → s.src.given = none → s.HandsOver →
      ∀ i, i ∈ [Instr.claimv d a, .claimt d a, .cpy d a b e v q, .cpys d a b e v q, .cpym d a b v q, .fcfg a n, .fput d a b sc n, .fread d a sc n,
        .fmerge d a sc n, .fsave d a sc n, .fload d a sc n, .fclr n, .fstat d sc n] → ∃ t, exec i s = .next t ∧ Stops s t 0x0A 0 0 0
  ) ∧
  (
    ∀ (m x : BitVec 1) (t d a b c : BitVec 4) (r : BitVec 3) (ga gb : BitVec 5) (o : BitVec 6) (o' : BitVec 8) (sc : BitVec 4) (s : State),
      isPorch s.myCore = false → s.src.lanes = 0 → s.HandsOver →
      ∀ i, i ∈ [Instr.vaddF m t d a b r, .vsubF m t d a b r, .vmulF m t d a b r, .vfma m t d a b r, .vfms m t d a b r, .vminF m t d a b, .vmaxF m t d a b,
        .vabsF m t d a, .vnegF m t d a, .vaddI m t d a b x, .vsubI m t d a b x, .vmulI m t d a b, .vmulh m t d a b, .vminI m t d a b, .vmaxI m t d a b,
        .vabsI m t d a x, .vnegI m t d a x, .vand m t d a b, .vor m t d a b, .vxor m t d a b, .vshl m t d a b x, .vshr m t d a b, .vcmp m t a b c, .vsel d a b,
        .vcvt m t d a b c x r, .vqmx t d a b, .vdqmx t d a b, .vrcp m t d a r, .vrsq m t d a r, .vexp2 m t d a r, .vlog2 m t d a r, .vsin m t d a r,
        .vcos m t d a r, .vtanh m t d a r, .vclz m t d a, .vctz m t d a, .vpopc m t d a, .vshuf m d a b, .vsplat m t d ga, .vsplatSeq m t d ga gb, .vvote m d ga o,
        .vmatch m d a o', .vred m t d ga c, .vscan m t d a x c, .vins t d ga gb, .vext t d ga gb, .vld m d ga sc x, .vst m d ga sc x, .vlds m d ga gb sc x,
        .vsts m d ga gb sc x, .vgath m t d ga a sc x, .vscat m t d ga a sc x] →
        ∃ u, exec i s = .next u ∧ Stops s u 0x0A 0 s.src.claim 1
  )

/-- 06 R154 to R158; 03 R70: with ST.HP clear each hearth instruction raises the privilege fault. With it set, SLOTREAP vacates the slot of an ended task
and leaves a vacant one, and for an occupied one raises the slot-state fault; SLOTOWN says what a slot holds and whose it is; neither touches memory.
The model's choices: that this fault of SLOTREAP gives 0 for the event word (log 104), and that SLOTOWN gives STATE 1 for a halted or faulted slot too
(log 103). 06 R155; 02 R40, R33: SLOTSTART of a KIND 1 event for a vacant slot starts the task of the named start cell there: its entry, registers,
segments, numbers and handler; of KIND 2, the task of the named image, once the image and its block pass the checks of 02 R33; a task that a
pre-emption under way affects is halted where it stands (23 R406). The cell or image is used up. 06 R156, R157; 09 R228: SLOTREAP.save writes the
image of a task that is parked on a translation fault, holds no claim and has no access outstanding, with PARK 1 and the address it waits for; its
slot becomes vacant and the device remembers the image as lent. One that was parked for an access held at its port, which has been performed since,
goes on from its image. -/
def Obligations.HearthInstructions : Prop :=
  (
    ∀ (d a b : BitVec 5) (s : State),
      let slot := (s.rg a).toNat
      let ctx := 16 * s.myCore + slot
      (bitOf s.src.st.toNat 0 = false → s.HandsOver → ∀ i, i ∈ [Instr.slotstart a, .slotreap a, .slotreapSave a b, .slotown d a] →
        ∃ t, exec i s = .next t ∧ Stops s t 2 0 s.src.bits 0) ∧
      (bitOf s.src.st.toNat 0 = true → 1 ≤ slot → slot ≤ 15 →
        (((s.ctx ctx).status = .ended ∨ (s.ctx ctx).status = .vacant) → ∃ t, exec (.slotreap a) s = .next t ∧ (t.ctx ctx).status = .vacant ∧
          t.mem = s.mem ∧ ∀ c, c ≠ ctx → t.ctx c = s.ctx c) ∧
        ((s.ctx ctx).status = .ready → s.me.lateFault = none → ∃ t f, exec (.slotreap a) s = .next t ∧ (s.attic.dump.requested = false → t.me.status = .halted 4) ∧ (s.attic.dump.requested = true → t.me.status = .faulted f) ∧ f.kind = 9 ∧
          f.addr = 0 ∧ f.info0 = s.rg a ∧ t.attic.msgs = s.attic.msgs ++ [.fault s.me.gid s.cur f])) ∧
      (bitOf s.src.st.toNat 0 = true → slot ≤ 15 → ∃ t v, exec (.slotown d a) s = .next t ∧ OnlyMe s t ∧ SetsReg s t d.toNat v ∧
        (slot = 0 → v = 0x50000) ∧
        (slot ≠ 0 → tget 0 (s.core s.myCore).owners slot < 2 ^ 16 →
          fld v 15 0 = tget 0 (s.core s.myCore).owners slot ∧ fld v 63 16 = match (s.ctx ctx).status with
            | .vacant => 0
            | .ended => 3
            | .waiting (.translation _ _ _) => if (s.ctx ctx).lent then 4 else 2
            | .waiting .held => 2
            | _ => 1))
  ) ∧
  (
    ∀ (a : BitVec 5) (s : State), bitOf s.src.st.toNat 0 = true → s.me.status.going = true → slotOf s.cur = 0 →
      let ev := s.rg a
      let ctx := 16 * s.myCore + fld ev 3 0
      let addr := fld ev 57 6 * 64
      fld ev 3 0 ≠ 0 → fld ev 59 58 = 0 → fld ev 5 4 = 0 → (s.ctx ctx).status = .vacant →
      ((s.core s.myCore).closed = false ∨ fld ev 3 0 ∉ (s.core s.myCore).promised) →
      let stands := fun (gid : Word) (queue : Nat) => if s.preempts.any (fun p => p.affects (s.hallOf s.myCore) gid queue) then CStatus.halted 2 else .ready
      (∀ st, fld ev 63 60 = 1 → tfind s.cells addr = some st → st.flight = none → (∀ l, s.launch? st.lnum = some l → l.found = none ∧ l.lookFault = none) →
        ∃ t, exec (.slotstart a) s = .next t ∧ (t.ctx ctx).status = stands st.gid st.queue ∧ (t.ctx ctx).pc = st.entry ∧ (t.ctx ctx).place = .header ∧
          (∀ r, (t.ctx ctx).rg r = if r = 0 then 0 else tget 0 st.regs r) ∧ (∀ k, (t.ctx ctx).seg k = tget 0 st.segs k) ∧ (t.ctx ctx).gid = st.gid ∧
          (t.ctx ctx).grp = st.grp ∧ (t.ctx ctx).hnd = st.hnd ∧ (t.ctx ctx).st = 0 ∧ (t.ctx ctx).p = 0 ∧ (t.ctx ctx).fpc = 0 ∧ (t.ctx ctx).tc = 0 ∧
          tfind t.cells addr = none ∧ AwaitsReply s t) ∧
      (∀ r u v ws, fld ev 63 60 = 2 → tget [] s.shadow addr = [] → tfind s.images addr = some r → r.words = [] → r.refused = none →
        (s.setCore s.myCore fun k => { k with promised := k.promised.erase (fld ev 3 0) }).houseRead s.myHall addr 64 = .ok u ws →
        u.blockOk s.myHall ws addr = .ok v true → imageOk ws r = true → imgWord ws 0x188 = 0 →
        ∃ t, exec (.slotstart a) s = .next t ∧ (t.ctx ctx).status = stands (imgWord ws 0x160) r.queue ∧ (t.ctx ctx).pc = imgWord ws 0 ∧ (t.ctx ctx).p = imgWord ws 8 ∧
          (∀ k, k < 24 → (t.ctx ctx).rg k = if k = 0 then 0 else imgWord ws (0x10 + 8 * k)) ∧ (t.ctx ctx).gid = imgWord ws 0x160 ∧
          (t.ctx ctx).place = .walk ∧ tfind t.images addr = none ∧ t.mem = s.mem ∧ AwaitsReply s t)
  ) ∧
  (
    ∀ (a b : BitVec 5) (s u : State) (h : Nat) (acc : AccKind) (why : XReason) (x : Unit), bitOf s.src.st.toNat 0 = true → s.me.status.going = true →
      let slot := (s.rg a).toNat
      let ctx := 16 * s.myCore + slot
      let at' := (s.rg b).toNat
      let c := s.ctx ctx
      slotOf s.cur = 0 → 1 ≤ slot → slot ≤ 15 → at' % 64 = 0 → c.pinned = false → s.quiet ctx = true → c.rlog = [] →
      (c.status = .waiting (.translation h acc why) → c.heldWake = none → s.houseWrite s.myHall at' (c.imageWords 1 h 0 0) = .ok u x →
        ∃ t r, exec (.slotreapSave a b) s = .next t ∧ (t.ctx ctx).status = .vacant ∧ t.mem = u.mem ∧ tfind t.images at' = some r ∧ r.lent = true ∧
          r.gid = c.gid ∧ r.refused = none ∧ AwaitsReply s t) ∧
      (c.status = .waiting .held → s.houseWrite s.myHall at' (c.imageWords 1 c.parkA 0 0) = .ok u x →
        ∃ t r, exec (.slotreapSave a b) s = .next t ∧ (t.ctx ctx).status = .vacant ∧ t.mem = u.mem ∧ tfind t.images at' = some r ∧ r.lent = false ∧
          r.gid = c.gid ∧ AwaitsReply s t)
  )

/-- 06 R160, R161; 23 R399, R400: TRAP stops its context on the trap fault of its code and gA, BRK on the breakpoint fault, or halts it for debug when its
launch is armed. The bundle has completed: the record's PC names the next bundle, and so does the context's. 06 R162, R163; 24 R416, R421: TRC sends a
trace record of kind 0xC0 + k with gA and gB[31:0] to its hall's ring when SW, bit 0 of TC, is set, and does nothing otherwise; RDCTR reads a counter
of its core, zero above 28, and raises the operand fault above 255. -/
def Obligations.TrapsTraceAndCounters : Prop :=
  (
    ∀ (a : BitVec 5) (c : BitVec 10) (s : State), s.HandsOver →
      let stops := fun (i : Instr) (kind : Nat) (v : Word) => ∃ t f, exec i s = .next t ∧ OnlyMe { s with agenda := t.agenda } t ∧
        t.me = { s.me with status := .faulted f, lostAt := s.clock.cc } ∧ f.kind = kind ∧ f.pc = s.me.pc ∧ f.info0 = c.setWidth 64 ∧ f.info1 = v ∧ f.completed = true ∧
        .faultHandover s.cur ∈ t.agenda
      stops (.trap a c) 0x0F (s.rg a) ∧
      (s.armed s.src.lnum = false → stops (.brk c) 0x10 0) ∧
      (s.armed s.src.lnum = true → ∃ t, exec (.brk c) s = .next t ∧ OnlyMe s t ∧ t.me = { s.me with haltReq := 4 })
  ) ∧
  (
    ∀ (d a b : BitVec 5) (k : BitVec 6) (s : State),
      (bitOf s.src.tc.toNat 0 = false → exec (.trc a b k) s = .next s) ∧
      (bitOf s.src.tc.toNat 0 = true → s.myCore < allCores → ∃ t head pay, exec (.trc a b k) s = .next t ∧ t = { s with cores := t.cores, agenda := t.agenda, net := t.net, nextId := t.nextId } ∧
          t.Comes (.traceAppend s.myHall (word s.now) s.me.gid head pay) ∧ fld head 7 0 = 0xC0 + k.toNat ∧ fld head 63 32 = (s.rg b).toNat % 2 ^ 32 ∧
        pay = s.rg a ∧ ∀ c, c ≠ s.myCore → t.core c = s.core c) ∧
      ((s.rg a).toNat < 256 → ∃ t, exec (.rdctr d a) s = .next t ∧ OnlyMe s t ∧
        SetsReg s t d.toNat (if (s.rg a).toNat < 29 then word (tget 0 (s.core s.myCore).counters (s.rg a).toNat) else 0)) ∧
      (256 ≤ (s.rg a).toNat → s.HandsOver → ∃ t, exec (.rdctr d a) s = .next t ∧ Stops s t 0x0B 0 (word (1 + a.toNat * 256)) (s.rg a))
  )

/-- 06 R164, R165; 02 R33: TASKRES of the image of a fault-area entry of its launch, once the entry, the image and its block pass their checks, frees the
entry, and the task waits to be resumed in the hall that wrote the image; TASKKILL frees it and ends the task: the image is gone and LIVE falls. 02
R33; 06 R155; 23 R410; 24 R424, R425: DEBUG_RESUME reloads a halted task from the image that the attic left: PC, p and registers are what stands
there; with a broken image nothing happens. CLAIM_REESTABLISH asks for the saved lane claim, then for the saved tile set. -/
def Obligations.StoppedTasksGoOn : Prop :=
  (
    ∀ (a : BitVec 5) (s s1 s2 s3 s4 : State) (l : Launch) (r : ImgRec) (hd ps qs : List Phys), s.Quiet → s.me.status.going = true →
      let x := (s.rg a).toNat
      let e := x - 64
      let ws := ps.map fun p => s.loadW p.key
      s.launch? s.src.lnum = some l → l.farea + 64 ≤ x → (e - l.farea) % 576 = 0 → (e - l.farea) / 576 < l.fcap →
      s.ownSpan e rR 8 = .ok s1 hd → ((hd.take 1).map fun p => s1.get p 1) ≠ [0] → s1.ownSpan x rR 64 = .ok s2 ps →
      (∀ p, p ∈ ps → s.blurred p.key 8 = false) → tfind s.images x = some r →
      imgWord ws 0x180 = s.src.lrec → s2.blockOk s.myHall ws x = .ok s3 true → imageOk ws r = true → s3.ownSpan e rW 1 = .ok s4 qs → r.stop = none →
      (s.gangsOf (fld r.gid 63 48) r.grp = [] → ∃ t l' st, exec (.taskres a) s = .next t ∧ SameRegs s t ∧ AwaitsReply s t ∧ t.launch? s.src.lnum = some l' ∧ (l'.used = l.used - 1 ∨ l'.used = l.used - 2) ∧
        (t.hall r.hall).waiting = (s.hall r.hall).waiting ++ [st] ∧ st.image = some x ∧ st.gid = r.gid ∧ st.lrec = r.lrec ∧ st.queue = r.queue) ∧
      (imgWord ws 0x188 = 0 → fld r.gid 63 48 = s.src.lnum → ∃ t l', exec (.taskkill a) s = .next t ∧ SameRegs s t ∧ AwaitsReply s t ∧
        t.launch? s.src.lnum = some l' ∧ l'.live = l.live - 1 ∧ tfind t.images x = none)
  ) ∧
  (
    ∀ (s u v : State) (c : Nat) (r : ImgRec) (ws : List Word),
      let old := s.ctx c
      let hall := s.hallOf (coreOf c)
      let room := roomOf (coreOf c)
      ((old.status ≠ .halted 4 ∨ old.image = 0 ∨ s.attic.holding = true) → exec (.debugResume c) s = .next s) ∧
      (s.attic.holding = false → old.status = .halted 4 → old.image ≠ 0 → tfind s.images old.image = some r → s.houseRead hall old.image 64 = .ok u ws →
        (∀ good, u.blockOk hall ws old.image = .ok v good → (imageOk ws r = false ∨ good = false) → exec (.debugResume c) s = .next v) ∧
        (u.blockOk hall ws old.image = .ok v true → imageOk ws r = true → old.pinned = false → old.parkedPc = none → r.tiles = [] → r.copies = [] →
          ∃ t, exec (.debugResume c) s = .next t ∧ (t.ctx c).status = .ready ∧ (t.ctx c).pc = imgWord ws 0 ∧ (t.ctx c).p = imgWord ws 8 ∧
            (∀ k, 0 < k → k < 24 → (t.ctx c).rg k = imgWord ws (0x10 + 8 * k)) ∧ (t.ctx c).stopSkip = true ∧ tfind t.images old.image = none)) ∧
      (old.status ≠ .waiting .reestablish → exec (.claimReestablish c) s = .next s) ∧
      (old.status = .waiting .reestablish → old.asked = none → old.lanes ≠ claimLanes old.want → (s.room room).vwait.any (·.1 == c) = false →
        ∃ t, exec (.claimReestablish c) s = .next t ∧ t = { s with rooms := t.rooms, agenda := t.agenda } ∧
          (t.room room).vwait = (s.room room).vwait ++ [(c, claimLanes old.want)] ∧ .claimGrant room ∈ t.agenda) ∧
      (old.status = .waiting .reestablish → old.asked = none → old.lanes = claimLanes old.want → old.tile ≠ claimSet old.want →
        (s.room room).twait.any (·.1 == c) = false → ∃ t, exec (.claimReestablish c) s = .next t ∧ t = { s with rooms := t.rooms, agenda := t.agenda } ∧
          (t.room room).twait = (s.room room).twait ++ [(c, claimSet old.want)] ∧ .claimGrant room ∈ t.agenda)
  )

/-- 08 R196, R204; 07 R174, R187: the floating-point ALU and the special functions act element by element on the lanes that take part, each result one
rounding in the mode of RND or of FPC.RM. 08 R197, R198: packed integer arithmetic delivers the exact result of each element, clamped with SAT and
modulo 2^w without; the counts count within the element. No flag is raised. -/
def Obligations.VectorArithmetic : Prop :=
  (
    ∀ (m : BitVec 1) (t d a b : BitVec 4) (r : BitVec 3) (s : State), s.HasLanes → t.toNat ∈ [6, 7, 8] →
      let w := Machine.tyWidth t.toNat
      let f := fmt t.toNat
      let mode := if r = 0 then fld s.src.fpc 18 16 else r.toNat - 1
      let lanes := fun (i : Instr) (op : Nat → Nat → Nat → Nat × Nat) => GivesLanes i s m d fun i v =>
        Elements w (fun k e => e = (op (el w (s.vl a i) k) (el w (s.vl b i) k) (el w (s.vl d i) k)).1 % 2 ^ w) v
      lanes (.vaddF m t d a b r) (fun x y _ => f.finish mode (addVal mode (f.val x) (f.val y))) ∧
      lanes (.vsubF m t d a b r) (fun x y _ => f.finish mode (addVal mode (f.val x) (f.val y).negate)) ∧
      lanes (.vmulF m t d a b r) (fun x y _ => f.finish mode (mulVal (f.val x) (f.val y))) ∧
      lanes (.vfma m t d a b r) (fun x y z => f.finish mode (fmaVal mode (f.val x) (f.val y) (f.val z))) ∧
      lanes (.vfms m t d a b r) (fun x y z => f.finish mode (fmaVal mode (f.val x) (f.val y) (f.val z).negate)) ∧
      lanes (.vminF m t d a b) (fun x y _ => f.minMax false x y) ∧ lanes (.vmaxF m t d a b) (fun x y _ => f.minMax true x y) ∧
      lanes (.vabsF m t d a) (fun x _ _ => f.signOp false x) ∧ lanes (.vnegF m t d a) (fun x _ _ => f.signOp true x) ∧
      lanes (.vrcp m t d a r) (fun x _ _ => f.rcp mode x) ∧ lanes (.vrsq m t d a r) (fun x _ _ => f.rsq mode x) ∧
      lanes (.vexp2 m t d a r) (fun x _ _ => f.exp2 mode x) ∧ lanes (.vlog2 m t d a r) (fun x _ _ => f.log2 mode x) ∧
      lanes (.vsin m t d a r) (fun x _ _ => f.trig false mode x) ∧ lanes (.vcos m t d a r) (fun x _ _ => f.trig true mode x) ∧
      lanes (.vtanh m t d a r) (fun x _ _ => f.tanh mode x)
  ) ∧
  (
    ∀ (m q : BitVec 1) (t d a b : BitVec 4) (s : State), s.HasLanes → t.toNat ≤ 5 →
      let T := t.toNat
      let w := Machine.tyWidth T
      let sat := q == 1
      let shift := fun (y : Int) => (y % (w : Int)).toNat
      let lanes := fun (i : Instr) (P : Nat → Nat → Nat → Prop) =>
        ∃ u, exec i s = .next u ∧ u.me.raised = s.me.raised ∧
          WritesLanes s u m d fun i v => Elements w (fun k e => P (el w (s.vl a i) k) (el w (s.vl b i) k) e) v
      lanes (.vaddI m t d a b q) (fun x y e => Delivers T sat (tyInt T x + tyInt T y) e) ∧
      lanes (.vsubI m t d a b q) (fun x y e => Delivers T sat (tyInt T x - tyInt T y) e) ∧
      lanes (.vmulI m t d a b) (fun x y e => Delivers T false (tyInt T x * tyInt T y) e) ∧
      lanes (.vmulh m t d a b) (fun x y e => Delivers T false (tyInt T x * tyInt T y / (2 ^ w : Nat)) e) ∧
      lanes (.vminI m t d a b) (fun x y e => (e = x ∨ e = y) ∧ tyInt T e ≤ tyInt T x ∧ tyInt T e ≤ tyInt T y) ∧
      lanes (.vmaxI m t d a b) (fun x y e => (e = x ∨ e = y) ∧ tyInt T x ≤ tyInt T e ∧ tyInt T y ≤ tyInt T e) ∧
      lanes (.vabsI m t d a q) (fun x _ e => Delivers T sat (tyInt T x).natAbs e) ∧
      lanes (.vnegI m t d a q) (fun x _ e => Delivers T sat (0 - tyInt T x) e) ∧
      lanes (.vand m t d a b) (fun x y e => e = x &&& y) ∧ lanes (.vor m t d a b) (fun x y e => e = x ||| y) ∧
      lanes (.vxor m t d a b) (fun x y e => e = x ^^^ y) ∧
      lanes (.vshl m t d a b q) (fun x y e => Delivers T sat (tyInt T x * (2 ^ shift (tyInt T y) : Nat)) e) ∧
      lanes (.vshr m t d a b) (fun x y e => Delivers T false (tyInt T x / (2 ^ shift (tyInt T y) : Nat)) e) ∧
      lanes (.vclz m t d a) (fun x _ e => e = if x = 0 then w else w - 1 - Nat.log2 x) ∧
      lanes (.vctz m t d a) (fun x _ e => if x = 0 then e = w else 2 ^ e ∣ x ∧ ¬ 2 ^ (e + 1) ∣ x) ∧
      lanes (.vpopc m t d a) (fun x _ e => e = ((List.range w).filter fun k => x.testBit k).length)
  )

/-- 08 R200, R205 to R207: VSEL chooses by p; VSHUF moves the lane that the index lane names, zero for one at or above L; VSPLAT copies gA to every
element; VSPLAT.seq counts from gA by gB; VINS writes one lane and VEXT reads one, and a lane at or above L raises the claim fault. 08 R199, R208,
R209: VCMP sets bit i of p where lane i takes part and its condition holds, and clears every other; on .f32 a NaN is unordered, the two zeros are
equal, and a signalling NaN in a lane that takes part raises invalid; VVOTE and VMATCH count and order the lanes that take part. -/
def Obligations.VectorMovesAndVotes : Prop :=
  (
    ∀ (m : BitVec 1) (t d a b : BitVec 4) (ga gb : BitVec 5) (s : State), s.HasLanes → t.toNat ≤ 14 →
      let w := Machine.tyWidth t.toNat
      let lane := (s.rg gb).toNat
      GivesLanes (.vsel d a b) s 0 d (fun i v => v = if s.src.p.getLsbD i then s.vl a i else s.vl b i) ∧
      GivesLanes (.vshuf m d a b) s m d (fun i v => v = if s.vl b i < s.src.lanes then s.vl a (s.vl b i) else 0) ∧
      GivesLanes (.vsplat m t d ga) s m d (fun _ v => Elements w (fun _ e => e = (s.rg ga).toNat % if t.toNat = 11 ∨ t.toNat = 12 then 64 else 2 ^ w) v) ∧
      GivesLanes (.vsplatSeq m t d ga gb) s m d (fun i v => v = ((s.rg ga).toNat + i * (s.rg gb).toNat) % 2 ^ 32) ∧
      (lane < s.src.lanes →
        (∃ u, exec (.vins t d ga gb) s = .next u ∧ OnlyMe s u ∧ u.me = { s.me with vregs := u.me.vregs } ∧
          ∀ v i, i < 64 → u.me.lane v i = if v = d.toNat ∧ i = lane then (s.rg ga).setWidth 32 else s.me.lane v i) ∧
        GivesScalar (.vext t d ga gb) s ga (if t = 0 then (s.src.lane d.toNat lane).signExtend 64 else (s.src.lane d.toNat lane).setWidth 64)) ∧
      (s.src.lanes ≤ lane → s.HandsOver → ∀ i, i ∈ [Instr.vins t d ga gb, .vext t d ga gb] → ∃ u, exec i s = .next u ∧ Stops s u 0x0A 0 s.src.claim (s.rg gb))
  ) ∧
  (
    ∀ (m : BitVec 1) (t d a b c : BitVec 4) (g : BitVec 5) (o : BitVec 6) (o' : BitVec 8) (s : State), s.HasLanes →
      let holds := fun (i : Nat) (c : Nat) => let x := tyInt t.toNat (s.vl a i); let y := tyInt t.toNat (s.vl b i)
        (c = 0 ∧ x = y) ∨ (c = 1 ∧ x ≠ y) ∨ (c = 2 ∧ x < y) ∨ (c = 3 ∧ x ≤ y) ∨ (c = 4 ∧ y < x) ∨ (c = 5 ∧ y ≤ x)
      let isNan := fun (x : Nat) => 0x7F80_0000 < x % 2 ^ 31
      let unordered := fun (i : Nat) => isNan (s.vl a i) ∨ isNan (s.vl b i)
      let signals := fun (i : Nat) => isNan (s.vl a i) ∧ (s.vl a i).testBit 22 = false ∨ isNan (s.vl b i) ∧ (s.vl b i).testBit 22 = false
      let rank := fun (x : Nat) => if x.testBit 31 then -((x % 2 ^ 31 : Nat) : Int) else ((x % 2 ^ 31 : Nat) : Int)
      let holdsF := fun (i : Nat) (c : Nat) => let x := rank (s.vl a i); let y := rank (s.vl b i)
        (c = 1 ∧ (unordered i ∨ x ≠ y)) ∨ (c = 6 ∧ unordered i) ∨
          ¬ unordered i ∧ ((c = 0 ∧ x = y) ∨ (c = 2 ∧ x < y) ∨ (c = 3 ∧ x ≤ y) ∨ (c = 4 ∧ y < x) ∨ (c = 5 ∧ y ≤ x) ∨ c = 7)
      let part := (List.range s.src.lanes).filter fun i => m == 0 || s.src.p.getLsbD i
      let votes := part.filter fun i => s.vl a i != 0
      let same := fun (i : Nat) => part.filter fun j => s.vl a j == s.vl a i
      ((t = 0 ∨ t = 3) → c.toNat ≤ 5 → ∃ u, exec (.vcmp m t a b c) s = .next u ∧ OnlyMe s u ∧ u.me = { s.me with p := u.me.p } ∧
        ∀ i, i < 64 → (u.me.p.getLsbD i = true ↔ s.Takes m i ∧ holds i c.toNat)) ∧
      (t = 6 → c.toNat ≤ 7 → ∃ u, exec (.vcmp m t a b c) s = .next u ∧ OnlyMe s u ∧ u.me = { s.me with p := u.me.p, raised := u.me.raised } ∧
        (∀ i, i < 64 → (u.me.p.getLsbD i = true ↔ s.Takes m i ∧ holdsF i c.toNat)) ∧
        ((∃ i, s.Takes m i ∧ signals i) → u.me.raised = s.me.raised ||| 16) ∧ ((∀ i, s.Takes m i → ¬ signals i) → u.me.raised = s.me.raised)) ∧
      (o.toNat ≤ 4 → GivesScalar (.vvote m a g o) s g (word (
        if o.toNat = 0 then (if votes = [] then 0 else 1)
        else if o.toNat = 1 then (if votes = part then 1 else 0)
        else if o.toNat = 2 then votes.foldl (fun acc i => acc + 2 ^ i) 0
        else if o.toNat = 3 then votes.length
        else votes.headD 64))) ∧
      (o'.toNat ≤ 2 → GivesLanes (.vmatch m d a o') s m d fun i v => v =
        if o'.toNat = 0 then (same i).headD 0 else if o'.toNat = 1 then (same i).length else ((same i).filter (· < i)).length)
  )

/-- 08 R210, R211: VRED combines the lanes that take part, with the identity for the others; VSCAN gives each lane that takes part the running combination
before it or with it. On integers the order does not matter; on .f32 VRED goes by the tree of R210 and VSCAN from lane 0 on. 08 R201 to R203; 07 R182,
R183: VCVT converts the elements of the part that its index names; VQMX gives each block of 32 values one scale and their elements, VDQMX takes them
back; both need 32 lanes, and that the claim fault of fewer has INFO1 = 1 is the model's choice (log 19). -/
def Obligations.VectorReductionsAndConversions : Prop :=
  (
    ∀ (m e : BitVec 1) (t d a o : BitVec 4) (g : BitVec 5) (s : State), s.HasLanes → s.src.lanes ∈ [8, 16, 32, 64] → t.toNat ∈ [0, 3, 6] → o.toNat ≤ 5 →
      (t = 6 → o.toNat ≤ 2) →
      let one := redId t.toNat o.toNat
      let op := fun x y => (redOp t.toNat o.toNat x y).1
      let xs := (List.range s.src.lanes).map fun i => if m == 0 || s.src.p.getLsbD i then s.vl a i else one
      (t ≠ 6 → ∃ x, x = xs.foldl op one ∧ GivesScalar (.vred m t a g o) s g (if t = 0 then (BitVec.ofNat 32 x).signExtend 64 else word x)) ∧
      (t = 6 → GivesScalar (.vred m t a g o) s g (word ((tree 6 o.toNat (Nat.log2 s.src.lanes) xs 0).1 % 2 ^ 32))) ∧
      GivesLanes (.vscan m t d a e o) s m d fun i v => v = (xs.take (if e = 1 then i else i + 1)).foldl op one % 2 ^ 32
  ) ∧
  (
    ∀ (m x : BitVec 1) (t d a b h src : BitVec 4) (r : BitVec 3) (s : State), s.HasLanes →
      let w := Machine.tyWidth t.toNat
      let per := 32 / w
      let blocks := s.src.lanes / 32
      let cv := fun y => (cvt src.toNat t.toNat (if r = 0 then fld s.src.fpc 18 16 else r.toNat - 1) (x == 1) y).1 % 2 ^ w
      let ws := Machine.tyWidth src.toNat
      (t.toNat ≤ 14 → src.toNat ≤ 14 → ws < w → h.toNat < w / ws →
        GivesLanes (.vcvt m t d a h src x r) s m d fun i v => Elements w (fun k e => e = cv (el ws (s.vl a i) (h.toNat * (32 / w) + k))) v) ∧
      (t.toNat ≤ 14 → src.toNat ≤ 14 → w ≤ ws → h.toNat < ws / w →
        GivesLanes (.vcvt m t d a h src x r) s m d fun i v => Elements w (fun k e =>
          e = if h.toNat * (32 / ws) ≤ k ∧ k < (h.toNat + 1) * (32 / ws) then cv (el ws (s.vl a i) (k - h.toNat * (32 / ws))) else el w (s.vl d i) k) v) ∧
      (9 ≤ t.toNat → t.toNat ≤ 14 → s.src.lanes ∈ [32, 64] → d ≠ b → ∃ u, exec (.vqmx t d a b) s = .next u ∧ OnlyMe s u ∧
        u.me = { s.me with vregs := u.me.vregs, raised := u.me.raised } ∧ (∀ v i, i < 64 → v ≠ d.toNat → v ≠ b.toNat → u.me.lane v i = s.me.lane v i) ∧
        ∀ j, j < blocks → let q := quantise t.toNat ((List.range 32).map fun i => s.vl a (32 * j + i))
          el 8 (u.me.lane b.toNat 0).toNat j = q.1 % 256 ∧
          ∀ k, k < 32 → el w (u.me.lane d.toNat ((32 * j + k) / per)).toNat (k % per) = q.2.1.getD k 0 % 2 ^ w) ∧
      (9 ≤ t.toNat → t.toNat ≤ 14 → s.src.lanes ∈ [32, 64] → GivesLanes (.vdqmx t d a b) s 0 d fun i v =>
        v = (dequantise t.toNat (fld s.src.fpc 18 16) (el 8 (s.vl b 0) (i / 32)) (el w (s.vl a (i / per)) (i % per))).1 % 2 ^ 32) ∧
      (s.src.lanes < 32 → s.HandsOver → ∀ i, i ∈ [Instr.vqmx t d a b, .vdqmx t d a b] → ∃ u, exec i s = .next u ∧ Stops s u 0x0A 0 s.src.claim 1)
  )

/-- 10 R237 to R239; 13 R300: the vector loads and stores check every lane that takes part before any is performed; each such lane is loaded from, or
stored to, its own address: consecutive, strided by gB, or gA plus four times an index lane. The plain forms are performed and await their reply; the
relaxed ones become one more outstanding access of the context, which goes on; its lanes in the issuer's own store are performed at issue and the
others are outstanding, and a lane that meets a translation fault parks the bundle before any lane is performed (the model's choice, log 99). What the
lanes hold is said for addresses outside paged space, and for a store whose lanes do not overlap. -/
def Obligations.VectorMemoryResults : Prop :=
  ∀ (m r : BitVec 1) (t v ix : BitVec 4) (a b : BitVec 5) (sc : BitVec 4) (s : State) (ls : List (Nat × Nat)) (off : Nat → Int) (i : Instr),
    s.HasLanes → s.me.status.going = true →
    let plain := r = 0 ∧ ∀ l, l ∈ ls → s.conflicts l.2 = false
    let relaxed := r = 1 ∧ s.me.relaxed.length < 4
    let outside := ∀ l, l ∈ ls → unitOf l.2 ≠ .paged ∧ s.badWord l.2 = false ∧ s.physOffline (.house l.2) = false ∧ s.blurred l.2 4 = false
    let here := ls.all fun l => s.own l.2
    let far := ls.filter fun l => !s.own l.2
    let placed := fun right => ∃ u ps, s.lanePlaces s.myCore right (ls.map (·.2)) = .ok u ps
    ((i = .vld m v a sc r ∧ off = (fun l : Nat => 4 * (l : Int)) ∨ i = .vlds m v a b sc r ∧ off = (fun l : Nat => (l : Int) * (s.rg b).toInt) ∨
        i = .vgath m t v a ix sc r ∧ off = fun l : Nat => 4 * tyInt t.toNat (s.vl ix l)) →
      s.laneAddrs (s.rg a) rR off (s.taking m) = .ok ls →
      (∀ w, plain → s.performLoads s.cur v.toNat ls = .done w → ∃ t', exec i s = .next t' ∧ t'.mem = s.mem ∧ SameRegs s t' ∧ AwaitsReply s t' ∧
        (∀ r j, j < 64 → t'.me.lane r j = w.me.lane r j) ∧ (∀ r j, j < 64 → r ≠ v.toNat → t'.me.lane r j = s.me.lane r j) ∧
        ∀ j, j < 64 → ¬ s.Takes m j → t'.me.lane v.toNat j = s.me.lane v.toNat j) ∧
      (outside → (∀ l, l ∈ ls → s.tileHits s.cur l.2 4 false = false) → ∃ w, s.performLoads s.cur v.toNat ls = .done w ∧
        ∀ l, l ∈ ls → (w.me.lane v.toNat l.1).toNat = memLoad s.mem l.2 4) ∧
      (∀ u h why, relaxed → s.lanePlaces s.myCore rR (ls.map (·.2)) = .no (.held u h .vector why) → exec i s = .next (u.parkTranslation h .vector why)) ∧
      (relaxed → placed rR → ∃ t' e, exec i s = .next t' ∧ t'.mem = s.mem ∧ SameRegs s t' ∧ t'.me.status = s.me.status ∧
        t'.me.relaxed = s.me.relaxed ++ [e] ∧ e.op = .vload v.toNat (if here then ls else far) ∧ e.done = here ∧
        (e.unsent = true → s.holdsBack s.cur e = true) ∧ (e.unsent = false → t'.Comes (.relaxedLoadData s.cur e.id)) ∧
        (outside → (∀ l, l ∈ ls → s.tileHits s.cur l.2 4 false = false) → ∀ l, l ∈ ls → s.own l.2 = true →
          (t'.me.lane v.toNat l.1).toNat = memLoad s.mem l.2 4) ∧
        ∀ r j, j < 64 → (∀ l, l ∈ ls → s.own l.2 = true → ¬ (r = v.toNat ∧ j = l.1)) → t'.me.lane r j = s.me.lane r j)) ∧
    ((i = .vst m v a sc r ∧ off = (fun l : Nat => 4 * (l : Int)) ∨ i = .vsts m v a b sc r ∧ off = (fun l : Nat => (l : Int) * (s.rg b).toInt) ∨
        i = .vscat m t v a ix sc r ∧ off = fun l => 4 * tyInt t.toNat (s.vl ix l)) →
      let vs := ls.map fun l => (s.vl v l.1, l.2)
      s.laneAddrs (s.rg a) rW off (s.taking m) = .ok ls → s.PassesScope sc →
      (∀ w, plain → s.performStores s.cur vs = .done w → ∃ t', exec i s = .next t' ∧ t'.mem = w.mem ∧ SameRegs s t' ∧ AwaitsReply s t') ∧
      (outside → ls.Pairwise (fun x y => x.2 + 4 ≤ y.2 ∨ y.2 + 4 ≤ x.2) → ∃ w, s.performStores s.cur vs = .done w ∧
        (∀ l, l ∈ ls → memLoad w.mem l.2 4 = s.vl v l.1) ∧ ∀ k, (∀ l, l ∈ ls → k < l.2 ∨ l.2 + 4 ≤ k) → memGet w.mem k = memGet s.mem k) ∧
      (∀ u h why, relaxed → s.lanePlaces s.myCore rW (ls.map (·.2)) = .no (.held u h .vector why) → exec i s = .next (u.parkTranslation h .vector why)) ∧
      (relaxed → placed rW → ∃ t' e, exec i s = .next t' ∧ SameRegs s t' ∧ t'.me.status = s.me.status ∧ t'.me.relaxed = s.me.relaxed ++ [e] ∧
        e.op = .vstore (if here then vs else vs.filter fun l => !s.own l.2) ∧ e.done = here ∧
        (e.unsent = true → s.holdsBack s.cur e = true) ∧ (e.unsent = false → t'.Comes (.relaxedAcknowledgement s.cur e.id)) ∧
        (outside → ls.Pairwise (fun x y => x.2 + 4 ≤ y.2 ∨ y.2 + 4 ≤ x.2) → ∀ l, l ∈ ls → s.own l.2 = true → memLoad t'.mem l.2 4 = s.vl v l.1) ∧
        (outside → ∀ k, (∀ l, l ∈ ls → s.own l.2 = true → k < l.2 ∨ l.2 + 4 ≤ k) → memGet t'.mem k = memGet s.mem k)))

/-- 10 R240, 09 R218: on a table of 4n entries in the issuer's own store, LKUP returns the lowest entry of the key's set that is valid and holds the key,
or all ones; TAGSET writes the key and VALID of an entry of the key's set, TAGINV clears VALID, each keeping the rest of the entry. A misplaced table
raises the operand fault. Where a tile command of the same task that is not complete is to write the set, LKUP sees undefined bytes (12 R278, 13 R292;
log 77). -/
def Obligations.TagTableResults : Prop :=
  ∀ (d a b : BitVec 5) (s : State) (t n : Nat), isPorch s.myCore = false → s.me.status.going = true →
    let set := tagSet (s.rg b) n
    let key := fun (e : Nat) => memLoad s.mem (t + 64 + 16 * e) 8
    let info := fun (e : Nat) => memLoad s.mem (t + 64 + 16 * e + 8) 8
    let table := fun (right : Nat) (c : Cls) => s.resolve (s.rg a) 0 8 1 right c = .ok t ∧ s.own t = true ∧ t % 64 = 0 ∧ s.badWord t = false ∧
      memLoad s.mem t 8 = n ∧ n ∈ [1, 2, 4, 8, 16, 32, 64, 128, 256] ∧ t % 0x4_0000 + 64 + 64 * n ≤ 0x4_0000 ∧
      fld (s.rg a) 60 0 + 64 + 64 * n ≤ segLimit (s.src.seg (fld (s.rg a) 63 61))
    (table rR .span → s.badSpan (t + 64 + 64 * set) 64 = false → s.tileHits s.cur (t + 64 + 64 * set) 64 false = true → ∃ u v, exec (.lkup d a b) s = .next u ∧
      Replied { s with fresh := u.fresh } u d.toNat v ∧ (v = 0xFFFF_FFFF_FFFF_FFFF ∨ ∃ w, w < 4 ∧ v = word (4 * set + w))) ∧
    (table rR .span → s.badSpan (t + 64 + 64 * set) 64 = false → s.tileHits s.cur (t + 64 + 64 * set) 64 false = false → ∃ u v, exec (.lkup d a b) s = .next u ∧ Replied s u d.toNat v ∧
      let hit := fun (w : Nat) => 2 ^ 63 ≤ info (4 * set + w) ∧ key (4 * set + w) = (s.rg b).toNat
      ((∀ w, w < 4 → ¬ hit w) ∧ v = 0xFFFF_FFFF_FFFF_FFFF ∨ ∃ w, w < 4 ∧ hit w ∧ (∀ x, x < w → ¬ hit x) ∧ v = word (4 * set + w))) ∧
    (table rW .scalarStore → (s.rg d).toNat / 4 = set → s.badSpan (t + 64 + 64 * set) 64 = false → ∃ u, exec (.tagset d a b) s = .next u ∧
      Stored s u (t + 64 + 16 * (s.rg d).toNat) 16 ((s.rg b).toNat + 2 ^ 64 * (2 ^ 63 + info (s.rg d).toNat % 2 ^ 63)) ∧ StoreFrame { s with rooms := u.rooms } u ∧
      (s.tileHits s.cur (t + 64 + 16 * (s.rg d).toNat) 16 true = false → u.rooms = s.rooms) ∧ AwaitsReply s u) ∧
    (table rW .scalarStore → (s.rg b).toNat < 4 * n → s.badSpan (t + 64 + 64 * ((s.rg b).toNat / 4)) 64 = false → ∃ u, exec (.taginv a b) s = .next u ∧
      Stored s u (t + 64 + 16 * (s.rg b).toNat + 8) 8 (info (s.rg b).toNat % 2 ^ 63) ∧ StoreFrame { s with rooms := u.rooms } u ∧
      (s.tileHits s.cur (t + 64 + 16 * (s.rg b).toNat + 8) 8 true = false → u.rooms = s.rooms) ∧ AwaitsReply s u) ∧
    (s.resolve (s.rg a) 0 8 1 rR .span = .ok t → (s.own t = false ∨ t % 64 ≠ 0) → s.HandsOver →
      ∃ u, exec (.lkup d a b) s = .next u ∧ Stops s u 0x0B 0 (word (1 + a.toNat * 256)) (s.rg a))

/-- 12 R275, R276, R281 to R289: a tile syllable whose task claims the parts it names, whose descriptors serve and whose spans resolve joins the tile
queue of its room behind what stands there, with the descriptors and the rounding mode of its issue, and its context goes on; it does not issue while
the queue holds 32 or 8 of the task's own. Without the parts it raises the claim fault. 12 R274, R277, R282, R285 to R287; 07 R184, R185: what the
steps of the engine do. A pass step sets 16 rows of its accumulator to the reduction of the old value and the products, and keeps the others; TZERO
zeroes an accumulator or a register; TLW leaves the register in its plane where no pass is under way; a TLD step brings 16 rows, zero past the valid
ones. A step whose banks others win in its cycle is tried again in the next (05 R115). An empty or stopped engine does nothing. The model's choices: a
step does nothing while the attic holds (log 96), nor, as a command's first, before the reply that the command's bundle awaits (log 52), and
TDRAIN.byp takes its second register modulo 16 (log 44). -/
def Obligations.TileEngine : Prop :=
  (
    ∀ (a b : BitVec 4) (c n : BitVec 2) (g h : BitVec 5) (sc z : BitVec 1) (ty : BitVec 4) (s : State) (i : Instr) (parts span stride : Nat) (control : Word)
        (descs : List Word), isPorch s.myCore = false →
      let da := s.td a.toNat
      let db := s.td b.toNat
      let plane := s.planeDesc c
      let wh := (s.rg h).toNat
      let reg := 2 ^ (16 + a.toNat)
      let acc := 2 ^ (32 + c.toNat)
      let spans := fun (len right : Nat) => span = segBase (s.src.seg (fld (s.rg g) 63 61)) + fld (s.rg g) 60 0 ∧ oneStore span len = true ∧
        s.resolve (s.rg g) 0 len 8 right .tile = .ok span
      let next := (a.toNat + 1) % 16
      (i = .tld a g h ∧ parts = reg ∧ wh % 8 = 0 ∧ spans (spanOf (tdRows da) 128 wh) rR ∧ stride = wh ∧ control = 0 ∧ descs = [da] ∨
        i = .tst a g h ∧ parts = reg ∧ wh % 8 = 0 ∧ 128 ≤ wh ∧ spans (spanOf (tdRows da) 128 wh) rW ∧ stride = wh ∧ control = 0 ∧ descs = [da] ∨
        i = .tldx a g h ∧ parts = reg ∧ tdFmt da ≠ 0 ∧ tdFmt da ≠ 13 ∧ wh % 256 = 0 ∧ wh / 256 % 2 = 1 ∧ wh / 256 ≤ 1023 ∧
          inRoom s.myRoom span (spanOf (depthOf (tdFmt da)) (16 * boxOf (tdFmt da)) wh) = true ∧ span % (16 * boxOf (tdFmt da)) = 0 ∧
          span = segBase (s.src.seg (fld (s.rg g) 63 61)) + fld (s.rg g) 60 0 ∧
          s.resolve (s.rg g) 0 (spanOf (depthOf (tdFmt da)) (16 * boxOf (tdFmt da)) wh) 8 rR .tile = .ok span ∧ stride = wh ∧ control = 0 ∧ descs = [da] ∨
        i = .tscl a g ∧ parts = reg ∧ spans 1024 rR ∧ stride = 0 ∧ control = 0 ∧ descs = [] ∨
        i = .tsclSt a g ∧ parts = reg ∧ spans 1024 rW ∧ stride = 0 ∧ control = 0 ∧ descs = [] ∨
        i = .tlw b c ∧ parts = 2 ^ (16 + b.toNat) + acc ∧ tdFmt db ≠ 0 ∧ span = 0 ∧ stride = 0 ∧ control = 0 ∧ descs = [db] ∨
        i = .tmma a c ∧ parts = reg + acc ∧ tdFmt da ≠ 0 ∧ tdFmt plane ≠ 0 ∧ depthOf (tdFmt da) = depthOf (tdFmt plane) ∧ span = 0 ∧ stride = 0 ∧
          control = 0 ∧ descs = [da, plane] ∨
        i = .tmmaW a b c n ∧ parts = tregRun a.toNat (n.toNat + 1) ||| tregRun b.toNat (n.toNat + 1) ||| acc ∧
          (∀ k, k ≤ n.toNat → tdFmt (s.td (a.toNat + k)) ≠ 0 ∧ tdFmt (s.td (b.toNat + k)) ≠ 0 ∧
            depthOf (tdFmt (s.td (a.toNat + k))) = depthOf (tdFmt (s.td (b.toNat + k)))) ∧ span = 0 ∧ stride = 0 ∧ control = 0 ∧
          descs = (List.range (n.toNat + 1)).flatMap (fun k => [s.td (a.toNat + k), s.td (b.toNat + k)]) ∨
        i = .tzero c ∧ parts = acc ∧ span = 0 ∧ stride = 0 ∧ control = 0 ∧ descs = [] ∨
        i = .tzeroT a ∧ parts = reg ∧ span = 0 ∧ stride = 0 ∧ control = 0 ∧ descs = [] ∨
        i = .tdrain c g h sc ty ∧ parts = acc ∧ fld (s.rg h) 63 51 = 0 ∧ fld (s.rg h) 30 24 = 0 ∧ stride = fld (s.rg h) 23 0 ∧ stride % 8 = 0 ∧
          128 * drainSize ty.toNat ≤ stride ∧ (fld (s.rg h) 50 50 = 1 → fld (s.rg h) 49 32 % 8 = 0) ∧
          spans (spanOf 128 (128 * drainSize ty.toNat) stride) rW ∧ control = s.rg h ∧ descs = [] ∨
        i = .tdrainByp a c sc z ∧ parts = reg + acc ∧ tdFmt da ≠ 0 ∧
          (depthOf (tdFmt da) = 64 → s.src.tile.testBit (16 + next) = true ∧ tdFmt (s.td next) = tdFmt da) ∧ span = 0 ∧ stride = 0 ∧ control = 0 ∧ descs = [da]) →
      let q := (s.room s.myRoom).tileQ
      let mine := (s.tilesOf s.cur s.src.gid).length
      (s.src.tile &&& parts = parts → q.length < 32 → mine < 8 → s.tileFailed = false →
        ∃ t e, exec i s = .next t ∧ t = { s with rooms := t.rooms, agenda := t.agenda } ∧ (∀ r, r ≠ s.myRoom → t.room r = s.room r) ∧
          t.room s.myRoom = { s.room s.myRoom with tileQ := q ++ [e] } ∧ e.ctx = s.cur ∧ e.gid = s.src.gid ∧ e.instr = i ∧ e.span = span ∧ e.stride = stride ∧
          e.control = control ∧ e.descs = descs ∧ e.rm = fld s.src.fpc 18 16 ∧ e.step = 0 ∧ e.parked = none) ∧
      (s.src.tile &&& parts = parts → (32 ≤ q.length ∨ 8 ≤ mine) → ∃ t, exec i s = .next t ∧ t.me.status = .waiting .retry ∧ t.me.pc = s.src.pc ∧
        t.rooms = s.rooms ∧ t.mem = s.mem ∧ SameRegs s t) ∧
      (s.src.tile &&& parts ≠ parts → s.HandsOver → ∃ t, exec i s = .next t ∧ Stops s t 0x0A 0 s.src.claim (word parts))
  ) ∧
  (
    ∀ (s : State) (room : Nat),
      let old := (s.room room).tile
      ((nextTile [] (s.room room).tileQ = none ∨ (s.room room).stopped = true ∨ s.attic.holding = true) → exec (.tileStep room) s = .next s) ∧
      (∀ c, nextTile [] (s.room room).tileQ = some c → c.step = 0 → s.pendingPc c.ctx c.pc = true → exec (.tileStep room) s = .next s) ∧
      ∀ (c : TileCmd), nextTile [] (s.room room).tileQ = some c → (s.room room).stopped = false → s.attic.holding = false → (c.step = 0 → s.pendingPc c.ctx c.pc = false) →
        (∀ p, c.instr = .tzero p → ∃ t, exec (.tileStep room) s = .next t ∧ SameRegs s t ∧ (t.room room).tileQ = (s.room room).tileQ.erase c ∧
          ∀ x m, x < 4 → m < 16384 → tget 0 (t.room room).tile.acc (16384 * x + m) = if x = p.toNat then 0 else tget 0 old.acc (16384 * x + m)) ∧
        (∀ a, c.instr = .tzeroT a → ∃ t, exec (.tileStep room) s = .next t ∧ SameRegs s t ∧
          ∀ x k, x < 16 → k < 16384 → tget 0 (t.room room).tile.rows (16384 * x + k) = if x = a.toNat then 0 else tget 0 old.rows (16384 * x + k)) ∧
        (∀ b p, c.instr = .tlw b p → p.toNat ∉ old.passing → ∃ t, exec (.tileStep room) s = .next t ∧
          tget 0 (t.room room).tile.pdesc p.toNat = c.descs.headD 0 ∧
          ∀ k, k < 16384 → tget 0 (t.room room).tile.prow (16384 * p.toNat + k) = tget 0 old.rows (16384 * b.toNat + k)) ∧
        (∀ a p x w, c.instr = .tmma a p → c.descs = [x, w] → tdRows w ≤ 128 → c.step < 8 → ∃ t, exec (.tileStep room) s = .next t ∧ SameRegs s t ∧ t.mem = s.mem ∧
          ∀ y m n, y < 4 → m < 128 → n < 128 → tget 0 (t.room room).tile.acc (16384 * y + 128 * m + n) =
            if y = p.toNat ∧ m / 16 = c.step ∧ m < tdRows x ∧ n < tdRows w then passElem old a.toNat p.toNat x w m n
            else tget 0 old.acc (16384 * y + 128 * m + n)) ∧
        (∀ a g h d u ps, c.instr = .tld a g h → c.descs = [d] → c.step < 8 → c.spoilt = false →
          s.bankTaken 3 (rowWords c.span c.stride 128 ((rowsOf c.step).filter fun m => decide (m < tdRows d))) = false →
          s.places (room / 24) rR (rowWords c.span c.stride 128 ((rowsOf c.step).filter fun m => decide (m < tdRows d))) = .ok u ps → (∀ p, p ∈ ps → u.blurred p.key 8 = false) →
          ∃ t, exec (.tileStep room) s = .next t ∧ t.mem = s.mem ∧ ∀ m j, m / 16 = c.step → j < 16 →
            getBytes (t.room room).tile.rows (16384 * a.toNat + 128 * m + 8 * j) =
              if m < tdRows d then memLoad s.mem (ps.getD (16 * (m - 16 * c.step) + j) (.host 0)).key 8 else 0) ∧
        (∀ a g h d, c.instr = .tld a g h → c.descs = [d] →
          s.bankTaken 3 (rowWords c.span c.stride 128 ((rowsOf c.step).filter fun m => decide (m < tdRows d))) = true →
          exec (.tileStep room) s = .next { s with later := s.later ++ [.tileStep room] })
  )

/-- 05 R108: the context that issues is the first, in the order of the pointer, that is ready and issued eight or more cc before; standing in a block,
with its bundle fetched, legal, free of pending registers and of a busy bank, it latches that bundle. With none, only counters change. A bundle that
breaks a placement rule (04 R88, R91) raises the illegal-instruction fault. 04 R82 to R85; 05 R120: entering a word as a header. One that fails its
checks raises the block-header fault with its address; a filler moves the PC on; a block whose span the segment holds is entered at its first bundle.
HEADER_WALK finds the block of a PC in the line's first block; RN_TILE_GIVE_UP releases the tile claim. -/
def Obligations.IssueAndEntry : Prop :=
  (
    ∀ (core : Nat) (s : State), core < 6240 →
      let slot := fun (k : Nat) => 16 * core + ((s.core core).ptr + k) % 16
      let may := fun (c : Nat) => (s.ctx c).status = .ready ∧ ∀ t, (s.ctx c).lastIssue = some t → t + 8 ≤ s.clock.cc
      ((∀ k, k < 16 → ¬ may (slot k)) → ∃ t, exec (.issueCycle core) s = .next t ∧ t = { s with cores := t.cores }) ∧
      ∀ (k : Nat) (hdr b w : Word) (v : State) (h : Nat) (i j : Instr), k < 16 → may (slot k) → (∀ m, m < k → ¬ may (slot m)) →
        (s.ctx (slot k)).place = .block hdr b → ((s.ctx (slot k)).stopSkip = true ∨ (s.hall (s.hallOf core)).stops = []) →
        ({ s.histogram core with cur := slot k, view := none } : State).fetch (s.ctx (slot k)).pc = .got v w h → decodeBundle w = .ok (i, j) →
        let u := v.setMe fun c => { c with bits := w }
        (misplaced u.me.following i j = false → hindered u.me.relaxed i j = false → u.losesBank (slot k) i j = false →
          ∃ t, exec (.issueCycle core) s = .next t ∧ t.latch = some (slot k) ∧ t.issuing = true ∧ (t.ctx (slot k)).bits = w ∧ t.mem = s.mem ∧ SameRegs s t) ∧
        (misplaced u.me.following i j = true → (∀ m, m < 16 → m ≠ k → ¬ may (slot m)) → (s.ctx (slot k)).lnum ≠ 0 → (s.ctx (slot k)).lateFault = none →
          ∃ t, exec (.issueCycle core) s = .next t ∧ FaultsAt t (slot k) 1 0 0 ∧ (t.ctx (slot k)).pc = (s.ctx (slot k)).pc ∧ t.mem = s.mem)
  ) ∧
  (
    (∀ (s u : State) (w : Word) (h : Nat), s.view = none → s.fetch s.me.pc = .got u w h →
      let pc := s.me.pc
      let at' := fun (n : Nat) => pcWord pc ((fld pc 60 0 : Int) + n)
      (hdrOk w = false → s.HandsOver → ∃ f, s.enterHeader.me.status = .faulted f ∧ f.kind = 7 ∧ f.pc = pc ∧ f.addr = pc ∧ f.info0 = 0) ∧
      (hdrOk w = true → fld w 7 0 = 0 → s.enterHeader = u.setMe fun c => { c with pc := at' 8, place := .header }) ∧
      (hdrOk w = true → fld w 7 0 ≠ 0 → fld w 55 55 = 0 → fld w 53 53 = 0 → fld pc 60 0 + 8 * fld w 7 0 + 8 ≤ segLimit (s.me.seg (fld pc 63 61)) →
        s.enterHeader = u.setMe fun c => { c with pc := at' 8, place := .block pc w, written := 0, entered := false }) ∧
      (hdrOk w = true → fld w 7 0 ≠ 0 → segLimit (s.me.seg (fld pc 63 61)) < fld pc 60 0 + 8 * fld w 7 0 + 8 → s.HandsOver →
        ∃ f, s.enterHeader.me.status = .faulted f ∧ f.kind = 4 ∧ f.pc = pc ∧ f.info0 = word (fld pc 63 61))) ∧
    (∀ (s u : State) (c h : Nat) (w : Word), s.view = none → (s.ctx c).status = .waiting .walk → s.Clear c →
      let pc := (s.ctx c).pc
      let line := pcWord pc (fld pc 60 0 / 2048 * 2048 : Nat)
      ({ s with cur := c } : State).fetch line = .got u w h → hdrOk w = true → (line = pc ∨ fld w 7 0 ≠ 0 ∧ fld pc 60 0 < fld line 60 0 + 8 * (fld w 7 0 + 1)) →
      ∃ t, exec (.headerWalk c) s = .next t ∧ t = { s with ctxs := t.ctxs, tlbs := t.tlbs } ∧ (∀ k, k ≠ c → t.ctx k = s.ctx k) ∧
        t.ctx c = { s.ctx c with status := .ready, place := if line = pc then .header else .block line w }) ∧
    (∀ (s : State) (c : Nat), ((s.ctx c).status ≠ .waiting .walk → exec (.headerWalk c) s = .next s) ∧
      ((s.ctx c).status ≠ .waiting .giveUp → exec (.rnTileGiveUp c) s = .next s) ∧
      ((s.ctx c).status = .waiting .giveUp → s.tilesOf c (s.ctx c).gid = [] → s.Clear c → ∃ t, exec (.rnTileGiveUp c) s = .next t ∧
        t = { s with ctxs := t.ctxs, agenda := t.agenda } ∧ t.ctx c = { s.ctx c with status := .ready, tile := 0, tileAt := 0, td := [] }))
  )

/-- 05 R111; 07 R177, 23 R402: REPLY_ARRIVAL completes the bundle of a waiting context. Its flags join FLG; with one of them enabled the FP exception is
raised, with FEX set, and the bundle stands. What the bundle gave to the engines and the stations may begin now (the model's choice, log 52). A bundle
whose request has travelled executes as the reply comes, and its trial at issue has changed neither memory nor a register (the model's reading, log
4). A context whose fetch-and-add is still on its way goes on waiting (11 R259). 14 R323; 09 R225 to R229; 19 R366: a station's wake latches the
bundle of the parked context; a port's walk changes TLBs alone; the attic's wakes let a context parked on a translation fault go on, or give it the
page-refused fault, and nothing while the attic holds (the model's choice, log 96); a slot whose task has waited 2,048 cc may be lent. The numbers of
contexts in wakes, and the order in which they answer, are the model's (logs 26 and 33). -/
def Obligations.RepliesAndWakes : Prop :=
  (
    ∀ (s : State) (c : Nat),
      let old := s.ctx c
      let on := old.raised &&& fld old.fpc 12 8
      ((old.status ≠ .waiting .reply ∨ old.amo.isSome = true) → exec (.replyArrival c) s = .next s) ∧
        (old.status = .waiting .reply → old.amo = none → old.flying.isSome = true → s.attic.holding = false → exec (.replyArrival c) s = .next { s with latch := some c }) ∧
        (∀ i t, (t.dest : Option (Nat × Nat × Nat)).isSome = true → let v := s.fly c i t
          v.mem = s.mem ∧ v.full = s.full ∧ (v.ctx c).status = .waiting .reply ∧ (v.ctx c).flying = t.dest.map (·.1) ∧ (v.ctx c).pc = old.pc ∧ v.Comes (.replyArrival c) ∧
            SameRegs s v ∧ ∀ k, k ≠ c → v.ctx k = s.ctx k) ∧
        (old.status = .waiting .reply → old.amo = none → old.flying = none → on = 0 → s.Clear c → fld old.st 3 3 = 0 → ∃ t, exec (.replyArrival c) s = .next t ∧
        t = { s with ctxs := t.ctxs, before := t.before, agenda := t.agenda } ∧ (∀ k, k ≠ c → t.ctx k = s.ctx k) ∧
        t.ctx c = { old with status := .ready, raised := 0, stopSkip := false, fpc := (t.ctx c).fpc } ∧
        ∀ k, k < 64 → (t.ctx c).fpc.getLsbD k = (old.fpc.getLsbD k || (decide (k < 5) && old.raised.testBit k))) ∧
      (old.status = .waiting .reply → old.amo = none → old.flying = none → on ≠ 0 → old.lnum ≠ 0 → old.lateFault = none → ∃ t, exec (.replyArrival c) s = .next t ∧
        FaultsAt t c 0x14 0 0 ∧ (t.ctx c).pc = old.pc ∧ (t.ctx c).st.getLsbD 2 = true ∧ t.mem = s.mem ∧ SameRegs s t)
  ) ∧
  (
    ∀ (s : State) (c : Nat),
      (∀ v w, (s.ctx c).given = some v → ((s.ctx c).status = .waiting (.parked w) ∨ (s.ctx c).status = .waiting (.ebb w)) →
        exec (.stationWake c v) s = .next { s with latch := some c }) ∧
      (∀ v, (s.ctx c).status = .waiting .fence → exec (.stationWake c v) s = .next { s with latch := some c }) ∧
      (s.attic.holding = true → ∀ code, exec (.wakeReissue c) s = .next s ∧ exec (.wakeRefuse c code) s = .next s) ∧
      (∀ n, c < 99840 → s.attic.holding = false → s.asker c = some (.stale n) → ∃ t, exec (.wakeReissue c) s = .next t ∧
        OnlyCtx s t c { s.ctx c with staleAsks := (s.ctx c).staleAsks.erase n }) ∧
      (∀ port addr, port < 609 → ∃ t, exec (.pageWalk port addr) s = .next t ∧ t = { s with tlbs := t.tlbs }) ∧
      (∀ h acc why code, c < 99840 → (s.ctx c).status = .waiting (.translation h acc why) → s.attic.holding = false → (s.ctx c).asked = none →
        s.asker c = some .own →
        ((s.ctx c).lent = false → (s.ctx c).relaxed.any (·.held) = false → ∃ t, exec (.wakeReissue c) s = .next t ∧ OnlyCtx s t c { s.ctx c with status := .ready }) ∧
        ((s.ctx c).lent = false → (s.ctx c).lnum ≠ 0 → (s.ctx c).lateFault = none → ∃ t, exec (.wakeRefuse c code) s = .next t ∧
          FaultsAt t c 0x0C (code % 256) (word h) ∧ t.mem = s.mem ∧ SameRegs s t) ∧
        ((s.ctx c).lent = true → ∃ t, exec (.wakeReissue c) s = .next t ∧ OnlyCtx s t c { s.ctx c with heldWake := some 0 }) ∧
        (isPorch (coreOf c) = false → slotOf c ≠ 0 → (s.ctx c).lent = false → (s.ctx c).parkedAt + 2048 ≤ s.clock.cc → (s.ctx c).pinned = false →
          s.gangsOf (s.ctx c).lnum (s.ctx c).grp = [] → (s.ctx c).relaxed.any (·.held) = false →
          s.queued' (coreOf c / 192) (tget 0 (s.core (coreOf c)).owners (slotOf c)) = true →
          ∃ t, exec (.lendEvent c) s = .next t ∧ t.ctx c = { s.ctx c with lent := true } ∧ (∀ k, k ≠ c → t.ctx k = s.ctx k) ∧
            (coreOf c, word (4 * 2 ^ 60 + slotOf c)) ∈ (t.hall (coreOf c / 192)).events) ∧
        (acc = .delta → s.Clear c → ∃ t, exec (.deltaWithdrawal c) s = .next t ∧ OnlyCtx s t c { s.ctx c with status := .ready })) ∧
      ((∀ w, (s.ctx c).status ≠ .waiting w) → exec (.lendEvent c) s = .next s ∧ exec (.deltaWithdrawal c) s = .next s) ∧
        ((s.ctx c).status = .waiting .reply → ((s.ctx c).inDelta = false ∨ (s.ctx c).flying = none ∨ (s.ctx c).haltReq = 0 ∧ (s.ctx c).lateFault = none) →
          exec (.deltaWithdrawal c) s = .next s) ∧
        ((s.ctx c).status = .waiting .reply → (s.ctx c).inDelta = true → (s.ctx c).flying.isSome = true → (s.ctx c).haltReq = 2 → (s.ctx c).lateFault = none →
          tfind s.before c = none → ∃ t, exec (.deltaWithdrawal c) s = .next t ∧ (t.ctx c).status = .halted 2 ∧ (t.ctx c).pc = (s.ctx c).pc ∧ SameRegs s t ∧ t.mem = s.mem)
  )

/-- 05 R112; 10 R236; 13 R303; 14 R316, R317; 17 R347: a relaxed access that nothing precedes is performed at its memory: a load's register takes the
bytes there, a store's, RED's or deposit's word its value; then it is outstanding no more, or its acknowledgement is on the way. A fault reply stops
the context, or becomes an entry of the reduction log; an uncorrectable error that a packet meets reaches every constituent (11 R261, 17 R348). Not
while the attic holds, or before the reply that the access's bundle awaits (the model's choices, logs 96 and 52). Words that are read hold nothing
that a Delta leaves undefined; an answer over a link that is out of service may be lost. -/
def Obligations.RelaxedAccessesArePerformed : Prop :=
  ∀ (s : State) (c id : Nat) (r : Relaxed), (s.ctx c).relaxedAt id = some r →
    let free := r.done = false ∧ r.held = false ∧ r.unsent = false ∧ r.bad = 0 ∧ s.attic.holding = false ∧ s.travels c id = false ∧ (s.ctx c).behind r = false ∧ s.follows c r = false ∧
      s.pendingId c id = false
    let cut := ∃ n, 52 ≤ n ∧ (s.link n).up = false
    let gone := fun (t : State) => (t.ctx c).relaxed.map (·.id) = ((s.ctx c).relaxed.filter (·.id != id)).map (·.id)
    let answered := fun (t : State) => (∃ q, (t.ctx c).relaxedAt id = some q ∧ q.done = true) ∧ (t.Comes (r.event c) ∨ cut)
    let rest := fun (t : State) => ∀ k x, k ≠ c → (t.ctx k).rg x = (s.ctx k).rg x
    (r.done = true → ∀ e, e ∈ [Instr.relaxedLoadData c id, .relaxedAcknowledgement c id] → ∃ t, exec e s = .next t ∧ gone t ∧ t.mem = s.mem ∧ SameRegs s t) ∧
    (∀ (u : State) (p : Phys) (d n : Nat) (signed : Bool), r.op = .load d n signed → free → s.bankTaken 1 r.addrs = false → s.reach (s.portOf (coreOf c) r.h) r.h rR = (u, .ok p) →
      u.physOffline p = false → u.badWord r.h = false → u.blurred p.key n = false → ∃ t, exec (.relaxedLoadData c id) s = .next t ∧ (gone t ∨ answered t) ∧ t.mem = s.mem ∧ rest t ∧
        ∀ x, (x ≠ d ∨ s.tileHits c r.h n false = false) →
          (t.ctx c).rg x = if x ≠ 0 ∧ x = d then loaded n signed (memLoad s.mem p.key n) else (s.ctx c).rg x) ∧
    (∀ (u : State) (p : Phys) (n v : Nat), r.op = .store n v → free → s.bankTaken 1 r.addrs = false → s.reach (s.portOf (coreOf c) r.h) r.h rW = (u, .ok p) →
      u.physOffline p = false → u.badWord r.h = false →
      ∃ t, exec (.relaxedAcknowledgement c id) s = .next t ∧ (gone t ∨ answered t) ∧ Stored s t p.key n v ∧ SameRegs s t) ∧
    ((∀ x, x ∈ s.net.arrived → x.carries c id = false) → (s.ctx c).frontQ.any (·.id == id) = false → s.bankTaken 0 r.addrs = false → free →
      let told := fun (t : State) => t.Comes (.relaxedAcknowledgement c id) ∨ t.Comes (.remoteUpdate c id) ∨ cut
      (∀ (u v : State) (p : Phys) (op n : Nat) (b : Word), r.op = .red op n b → op ≤ 9 → s.reach (s.portOf (coreOf c) r.h) r.h rA = (u, .ok p) →
        u.reach (u.portOf (coreOf c) r.h) r.h rA = (v, .ok p) → p.performs op true = true → v.physOffline p = false → v.badWord r.h = false → v.blurred p.key n = false →
        ∃ t, exec (.remoteUpdate c id) s = .next t ∧ SameRegs s t ∧ told t ∧
          Stored s t p.key n (AmoValue op (8 * n) (memLoad s.mem p.key n) (b.toNat % 2 ^ (8 * n)))) ∧
      (∀ amount, (r.op = .mdep amount ∨ r.op = .mdepx amount) → s.offline (unitOf r.h) = false →
        let v := (s.markAt r.h).2
        ∃ t, exec (.remoteUpdate c id) s = .next t ∧ SameRegs s t ∧ told t ∧
          Stored (s.markAt r.h).1 t r.h 2 (if r.op = .mdep amount then min (v + amount) 65535 else max v amount))) ∧
    (∀ kind reason, kind ≠ 9 → r.op.logged = false → (s.ctx c).status = .ready → (s.ctx c).lnum ≠ 0 → (s.ctx c).lateFault = none →
      ∃ t, exec (.relaxedFaultReply c id kind reason) s = .next t ∧ gone t ∧ t.mem = s.mem ∧ rest t ∧ FaultsAt t c kind reason (word (r.badAt.getD r.h)) ∧
        ∀ d n signed, r.op = .load d n signed → ∀ x, x ≠ d → (t.ctx c).rg x = (s.ctx c).rg x) ∧
    (r.op.logged = true → r.done = false → r.bad = 0 → s.net.arrived = [] → ∀ p, s.net.packets.find? (fun p => p.cls == 1 && p.carries c id) = some p →
      ∃ t, exec (.reductionFaultReply c id 2) s = .next t ∧ SameRegs s t ∧ (∀ k o, unitOf r.h = .mark k o → Stored s t (r.h / 8 * 8) 8 0) ∧
        ∀ x q, x ∈ p.who → (s.ctx x.1).relaxedAt x.2 = some q → (t.ctx x.1).relaxedAt x.2 = some { q with bad := 2, badAt := some q.h }) ∧
    (∀ reason, r.op.logged = true → (reason ≠ 2 ∨ r.bad ≠ 0 ∨ (r.done = false ∧ (∀ k o, unitOf r.h ≠ .mark k o) ∧
      ∀ p, p ∈ s.net.packets ∨ p ∈ s.net.arrived → p.carries c id = false)) → ∃ t, exec (.reductionFaultReply c id reason) s = .next t ∧
      gone t ∧ t.mem = s.mem ∧ SameRegs s t ∧
      (8 ≤ (s.ctx c).rlog.length → (t.ctx c).rlog = (s.ctx c).rlog ∧ (t.ctx c).rovf = true) ∧
      ((s.ctx c).rlog.length < 8 → ∃ e, (t.ctx c).rlog = (s.ctx c).rlog ++ [e] ∧ e.h = r.h ∧ e.reason = reason ∧ e.pc = r.pc ∧
        (∀ op n b, r.op = .red op n b → e.op = op ∧ e.operand = b)))

/-- 03 R75, R76; 14 R312: an access through a segment with the right M, to a word that another core owns, sends its task there once the checks of the
access pass and the fence of its SCOPE lets it: for every load and store, plain or relaxed, every atomic that returns, every full/empty operation,
those on barrier and landing words, SEGLD and SEGST. A task that stays performs the access from where it is. 03 R75 to R79; 15 R330, R331: a task
leaves for another core with the registers that its block names or has written, and its slot is vacant; the packet takes a vacant slot of its target,
worker slots of its own queue first, or joins the inbox of eight, or is sent again 256 cc later. Which vacant slot it takes, and that a slot with a
reap event outstanding counts as taken, are the model's choices (logs 88 and 34). What arrives in other registers, the specification leaves open. -/
def Obligations.MigrationMovesATask : Prop :=
  (
    ∀ (d a b x : BitVec 5) (z : BitVec 2) (y l : BitVec 1) (sc : BitVec 4) (im : BitVec 8) (o : BitVec 5) (s u : State) (i : Instr) (k : Int)
        (size right h owner : Nat) (c : Cls) (p : Phys),
      s.resolve (s.rg a) k size size right c = .ok h → s.touches (s.rg a) = true → s.reach (s.portOf s.myCore h) h right = (u, .ok p) →
      u.physOffline p = false → u.badWord h = false → p.owner h = some owner → owner ≠ s.myCore →
      let near := im.toInt * 2 ^ z.toNat
      let far := (s.rg x).toInt * 2 ^ z.toNat
      let load := size = 2 ^ z.toNat ∧ right = rR ∧ c = .scalarLoad
      let store := size = 2 ^ z.toNat ∧ right = rW ∧ c = .scalarStore
      let word := size = 8 ∧ k = 0 ∧ right = rF ∧ c = .sync ∧ ∃ q w, unitOf h = .localStore q w
      let v := s.rg b
      s.stays = false →
      (load → (i = .ldI d a z 0 sc im ∧ k = near ∨ i = .ldN d a z 0 sc im ∧ k = near ∨ i = .ldxI d a z 0 sc x ∧ k = far ∨ i = .ldxN d a z 0 sc x ∧ k = far) →
        exec i s = .next (u.depart owner)) ∧
      (load → s.me.relaxed.length < 4 →
        (i = .ldI d a z 1 sc im ∧ k = near ∨ i = .ldN d a z 1 sc im ∧ k = near ∨ i = .ldxI d a z 1 sc x ∧ k = far ∨ i = .ldxN d a z 1 sc x ∧ k = far) →
        exec i s = .next (s.depart owner)) ∧
      (store → s.PassesScope sc → (i = .st d a z 0 sc im ∧ k = near ∨ i = .stx d a z 0 sc x ∧ k = far) → exec i s = .next (u.depart owner)) ∧
      (store → s.PassesScope sc → s.me.relaxed.length < 4 → (i = .st d a z 1 sc im ∧ k = near ∨ i = .stx d a z 1 sc x ∧ k = far) →
        exec i s = .next (s.depart owner)) ∧
      (size = 4 * (y.toNat + 1) → k = 0 → right = rA → c = .atomic → s.PassesScope sc → i ∈ [Instr.amo d a b sc y o, .amocas d a b sc y] →
        exec i s = .next (u.depart owner)) ∧
      (size = 8 → k = im.toInt * 8 → right = rF → c = .sync → s.src.given = none → s.PassesScope sc →
        i ∈ [Instr.take d a sc im, .put d a sc im, .fereadD d a sc im, .fereadProbe d a sc im, .fesetEmpty a sc im, .fesetFull d a sc im] →
        exec i s = .next (u.depart owner)) ∧
      (word → s.src.given = none → s.PassesScope sc →
        (i = .barinit a b sc ∧ fld v 63 36 = 0 ∧ fld v 19 0 ≠ 0 ∨ i = .arrive d a b sc ∧ fld v 63 16 = 0 ∨ i = .waitb d a b sc ∧ fld v 63 16 = 0 ∨
          i = .waitl d a b sc ∧ fld v 63 8 = 0 ∨ i = .landset a b l ∧ fld v 63 24 = 0) → exec i s = .next (u.depart owner)) ∧
      (size = 16 → k = 0 → s.conflicts (h + 8) = false → s.badWord (h + 8) = false →
        (i = .segld d a ∧ right = rR ∧ c = .span ∨ i = .segst d a ∧ right = rW ∧ c = .scalarStore) → exec i s = .next (u.depart owner))
  ) ∧
  (
    (∀ (s : State) (owner : Nat), s.me.relaxed = [] → s.me.frontQ = [] → s.copiesOf s.cur s.src.gid = [] → s.tilesOf s.cur s.src.gid = [] → s.src.rlog = [] →
      ∃ f, tfind (s.depart owner).flights s.nextId = some f ∧ f.target = owner ∧ f.task.pc = s.src.pc ∧ f.task.gid = s.src.gid ∧ f.task.segs = s.src.segs ∧
        (∀ r, r < 24 → s.src.carried r = true → f.task.rg r = s.src.rg r) ∧ ((s.depart owner).ctx s.cur).status = .vacant ∧ (s.depart owner).mem = s.mem ∧ (s.depart owner).Comes (.migrationArrival s.nextId)) ∧
    (∀ (s : State) (id : Nat) (f : Flight), tfind s.flights id = some f → s.preempts = [] →
      (∀ slot, (s.core f.target).inbox = [] → s.landingSlot f.target f.task.queue = some slot → f.task.lateFault = none → f.task.haltReq = 0 →
        f.task.relaxed = [] → ∃ t, exec (.migrationArrival id) s = .next t ∧ t.ctx (16 * f.target + slot) = f.task ∧ tfind t.flights id = none ∧ t.mem = s.mem ∧
          ∀ k, k ≠ 16 * f.target + slot → t.ctx k = s.ctx k) ∧
      (8 ≤ (s.core f.target).inbox.length → (s.core f.target).inbox.contains id = false →
        ∃ t f', exec (.migrationArrival id) s = .next t ∧ tfind t.flights id = some f' ∧ f'.task = f.task ∧ f'.resendAt = some (s.clock.cc + 256) ∧
          t.ctxs = s.ctxs) ∧
      ((s.core f.target).inbox ≠ [] → (s.core f.target).inbox.contains id = false → (s.core f.target).inbox.length < 8 →
        ∃ t, exec (.migrationArrival id) s = .next t ∧ (t.core f.target).inbox = (s.core f.target).inbox ++ [id] ∧ t.ctxs = s.ctxs ∧ t.flights = s.flights) ∧
        (f.resendAt.isSome = true → ∃ t, exec (.migrationResend id) s = .next t ∧ tfind t.flights id = some { f with resendAt := none } ∧
          t = { s with flights := t.flights, agenda := t.agenda, net := t.net, nextId := t.nextId } ∧ t.Comes (.migrationArrival id))) ∧
    (∀ (s : State) (core queue slot : Nat), isPorch core = false → s.landingSlot core queue = some slot →
      0 < slot ∧ slot < 16 ∧ (s.ctx (16 * core + slot)).status = .vacant ∧
        (tget 0 (s.core core).owners slot ≠ queue → ∀ k, 0 < k → k < 16 → s.open' core k = true → tget 0 (s.core core).owners k ≠ queue))
  )

/-- 03 R67, R69, R74; 05 R116 to R120: SLOT_EVENT PUTs the oldest event whose hearth word is empty, else sends the oldest task of a core's inbox to a slot
there, else a task to the vacant slot that R74 names; in a hall that is being taken out of service it lets a task of such an inbox land and halt (the
model's choice, log 34); a rotation boundary changes at most one owner field of a core and no register; CLAIM_GRANT serves the oldest lane request
that the room has the storage for, at most at the fair share, or else the oldest tile request. -/
def Obligations.PlacementAndGrants : Prop :=
  (∀ (s : State) (hall : Nat), hall < 32 →
    (∀ e, (s.hall hall).events.find? (fun e => !s.isFull (hearthAddr e.1)) = some e → s.takers (hearthAddr e.1) = [] → ∃ t, exec (.slotEvent hall) s = .next t ∧
      t.isFull (hearthAddr e.1) = true ∧ Stored s t (hearthAddr e.1) 8 e.2.toNat ∧ SameRegs s t ∧ (t.hall hall).events = (s.hall hall).events.erase e) ∧
    ((s.hall hall).events.find? (fun e => !s.isFull (hearthAddr e.1)) = none → s.hallOpen hall = false →
      ((s.hall hall).service ≠ .leaving ∨ s.landHalted hall = none) → exec (.slotEvent hall) s = .next s) ∧
    (∀ u, (s.hall hall).events.find? (fun e => !s.isFull (hearthAddr e.1)) = none → s.hallOpen hall = false → (s.hall hall).service = .leaving →
      s.landHalted hall = some u → ∃ t core id, exec (.slotEvent hall) s = .next t ∧ core / 192 = hall ∧ (tfind s.flights id).isSome = true ∧
        tfind t.flights id = none ∧ .slotEvent hall ∈ t.agenda ∧ ((s.ctx (16 * core)).status = .halted 2 ∨ (s.ctx (16 * core)).status = .vacant)) ∧
    (∀ u, (s.hall hall).events.find? (fun e => !s.isFull (hearthAddr e.1)) = none → s.hallOpen hall = true → s.inboxStart hall = some u →
      ∃ t core id f slot, exec (.slotEvent hall) s = .next t ∧ SameRegs s t ∧ t.mem = s.mem ∧ (s.core core).inbox.head? = some id ∧ tfind s.flights id = some f ∧
        s.landingSlot core f.task.queue = some slot ∧ (t.core core).promised = slot :: (s.core core).promised ∧
        (t.core core).inbox = (s.core core).inbox.filter (· != id)) ∧
    (∀ u st core, (s.hall hall).events.find? (fun e => !s.isFull (hearthAddr e.1)) = none → s.hallOpen hall = true → s.inboxStart hall = none →
      (s.hall hall).waiting.find? s.overflows = none → u = s.refreshQueues hall → u.draw hall [] (u.hall hall).waiting = some [st] →
      u.placeCore hall st.lnum st.queue = some core → ∃ t slot, exec (.slotEvent hall) s = .next t ∧ SameRegs s t ∧
        (t.hall hall).waiting = (s.hall hall).waiting.erase st ∧ slot ∈ s.vacantSlots core st.queue ∧ (t.core core).promised = slot :: (s.core core).promised) ∧
    ((∀ e, e ∈ (s.hall hall).queues → e.1 < 256) → ∃ t, exec (.rotationBoundary hall) s = .next t ∧ SameRegs s t ∧
      (∀ a, a < queueAddr hall 0 ∨ queueAddr hall 256 ≤ a → memGet t.mem a = memGet s.mem a) ∧
      ∀ core, ∃ k, ∀ i, i ≠ k → tget 0 (t.core core).owners i = tget 0 (s.core core).owners i)) ∧
  (∀ (s : State) (room : Nat),
    let r := s.room room
    (r.vwait = [] → r.twait = [] → exec (.claimGrant room) s = .next s) ∧
    (∀ c l rest, r.vwait = (c, l) :: rest → s.restoring c = false → (s.ctx c).lanes < min l (share (s.claimants room)) →
      64 * (min l (share (s.claimants room)) - (s.ctx c).lanes) ≤ s.laneSpace room → ∃ t, exec (.claimGrant room) s = .next t ∧ t.latch = some c ∧
        t.ctx c = { s.ctx c with given := some (word (min l (share (s.claimants room)))) } ∧ (t.room room).vwait = rest ∧ t.mem = s.mem ∧ SameRegs s t) ∧
    (∀ c set rest, r.vwait = [] → r.twait = (c, set) :: rest → s.restoring c = false → s.tileBusy room c &&& (set - (set &&& (s.ctx c).tile)) = 0 →
      ∃ t, exec (.claimGrant room) s = .next t ∧ t.latch = some c ∧ t.ctx c = { s.ctx c with given := some (word set) } ∧ (t.room room).twait = rest ∧
        t.mem = s.mem ∧ SameRegs s t))

/-- 02 R37 to R40, R443; 03 R52, R56, R57; 25 R433: LAUNCH_INTAKE takes the value of a launch word. One that names no record is discarded; a record that
is read and passes its checks becomes the live launch of the lowest free number, with its fields, its wings and no live task; one that fails them is
refused with status 2, or with 3 where no number is free. A value whose reads wait for the attic stays with its word, and INTAKE_READ_RETRY reads
again what is still to be read, with the same outcomes. In a hall that is being taken out of service a launch is refused with status 5. While the
attic holds nothing is read (the model's choice, log 96). -/
def Obligations.LaunchesAreTakenIn : Prop :=
  ∀ (s : State) (hall wd : Nat), hall < 32 → wd < 256 →
    let h := launchAddr hall wd
    let idle := tfind (s.hall hall).intakes wd = none ∧ s.hallOpen hall = true ∧ s.attic.holding = false
    let placed := fun (n : Nat) => s.freeLnum = some n ∧
      (wd = 0 ∧ s.healthy (hall / 4) = true ∨ wd ≠ 0 ∧ ∃ w, w < 8 ∧ bitOf wd w = true ∧ s.healthy w = true)
    let made := fun (t : State) (v n : Nat) (ws : List Word) => ∃ l, t.launch? n = some l ∧ l.record = v ∧ l.entry = recW ws 8 ∧ l.n = fld (recW ws 0x10) 47 0 ∧
      l.queue = fld (recW ws 0x20) 15 0 ∧ l.weight = fld (recW ws 0x20) 31 16 ∧ l.handler = recW ws 0x30 ∧ l.live = 0 ∧ l.next = 0 ∧ l.status = 0 ∧
      (∀ w, w ∈ l.wings → s.healthy w = true ∧ (wd = 0 → w = hall / 4) ∧ (wd ≠ 0 → bitOf wd w = true)) ∧ l.leader ∈ l.wings ∧
      (∀ m, m ≠ n → t.launch? m = s.launch? m) ∧ .launchCompletion n ∈ t.agenda
    let refused := fun (t : State) (v code : Nat) => ∃ l, tfind t.launches s.refusedKey = some l ∧ l.status = code ∧ l.record = v ∧ l.n = 0 ∧
      .launchCompletion s.refusedKey ∈ t.agenda
    (idle → s.isFull h = false → exec (.launchIntake hall wd) s = .next s) ∧
    (idle → s.isFull h = true → s.putters h = [] → (fld (s.loadW h) 63 58 ≠ 0 ∨ fld (s.loadW h) 5 0 ≠ 0) →
      ∃ t, exec (.launchIntake hall wd) s = .next t ∧ t.isFull h = false ∧ t.mem = s.mem ∧ t.launches = s.launches ∧ SameRegs s t ∧
        ∃ stamp head payload, .traceAppend hall stamp 0 head payload ∈ t.agenda ∧ fld head 7 0 = 2) ∧
    (∀ v u u2 u3 u4 ws gs segs n, idle → s.takeLaunch hall wd = some (v, u) → fld v 63 58 = 0 → fld v 5 0 = 0 → unitOf v.toNat ≠ .unassigned →
      u.nodeOf hall wd v.toNat = none → u.houseRead hall v.toNat 32 = .ok u2 ws → ws ≠ [] →
      (recordOk ws = true → u2.houseRead hall (recW ws 0x58).toNat (4 * fld (recW ws 0) 8 0) = .ok u3 gs →
        groupsOk gs (fld (recW ws 0x10) 47 0) (fld (recW ws 0) 8 0) = true → u3.houseRead hall (recW ws 0x28).toNat 16 = .ok u4 segs →
        placed n → ∃ t, exec (.launchIntake hall wd) s = .next t ∧ made t v.toNat n ws) ∧
      (recordOk ws = false → ∃ t, exec (.launchIntake hall wd) s = .next t ∧ refused t v.toNat (if s.freeLnum = none then 3 else 2))) ∧
    ((tfind (s.hall hall).intakes wd = none ∨ s.attic.holding = true) → exec (.intakeReadRetry hall wd) s = .next s) ∧
    ∀ (v : Nat) (kept : List Word), tfind (s.hall hall).intakes wd = some (v, kept) → s.attic.holding = false →
      (∀ u h why, kept = [] → s.houseRead hall v 32 = .wait u h why → ∃ t, exec (.intakeReadRetry hall wd) s = .next t ∧
        tfind (t.hall hall).intakes wd = some (v, []) ∧ t.attic.msgs = s.attic.msgs ++ [.unit h why] ∧ t.mem = s.mem) ∧
      (∀ u ws, kept = [] → s.houseRead hall v 32 = .ok u ws → (s.hall hall).service ≠ .inService → ∃ t, exec (.intakeReadRetry hall wd) s = .next t ∧
        tfind (t.hall hall).intakes wd = none ∧ refused t v 5) ∧
      ∀ (u2 : State) (ws : List Word), ws ≠ [] →
        (kept = ws ∧ u2 = s ∨ kept = [] ∧ s.houseRead hall v 32 = .ok u2 ws ∧ (s.hall hall).service = .inService) →
        (∀ u3 u4 gs segs n, recordOk ws = true → s.nodeOf hall wd v = none →
          u2.houseRead hall (recW ws 0x58).toNat (4 * fld (recW ws 0) 8 0) = .ok u3 gs →
          groupsOk gs (fld (recW ws 0x10) 47 0) (fld (recW ws 0) 8 0) = true → u3.houseRead hall (recW ws 0x28).toNat 16 = .ok u4 segs → placed n →
          ∃ t, exec (.intakeReadRetry hall wd) s = .next t ∧ tfind (t.hall hall).intakes wd = none ∧ made t v n ws) ∧
        (recordOk ws = false → ∃ t, exec (.intakeReadRetry hall wd) s = .next t ∧ tfind (t.hall hall).intakes wd = none ∧
          refused t v (if s.freeLnum = none then 3 else 2))

/-- 03 R57 to R59; 02 R40: the chunk protocol. A wing that runs short asks; the leader's grant advances its next index and is acknowledged by every wing,
committed once all hold it, and handed out: each index of the chunk waits in a hall as the task of 02 R40; a complete chunk is reported. 03 R60, R61,
R63: a heartbeat is heard by every other wing; 10 µs of silence are declared to all; a declaration is adopted, and the launches of the lost wing
elect: with every survivor agreed, the survivors are its wings, one of them leads, and its status is at least 1. -/
def Obligations.ChunksAndWings : Prop :=
  (
    ∀ (s : State) (n wing first : Nat) (l : Launch), s.launch? n = some l →
      let ready := l.wings.contains wing = true ∧ (l.dr = false ∨ l.looked = true)
      (ready → l.next < l.n → 2 * s.unstarted n l wing < l.chunk →
        exec (.chunkRequest n wing) s = .next (s.post (.grantNotice n wing false))) ∧
      (ready → l.next < l.n → 0 < l.chunk → ∃ t l' q, exec (.grantNotice n wing false) s = .next t ∧ t.launch? n = some l' ∧
        l' = { l with notices := l.notices ++ [q], next := min (l.next + l.chunk) l.n } ∧ q.first = l.next ∧ q.last = min (l.next + l.chunk) l.n ∧
        q.grantee = wing ∧ q.spawn = false ∧ q.committed = false ∧ q.left = q.last - q.first ∧ ∀ w, w ∈ l.wings → t.Comes (.grantAcknowledgement n l.next w)) ∧
      (l.spawnNext + 256 ≤ serialEnd → ∃ t l' q, exec (.grantNotice n wing true) s = .next t ∧ t.launch? n = some l' ∧ l'.spawnNext = l.spawnNext + 256 ∧
        l'.notices = l.notices ++ [q] ∧ q.first = l.spawnNext ∧ q.last = l.spawnNext + 256 ∧ q.spawn = true) ∧
      ∀ q, l.notices.find? (·.first == first) = some q →
        (l.wings.contains wing = true → ∃ t l' q', exec (.grantAcknowledgement n first wing) s = .next t ∧ t.launch? n = some l' ∧
          l'.notices.find? (·.first == first) = some q' ∧ q' = { q with holders := q'.holders } ∧ (∀ w, w ∈ q'.holders ↔ w ∈ q.holders ∨ w = wing) ∧
          (l.wings.all q'.holders.contains = true → q.committed = false → .grantCommit n first ∈ t.agenda)) ∧
        (q.committed = false → l.heldByAll q = true → q.reported = false → q.spawn = false → ∃ t l' q', exec (.grantCommit n first) s = .next t ∧
          t.launch? n = some l' ∧ l'.notices.find? (·.first == first) = some q' ∧ q' = { q with committed := true } ∧ t.Comes (.chunkHandout n first)) ∧
        (q.committed = true → q.spawn = false → q.handed = false → q.reported = false → s.shares l q.grantee q.first (q.last - q.first) ≠ [] →
          ∃ t, exec (.chunkHandout n first) s = .next t ∧ SameRegs s t ∧ t.mem = s.mem ∧ t.Comes (.chunkRequest n q.grantee) ∧
            ∀ i, q.first ≤ i → i < q.last → ∃ hall st, st ∈ (t.hall hall).waiting ∧ st.lnum = n ∧ st.entry = l.entry ∧ st.gid = word (n * 2 ^ 48 + i) ∧
              tget 0 st.regs 1 = l.args ∧ tget 0 st.regs 2 = word i ∧ tget 0 st.regs 3 = word l.n ∧ st.queue = l.queue) ∧
        (q.spawn = false → q.handed = true → q.left = 0 → ∃ t l' q', exec (.chunkCompletionReport n first) s = .next t ∧ t.launch? n = some l' ∧
          l'.notices.find? (·.first == first) = some q' ∧ q' = { q with reported := true } ∧ .launchCompletion n ∈ t.agenda)
  ) ∧
  (
    ∀ (s : State) (w x : Nat), w < 8 → x < 8 →
      (s.wingUp w = false → exec (.heartbeat w) s = .next s) ∧
      (s.wingUp w = true → ∃ t, exec (.heartbeat w) s = .next t ∧ t = { s with wings := t.wings } ∧
        (∀ y, y < 8 → y ≠ w → s.wingUp y = true → tget 0 (tget ({} : Wing) t.wings y).heard w = s.now) ∧ ∀ y, t.wingUp y = s.wingUp y) ∧
      (w ≠ x → s.wingUp w = true → (tget ({} : Wing) s.wings w).lost.contains x = false → tget 0 (tget ({} : Wing) s.wings w).heard x + 10000 ≤ s.now →
        ∃ t, exec (.wingLost w x) s = .next t ∧ t = { s with agenda := t.agenda, net := t.net, nextId := t.nextId } ∧
            ∀ y, y < 8 → y ≠ x → s.wingUp y = true → t.Comes (.lossDeclaration y x)) ∧
      (∃ t, exec (.lossDeclaration w x) s = .next t ∧ t = { s with wings := t.wings, agenda := t.agenda } ∧ x ∈ (tget ({} : Wing) t.wings w).lost ∧ .reroute ∈ t.agenda ∧
        (∀ y, y ≠ w → tget ({} : Wing) t.wings y = tget ({} : Wing) s.wings y) ∧
        ∀ e, e ∈ s.launches → x ∈ e.2.wings → .leaderElection e.1 ∈ t.agenda) ∧
      ∀ (n : Nat) (l : Launch), s.launch? n = some l →
        let lost := l.wings.filter fun w => s.wings.any fun e => e.2.lost.contains w
        let left := l.wings.filter fun w => !lost.contains w
        (lost = [] → (∀ w, w ∉ l.wings → s.hasTasks n w = false) → exec (.leaderElection n) s = .next s) ∧
        (lost ≠ [] → left ≠ [] → (∀ a b, a ∈ left → b ∈ lost → b ∈ (tget ({} : Wing) s.wings a).lost) → l.leader ∈ l.wings →
          ∃ t l', exec (.leaderElection n) s = .next t ∧ t.launch? n = some l' ∧ l'.wings = left ∧ l'.leader ∈ left ∧ 1 ≤ l'.status ∧
            .launchCompletion n ∈ t.agenda)
  )

/-- 03 R64, R65; 23 R411, R412; 02 R46 to R48: the leader's lookup of a resumed launch is kept with it, and waits while the attic holds (the model's
choice, log 96); a launch that is over leaves its number free and its future full with STATUS; a node's completion lowers the counts of its successors
once, and the last ends the replay; a patch makes the lowest slot free of pins current. -/
def Obligations.LaunchesAndGraphsComplete : Prop :=
  (∀ (s u : State) (n : Nat) (l : Launch) (r : Nat × Nat × Nat), s.launch? n = some l →
    let t : State := { s with view := some { segs := l.segset, gid := word (n * 2 ^ 48) } }
    ((l.dr = false ∨ s.attic.holding = true) → exec (.leaderDeltaLookup n) s = .next s) ∧
    (∀ h, l.dr = true → l.looked = false → s.attic.holding = false → l.dtree % 256 = 0 → t.unitFault l.dtree .delta = none →
      h = (t.resolve l.din 0 (4 * l.dlen) 4 rR .span 4).toOption.getD 0 →
      (l.dlen ≠ 0 → t.resolve l.din 0 (4 * l.dlen) 4 rR .span 4 = .ok h ∧ t.spanFault h (4 * l.dlen) .span = none) →
      lookTree l.dtree h l.dlen l.dmin t = .ok (r, u) → u.launch? n = some l → ∃ v l', exec (.leaderDeltaLookup n) s = .next v ∧ v.launch? n = some l' ∧
        l' = { l with looked := true, found := if r.1 = 0 then none else some (word r.1, word r.2.1, word r.2.2) } ∧ v.mem = u.mem ∧
        ∀ w, w ∈ l.wings → v.Comes (.chunkRequest n w)) ∧
    (l.isOver = false → l.outlived = false → exec (.launchCompletion n) s = .next s) ∧ (s.attic.holding = true → exec (.launchCompletion n) s = .next s) ∧
    (s.attic.holding = false → l.isOver = true → l.outlived = false → l.closing = some (l.status + l.lost.length * 2 ^ 32) → l.heldW = [] → l.lateQ = [] → l.pinHeld = false → l.found = none → l.node = none → n < 65536 →
      s.leftOver (word l.record) = false → (∀ f, l.done = some f → f < 2 ^ 32 ∧ s.hallUp (bits f 31 27) = true ∧ s.futLive f = true ∧
        fld (s.futWord (handleAddr f)) 14 14 = 0) →
      ∃ v, exec (.launchCompletion n) s = .next v ∧ v.launch? n = none ∧ SameRegs s v ∧ (l.done = none → v.mem = s.mem) ∧
        ∀ f, l.done = some f → memLoad v.mem (handleAddr f) 8 = (l.status + l.lost.length * 2 ^ 32) % 2 ^ 64 ∧
          fld (v.futWord (handleAddr f)) 14 14 = 1)) ∧
  (∀ (s : State) (k i st : Nat), tfind s.replays k = none → exec (.graphNodeComplete k i st) s = .next s) ∧
  (∀ (s : State) (k i st : Nat) (r : Replay), tfind s.replays k = some r → i < r.nodes.length → r.ended.contains i = false →
    let succ := (r.nodes.getD i (0, [])).2
    (r.ended.length + 1 < r.nodes.length → succ.Nodup → ∃ t r', exec (.graphNodeComplete k i st) s = .next t ∧ tfind t.replays k = some r' ∧
      r'.ended = i :: r.ended ∧ r'.status = max r.status (st % 256) ∧ SameRegs s t ∧
      ∀ j, tget 0 r'.remain j = if j ∈ succ then tget 0 r.remain j - 1 else tget 0 r.remain j) ∧
    (r.nodes.length ≤ r.ended.length + 1 → ∃ t, exec (.graphNodeComplete k i st) s = .next t ∧ tfind t.replays k = none ∧ SameRegs s t)) ∧
  ∀ (s u v : State) (g core i : Nat) (ws : List Word),
    ((s.attic.holding = true ∨ s.graphs.contains g = false ∨ s.isFull (g + 0x40) = false) → exec (.patchApply g) s = .next s) ∧
    (s.attic.holding = false → s.graphs.contains g = true → s.isFull (g + 0x40) = true → unitOf g = .localStore core (g % 0x4_0000) → i < 4 →
      let free := fun (j : Nat) => j ≠ fld (s.loadW (g + 0x28)) 17 16 ∧ bits (s.loadW (g + 0x30)).toNat (16 * j + 15) (16 * j) = 0
      free i → (∀ j, j < i → ¬ free j) →
      let n := fld (s.loadW (g + 0x20)) 31 0
      s.houseRead (core / 192) (s.loadW (g + 0x40)).toNat (n / 8) = .ok u ws →
      u.houseWrite (core / 192) ((s.loadW (g + 0x18)).toNat + i * n) ws = .ok v () → v.isFull (g + 0x40) = true → v.putters (g + 0x40) = [] →
      ∃ t, exec (.patchApply g) s = .next t ∧ t.isFull (g + 0x40) = false ∧ SameRegs s t ∧
        memLoad t.mem (g + 0x28) 8 = i * 65536 + (fld (s.loadW (g + 0x28)) 15 0 + 1) % 65536)

/-- 03 R55; 25 R431, R432: with no request waiting, a compare-and-swap fills an empty launch word or returns what stands there; misuse is counted and
aborted; another read returns ones; MBUF takes a register write; an aperture request is performed, and aborted where no PCIe request of its size
exists (the model's choice, log 87). While the attic holds, the port takes nothing (R440). The number that stands for Completer Abort is the model's. -/
def Obligations.HostRequestsComplete : Prop :=
  ∀ (s : State) (hall wd off size data : Nat) (a v : Word),
    let port := s.attic.holding = false ∧ s.attic.hostQ = []
    let h := launchAddr hall wd
    (hall < 32 → wd < 256 → port → s.hallOpen hall = true → s.isFull h = false → s.takers h = [] →
      ∃ t, exec (.hostLaunchCas hall wd 0 v) s = .next t ∧ t.isFull h = true ∧ Stored s t h 8 v.toNat ∧ Completes s t 0 ∧ SameRegs s t) ∧
    (hall < 32 → wd < 256 → port → s.hallOpen hall = true → s.isFull h = true →
      ∃ t, exec (.hostLaunchCas hall wd a v) s = .next t ∧ t = { s with attic := t.attic } ∧ Completes s t (memLoad s.mem h 8)) ∧
    (hall < 32 → wd < 256 → port → s.hallOpen hall = true → s.isFull h = false → a ≠ 0 →
      ∃ t, exec (.hostLaunchCas hall wd a v) s = .next t ∧ t = { s with attic := t.attic } ∧ Completes s t 0) ∧
    (hall < 32 → wd < 256 → port → s.hallOpen hall = false →
      ∃ t, exec (.hostLaunchCas hall wd a v) s = .next t ∧ t = { s with attic := t.attic } ∧ Completes s t (2 ^ 64 - 1)) ∧
    (port → ∃ t, exec .hostWindowMisuse s = .next t ∧ t = { s with attic := t.attic } ∧ t.attic.misuse = min (s.attic.misuse + 1) (2 ^ 64 - 1) ∧
      Completes s t (2 ^ 32768)) ∧
    (port → ∃ t, exec (.hostWindowOther true) s = .next t ∧ t = { s with attic := t.attic } ∧ Completes s t (2 ^ 64 - 1)) ∧
    exec (.hostWindowOther false) s = .next s ∧
    (port → exec .misuseClear s = .next { s with attic := { s.attic with misuse := 0 } }) ∧
    (port → s.attic.running = false → exec .mboxGo s = .next { s with attic := { s.attic with go := true } }) ∧
    (port → 0x1000 ≤ off → off + 8 ≤ 0x2000 → ∃ t, exec (.hostRegisterWrite off v) s = .next t ∧ t = { s with attic := { s.attic with mbuf := t.attic.mbuf } } ∧
      ∀ k, t.attic.mbuf.testBit k = if 8 * (off - 0x1000) ≤ k ∧ k < 8 * (off - 0x1000) + 64 then v.getLsbD (k - 8 * (off - 0x1000)) else s.attic.mbuf.testBit k) ∧
    (port → (off < 0x1000 ∨ 0x2000 < off + 8) → off ≠ 0x10 → off ≠ 0x18 → exec (.hostRegisterWrite off v) s = .next s) ∧
    (port → exec (.hostRegisterWrite 0x10 v) s = .next { s with attic := { s.attic with misuse := 0 } }) ∧
    (port → s.attic.running = false → v.getLsbD 0 = true → exec (.hostRegisterWrite 0x18 v) s = .next { s with attic := { s.attic with go := true } }) ∧
    (∀ u p, port → 0 < size → size ≤ 512 → off % 4096 + size ≤ 4096 → off + size ≤ 2 ^ 40 → s.reach 608 (0x100_0000_0000 + off) rW = (u, .ok p) → u.physOffline p = false →
      ∃ t, exec (.apertureRequest true off size data) s = .next t ∧ Stored s t p.key size data ∧ SameRegs s t) ∧
    (∀ u p, port → 0 < size → size ≤ 4096 → off % 4096 + size ≤ 4096 → off + size ≤ 2 ^ 40 → s.reach 608 (0x100_0000_0000 + off) rR = (u, .ok p) → u.physOffline p = false →
      u.blurred p.key size = false → ∃ t, exec (.apertureRequest false off size data) s = .next t ∧ t.mem = s.mem ∧ SameRegs s t ∧ Completes s t (memLoad s.mem p.key size)) ∧
    (∀ write, port → (size = 0 ∨ (if write then 512 else 4096) < size ∨ 2 ^ 40 < off + size) →
      ∃ t, exec (.apertureRequest write off size data) s = .next t ∧ t = { s with attic := t.attic } ∧ Completes s t (2 ^ 32768)) ∧
    (s.attic.holding = true → ∀ e, e ∈ [Instr.hostWindowMisuse, .hostWindowOther true, .misuseClear, .mboxGo, .hostRegisterWrite off v,
      .apertureRequest true off size data, .apertureRequest false off size data] → exec e s = .next s)

/-- 11 R257 to R264: an output of a switch serves the packet that came first to the line that its port's bit names, combined with an equal one while a
wait entry is free; after the last stage it is at its station, or waits at the router, goes out along x first and then y, passes two routers of an
express leg and stops where the leg ends, turns, meets a token or a link that does not take it, or packets of its class that wait there, and enters
the sluice of its destination on the lane of its number (the model's choice, log 84). A packet for what lies behind a gable ford or an Eslia link
crosses it, in the order of its class, and its reply crosses back. A split reply answers both constituents. Thirty-two passes raise a token. 11 R266,
R268, R270; 25 R435, R436: a link that retrains counts what it will send again; one that has not in 100 µs is taken out, and rerouting, once what is
under way has come, makes every hall's next hop shorten the way over whole links. A lost plain request ends with the unit-offline fault, with no
effect on its context or on memory. Half B of a recalibrated link retrains first, a link that recalibrates already being refused with 1 (the model's
choice, log 97). Numbers of links and table entries, the links that lead to a peer, and what a failed part loses are the model's (logs 15, 16 and 84). -/
def Obligations.NetworkAndLinks : Prop :=
  (
    ∀ (s : State) (hall stage switch packet : Nat), hall < 32 → stage < 8 → switch < 128 →
      let queue := s.net.sluice.filter fun e => e.hall == hall && e.stage == stage && switchOf e.line == switch
      let bit := fun (e : SwEntry) => e.exit / 2 ^ (7 - stage) % 2
      let onward := fun (e : SwEntry) (x : SwEntry) => x.stage = stage + 1 ∧ x.hall = hall ∧ x.line = 2 * switch + bit e ∧ x.exit = e.exit
      let ahead := fun (e f : SwEntry) => (queue = [e, f] ∧ f.before e = false ∨ queue = [f, e] ∧ e.before f = true) ∧ e.pkt.id ≠ f.pkt.id ∧ e.pkt.cls = f.pkt.cls ∧
        e.pkt.cls < 4 ∧ bit e = bit f ∧ (s.urgent f.pkt = true → s.urgent e.pkt = true)
      let home := fun (p : Packet) => match p.who with
        | [(c, _)] => if isPorch (coreOf c) then s.lineAt (coreOf c) else (p.srcHall, p.srcPort)
        | _ => (p.srcHall, p.srcPort)
      (queue = [] → exec (.sluiceSwitch hall stage switch) s = .next s) ∧
      (∀ e, queue = [e] → e.pkt.cls < 4 →
        let rest := s.net.sluice.filter fun x => x.pkt.id != e.pkt.id
        (stage < 7 → ∃ t x, exec (.sluiceSwitch hall stage switch) s = .next t ∧ t = { s with net := t.net, agenda := t.agenda } ∧ t.net.sluice = rest ++ [x] ∧
          onward e x ∧ x.pkt = e.pkt ∧ .sluiceSwitch hall (stage + 1) (switchOf x.line) ∈ t.agenda) ∧
        (∀ c i w, stage = 7 → hall = e.pkt.dstHall → attachOf hall e.pkt.dstPort = none → e.pkt.on = none → e.pkt.back = none → e.pkt.cls ≠ 2 → e.pkt.op ≠ 64 →
          e.pkt.who = (c, i) :: w → ∃ t, exec (.sluiceSwitch hall stage switch) s = .next t ∧ t = { s with net := t.net, agenda := t.agenda } ∧ t.net.sluice = rest ∧
            t.net.arrived = s.net.arrived ++ [e.pkt] ∧ .remoteUpdate c i ∈ t.agenda) ∧
        (stage = 7 → hall = e.pkt.dstHall → attachOf hall e.pkt.dstPort = none → e.pkt.on = none → e.pkt.back = none → (e.pkt.cls = 2 ∨ e.pkt.op = 64) →
          ∃ t, exec (.sluiceSwitch hall stage switch) s = .next t ∧ t.net.sluice = rest ∧ t.agenda = s.agenda ++ e.pkt.cargo) ∧
        (∀ n, stage = 7 → hall = e.pkt.dstHall → attachOf hall e.pkt.dstPort = none → e.pkt.on = none → e.pkt.back = some n →
          ∃ t x, exec (.sluiceSwitch hall stage switch) s = .next t ∧ t.net.sluice = rest ++ [x] ∧ x.pkt.cls = 2 ∧ x.pkt.bytes = n ∧ x.pkt.cargo = e.pkt.cargo ∧
            (x.pkt.dstHall, x.pkt.dstPort) = home e.pkt ∧ x.hall = hall ∧ x.line = e.pkt.dstPort) ∧
        (∀ n, stage = 7 → hall = e.pkt.dstHall → e.pkt.splits = false → attachOf hall e.pkt.dstPort = some n → (s.link n).up = true →
          let goes := (s.link n).room hall e.pkt = true ∧ ∀ x, x ∈ s.net.mesh → ¬ (x.1 = hall ∧ x.2.cls = e.pkt.cls ∧ x.2.crosses n hall = true)
          (goes → ∃ t, exec (.sluiceSwitch hall stage switch) s = .next t ∧ t.net.sluice = rest ∧ (t.link n).retry = (s.link n).retry ++ [(hall, e.pkt)] ∧
            .meshHop hall e.pkt.id ∈ t.agenda) ∧
          (¬ goes → ∃ t, exec (.sluiceSwitch hall stage switch) s = .next t ∧ t.net.sluice = rest ∧ t.net.mesh = s.net.mesh ++ [(hall, e.pkt)])) ∧
        (stage = 7 → hall ≠ e.pkt.dstHall → ∃ t, exec (.sluiceSwitch hall stage switch) s = .next t ∧ t.net.sluice = rest ∧
          t.net.mesh = s.net.mesh ++ [(hall, e.pkt)] ∧ .meshHop hall e.pkt.id ∈ t.agenda)) ∧
      (∀ e f, ahead e f → combines e.pkt f.pkt = false → stage < 7 → ∃ t x, exec (.sluiceSwitch hall stage switch) s = .next t ∧ x ∈ t.net.sluice ∧
        onward e x ∧ x.pkt = e.pkt ∧ f ∈ t.net.sluice ∧ t.net.waits = s.net.waits) ∧
      (∀ e f, ahead e f → combines e.pkt f.pkt = true → s.net.waitsAt hall stage switch < 16 → stage < 7 → ∃ t w x, exec (.sluiceSwitch hall stage switch) s = .next t ∧
        t.net.waits = w :: s.net.waits ∧ w.hall = hall ∧ w.packet = e.pkt.id ∧ w.a = e.pkt.value ∧ w.lines = (e.line, f.line) ∧ w.first = e.pkt.who ∧
        w.second = f.pkt.who ∧ x ∈ t.net.sluice ∧ onward e x ∧
        x.pkt = { e.pkt with value := combineValue e.pkt.op e.pkt.width e.pkt.value f.pkt.value, who := e.pkt.who ++ f.pkt.who } ∧
        (∀ y, y ∈ t.net.sluice → y.pkt.id ≠ f.pkt.id) ∧ t.mem = s.mem ∧ SameRegs s t) ∧
      (∀ w v c i d j, s.net.waits.find? (·.packet == packet) = some w → w.hall = hall → w.first = [(c, i)] → w.second = [(d, j)] → (c, i) ≠ (d, j) →
        (∀ p, (p ∈ s.net.packets ∨ p ∈ s.net.arrived) → p.who.contains (c, i) = false) →
        (∀ q r, w.op ≠ 32 → (s.ctx c).relaxedAt i = some q → (s.ctx d).relaxedAt j = some r → ∃ t, exec (.combinedReplySplit hall packet v) s = .next t ∧
          t.net.waits = s.net.waits.erase w ∧ t.Comes (q.answer c) ∧ t.Comes (r.answer d) ∧ t.mem = s.mem ∧ SameRegs s t) ∧
        (∀ x y, w.op = 32 → c ≠ d → (s.ctx c).amo = some x → x.id = i → (s.ctx d).amo = some y → y.id = j → x.bad = none → y.bad = none → ∃ t, exec (.combinedReplySplit hall packet v) s = .next t ∧
          t.net.waits = s.net.waits.erase w ∧ t.Comes (.replyArrival c) ∧ t.Comes (.replyArrival d) ∧ (t.ctx c).amo = none ∧ (t.ctx d).amo = none ∧ t.mem = s.mem ∧
          (∀ r, (t.ctx c).rg r = if r ≠ 0 ∧ r = x.d then v else (s.ctx c).rg r) ∧
          ∀ r, (t.ctx d).rg r = if r ≠ 0 ∧ r = y.d then word ((v.toNat + w.a) % 2 ^ (8 * w.width)) else (s.ctx d).rg r)) ∧
      (∀ p b d, s.net.mesh.find? (fun e => e.1 % 32 == hall && e.2.id == packet) = some (hall, p) → p.dstHall ≠ hall →
        (p.dir = some d ∧ neighbour hall d = some b ∨ p.dir = none ∧ p.cls ≠ 1 ∧ tfind s.net.routes (32 * hall + p.dstHall) = none ∧ d = directionOf hall b ∧ s.passable hall b = true ∧
          ((neighbours hall).filter fun x => decide (meshHops x p.dstHall < meshHops hall p.dstHall)).head? = some b) →
        (p.cls = 1 ∨ ∀ q, q ∈ s.waitingAt hall d → q.cls ≠ p.cls ∨ q.id = p.id) →
        (s.held hall p = false → s.linkTakes hall b p = true → ∃ t, exec (.meshHop hall packet) s = .next t ∧
          t.net.mesh = s.net.mesh.filter (fun e => !(e.1 == hall && e.2.id == packet)) ∧
          (t.link (linkOf hall b)).retry = (s.link (linkOf hall b)).retry ++ [(hall, { p with dir := some d })] ∧ .meshHop hall packet ∈ t.agenda ∧
          t.mem = s.mem ∧ SameRegs s t) ∧
        ((s.held hall p = true ∨ s.linkTakes hall b p = false) → (p.dir = some d → p.cls ≠ 1 ∨ p.srcHall = hall → exec (.meshHop hall packet) s = .next s) ∧ (p.dir = none → ∃ t, exec (.meshHop hall packet) s = .next t ∧ t = { s with net := t.net } ∧ t.net.mesh = s.net.mesh.map fun e => if e.1 == hall && e.2.id == packet then (e.1, { e.2 with dir := some d }) else e))) ∧
      (∀ n p d b, s.net.mesh.find? (fun e => e.1 % 32 == hall && e.2.id == packet) = none → s.onLink hall packet = some (n, hall, p) → n = linkOf hall b → n < 52 →
        p.dir = some d → neighbour hall d = some b → (s.link n).up = true → (s.link n).retraining = false → ((s.link n).leads hall p = true ∨ p.cls = 1) →
        (∀ x, x ∈ (s.link n).retry → x.2.id = p.id → x.1 = hall) →
        let way := (s.choose b p).2
        let on := fun (c : Nat) => way = some d ∧ p.leg ≠ 2 ∧ neighbour b d = some c ∧ tget false s.net.token (4 * b + d) = false ∧ s.linkTakes b c p = true ∧
          (p.cls = 1 ∨ ∀ q, q ∈ s.waitingAt b d → q.cls ≠ p.cls ∨ q.srcHall ≠ p.srcHall ∨ q.dstHall ≠ p.dstHall)
        let gone := fun (t : State) => t.mem = s.mem ∧ SameRegs s t ∧ ∀ x, x ∈ (t.link n).retry → x.2.id ≠ p.id
        (b = p.dstHall → ∃ t x, exec (.meshHop hall packet) s = .next t ∧ gone t ∧ t.net.mesh = s.net.mesh ∧ t.net.sluice = s.net.sluice ++ [x] ∧ x.hall = b ∧
          x.stage = 0 ∧ x.line = 232 + 4 * (if d % 2 = 0 then d + 1 else d - 1) + p.id % 4 ∧ x.exit = p.dstPort ∧ x.pkt.id = p.id) ∧
        (∀ c, b ≠ p.dstHall → on c → ∃ t, exec (.meshHop hall packet) s = .next t ∧ gone t ∧ t.net.mesh = s.net.mesh ∧
          (b, { p with dir := some d, leg := p.leg + 1 }) ∈ (t.link (linkOf b c)).retry ∧ .meshHop b packet ∈ t.agenda) ∧
        (b ≠ p.dstHall → (∀ c, ¬ on c) → ∃ t q, exec (.meshHop hall packet) s = .next t ∧ gone t ∧ t.net.mesh = s.net.mesh ++ [(b, q)] ∧ q.id = p.id ∧
          q.dir = way ∧ .meshHop b packet ∈ t.agenda)) ∧
      (∀ n tag p, s.net.mesh.find? (fun e => e.1 % 32 == hall && e.2.id == packet) = none → s.onLink hall packet = some (n, tag, p) → 52 ≤ n →
        (s.link n).up = true → (s.link n).retraining = false → (s.link n).leads tag p = true → s.attic.holding = false →
        let gone := fun (t : State) => t.mem = s.mem ∧ SameRegs s t ∧ ∀ x, x ∈ (t.link n).retry → x.2.id ≠ p.id
        (32 ≤ tag → ∃ t x, exec (.meshHop hall packet) s = .next t ∧ gone t ∧ t.net.sluice = s.net.sluice ++ [x] ∧ x.hall = hall ∧ x.stage = 0 ∧
          x.line = p.srcPort ∧ x.pkt.id = p.id) ∧
        (tag < 32 → p.on = none → p.back = none → (p.cls = 2 ∨ p.op = 64) → ∃ t, exec (.meshHop hall packet) s = .next t ∧ gone t ∧
          ∀ e, e ∈ p.cargo → e ∈ t.agenda) ∧
        (∀ c i w, tag < 32 → p.on = none → p.back = none → p.cls ≠ 2 → p.op ≠ 64 → p.who = (c, i) :: w → ∃ t, exec (.meshHop hall packet) s = .next t ∧
          gone t ∧ t.net.arrived = s.net.arrived ++ [p] ∧ .remoteUpdate c i ∈ t.agenda)) ∧
      (∀ out, out < 4 →
        (tget 0 s.net.passed (4 * hall + out) < 32 → exec (.starvationToken hall out) s = .next s) ∧
        (32 ≤ tget 0 s.net.passed (4 * hall + out) → ∃ t, exec (.starvationToken hall out) s = .next t ∧ t = { s with net := t.net } ∧
          tget 0 t.net.passed (4 * hall + out) = 0 ∧ tget false t.net.token (4 * hall + out) = true))
  ) ∧
  (
    ∀ (s : State) (link c : Nat),
      let l := s.link link
      let only := fun (t : State) => t = { s with net := { s.net with links := t.net.links }, fresh := t.fresh, attic := t.attic, agenda := t.agenda } ∧
        ∀ k, k ≠ link → t.link k = s.link k
      (link < 72 → ∃ t n, exec (.linkRetrain link) s = .next t ∧ only t ∧ t.attic = s.attic ∧ t.agenda = s.agenda ∧ t.link link = { l with
        retraining := true, begun := s.clock.cc, ends := n, replayed := (l.replayed + l.retry.length) % 2 ^ 64, retrains := (l.retrains + 1) % 2 ^ 64 }) ∧
      (link < 72 → (l.retraining = false ∨ s.clock.cc < l.begun + 125000) → exec (.linkRetrainTimeout link) s = .next s) ∧
      (link < 72 → l.retraining = true → l.begun + 125000 ≤ s.clock.cc → ∃ t, exec (.linkRetrainTimeout link) s = .next t ∧ (t.link link).up = false ∧
        .reroute ∈ t.agenda ∧ t.mem = s.mem ∧ SameRegs s t) ∧
      (56 ≤ link → link < 72 → ∀ p, ∃ t, exec (.esliaFlitError link p) s = .next t ∧ only t ∧ t.attic = s.attic ∧
        (t.link link = { l with corrected := (l.corrected + 1) % 2 ^ 64 } ∧ t.agenda = s.agenda ∨
          (∃ k, 0 < k ∧ t.link link = { l with replayed := (l.replayed + k) % 2 ^ 64, sent := (t.link link).sent, bytesOut := (t.link link).bytesOut, bytesIn := (t.link link).bytesIn, places := (t.link link).places } ∧ ∃ x, x ∈ l.retry ∧ x.2.id = p ∧ .meshHop (x.1 % 32) p ∈ t.agenda) ∨
          t.link link = l ∧ t.agenda = s.agenda ∧ (0 < l.goodOut ∨ 0 < l.goodIn ∨ ∀ x, x ∈ l.retry → x.2.id ≠ p))) ∧
      (s.attic.holding = false → ∃ t, exec .reroute s = .next t ∧ (s.flights = [] → t.mem = s.mem) ∧ SameRegs s t ∧
        (∀ w, w < 8 → (∃ e, e ∈ s.wings ∧ w ∈ e.2.lost) → t.wingUp w = false ∧ ∀ p, p ∈ t.net.mesh → p.2.dstHall / 4 ≠ w) ∧
        (s.net.mesh = [] → (∀ e, e ∈ s.net.links → e.2.retry = []) → t.net.holding = false) ∧
        (t.net.holding = true ∧ t.net.routes = s.net.routes ∧ (∀ p, p ∈ t.net.mesh → p ∈ s.net.mesh) ∨ t.net.holding = false ∧
          (∀ p, p ∈ t.net.mesh → .meshHop (p.1 % 32) p.2.id ∈ t.agenda) ∧
          ∀ h d b, h < 32 → d < 32 → tfind t.net.routes (32 * h + d) = some b → t.passable h b = true ∧ t.hops b d < t.hops h d)) ∧
      (s.attic.holding = false → ∃ t, exec .scopeTableWrite s = .next t ∧ t = { s with halls := t.halls } ∧
        (∀ h g, h < 32 → g < 32 → tfind (t.hall h).scope g = some (min (2 + s.hops h g) 15)) ∧
        ∀ h p, h < 32 → p < 32 → tfind (t.hall h).scope (41 + p) = some ((tfind s.peers p).getD 16)) ∧
      ((s.ctx c).status = .waiting .reply → ((∃ e, e ∈ s.net.links ∧ e.2.up = false) ∨ ∃ w, w < 8 ∧ s.wingUp w = false) →
        (∀ p, (p ∈ s.net.packets ∨ p ∈ s.net.arrived) → p.serves c = false) → .replyArrival c ∉ s.agenda → (s.ctx c).parkedAt + 25000 ≤ s.clock.cc →
        (s.ctx c).lateFault = none →
          (∀ old, tfind s.before c = some old → (s.ctx c).flying = none → old.ctx.lnum ≠ 0 → ∃ t, exec (.requestTimeout c) s = .next t ∧
            FaultsAt t c 6 3 (word old.at') ∧ (t.ctx c).pc = old.ctx.pc ∧ (∀ r, (t.ctx c).rg r = old.ctx.rg r) ∧ (∀ k, k ≠ c → t.ctx k = s.ctx k) ∧ t.mem = s.mem) ∧
          ∀ h, (s.ctx c).flying = some h → tfind s.before c = none → (s.ctx c).lnum ≠ 0 → ∃ t, exec (.requestTimeout c) s = .next t ∧
            FaultsAt t c 6 3 (word h) ∧ (t.ctx c).pc = (s.ctx c).pc ∧ SameRegs s t ∧ (∀ k, k ≠ c → t.ctx k = s.ctx k) ∧ t.mem = s.mem) ∧
      (((s.ctx c).status ≠ .waiting .reply ∨ s.clock.cc < (s.ctx c).parkedAt + 25000) → exec (.requestTimeout c) s = .next s) ∧
      (s.attic.holding = false →
        (72 ≤ link → ∃ t, exec (.recalibrateLink link) s = .next t ∧ t = { s with attic := t.attic } ∧ Answers s t 1) ∧
        (link < 72 → l.up = true → l.recal ≠ 0 → ∃ t, exec (.recalibrateLink link) s = .next t ∧ t = { s with attic := t.attic } ∧ Answers s t 1) ∧
        (link < 72 → l.up = true → l.recal = 0 → l.halfA = true → ∃ t n, exec (.recalibrateLink link) s = .next t ∧ only t ∧ t.attic = s.attic ∧ t.link link = { l with
          recal := 1, halfB := false, halfBegun := s.clock.cc, halfEnds := n, retrains := (l.retrains + 1) % 2 ^ 64 }) ∧
        (link < 72 → l.up = false → ∃ t, exec (.recalibrateLink link) s = .next t ∧ t = { s with attic := t.attic } ∧ Answers s t 2) ∧
        (∀ p, p < 32 → ∃ t, exec (.isolatePeer p) s = .next t ∧ tfind t.peers p = none ∧ (∀ h, h < 32 → tget 0 (t.hall h).scope (41 + p) = 16) ∧
          (∀ n, n ∈ linksTo p → (t.link n).up = false) ∧ t.mem = s.mem ∧ SameRegs s t ∧ Answers s t 0) ∧
        ∀ p hops, p < 32 → hops ≠ 0 → ∃ t, exec (.peerDiscovery p hops) s = .next t ∧ tfind t.peers p = some (min 15 (12 + hops)) ∧ t.mem = s.mem ∧ SameRegs s t) ∧
      (link < 72 → ∀ half, (l.recal = (if half then 2 else 1) → l.halfBegun + 125000 ≤ s.clock.cc → ∃ t, exec (.halfRetrainTimeout link half) s = .next t ∧ only t ∧
        t.link link = { l with recal := 0 } ∧ Answers s t 1) ∧
        ((l.recal ≠ (if half then 2 else 1) ∨ s.clock.cc < l.halfBegun + 125000) → exec (.halfRetrainTimeout link half) s = .next s))
  )

/-- 24 R413 to R415; 17 R341; 05 R114: each cc the counter advances by INC modulo 2^96, banks are free again, and an ebb instant that it reaches comes
before everything else; INC, the counter and E are set within their limits, and otherwise stay; a Sync message is stamped at its port, and at the
active port gives the offset from its timestamps, which saturates; it and the loss of the source change the servo's state; the other port stands by.
That the first Sync makes its port active, that a loss clears it, that the delay request leaves at once, and the mean that gives the offset are the
model's (log 29). Commands that wait in the command registers begin with a tick too, which is not said here. 17 R340, R342, R343, R351, R353: at an
ebb instant the waiting descriptors are installed and every MWAIT that waits for this ebb or an earlier one is given its number; the sweep applies the
pending fade of a word, once; the attic writes region 0 of every hall as the occupancy region. -/
def Obligations.TimeAndEbbs : Prop :=
  (
    ∀ s : State,
      let acc := (s.clock.acc + s.clock.inc) % 2 ^ 96
      (s.attic.cmds = [] → ∃ t, exec .counterTick s = .next t ∧ t = { s with
          clock := { s.clock with acc := acc, cc := s.clock.cc + 1 }, cores := t.cores, agenda := t.agenda, later := [], wings := t.wings, attic := t.attic, net := t.net,
            nextId := t.nextId, preempts := t.preempts, fresh := t.fresh } ∧ (∀ e, e ∈ s.agenda ∨ e ∈ s.later → e ∈ t.agenda) ∧
        (∀ k, (t.core k).busy = 0 ∧ t.core k = { s.core k with busy := 0 }) ∧
        (acc / 2 ^ 32 / 2 ^ s.clock.ebbE ≠ s.clock.acc / 2 ^ 32 / 2 ^ s.clock.ebbE → t.agenda.head? = some .ebbInstant) ∧
        ((s.clock.cc + 1) % 16 = 0 → ∀ h, h < 32 → .rotationBoundary h ∈ t.agenda)) ∧
      (∀ inc hold, s.attic.holding = false → 0xC000_0000 ≤ inc → inc ≤ 0xD999_999A → ∃ t, exec (.incChange inc hold) s = .next t ∧
        t = { s with clock := { s.clock with inc := inc }, agenda := t.agenda, fresh := t.fresh, net := t.net, nextId := t.nextId }) ∧
      (∀ inc hold, (s.attic.holding = true ∨ inc < 0xC000_0000 ∨ 0xD999_999A < inc) → exec (.incChange inc hold) s = .next s) ∧
      (∀ port n times, port < 2 → s.attic.holding = false → (s.clock.active = none ∨ s.clock.active = some port) → ∃ v, exec (.syncMessage port n times) s =
        .next { s with clock := { s.clock with active := some port, syncAt := tset s.clock.syncAt port s.now, askAt := tset s.clock.askAt port s.now, port := port, sequence := n % 65536, offset := v,
                                               timeState := 0 } } ∧
          let out := (s.now : Int) - times.origin.toNat
          let back := (times.response.toNat : Int) - s.now
          v.toInt = max (-(2 ^ 31 - 1)) (min (2 ^ 31 - 1) ((out - back) / 2))) ∧
      (∀ port other n times, port < 2 → s.attic.holding = false → s.clock.active = some other → other ≠ port →
        exec (.syncMessage port n times) s = .next { s with clock := { s.clock with syncAt := tset s.clock.syncAt port s.now } }) ∧
      (s.clock.timeState ≠ 3 → exec .timeSourceLoss s = .next { s with clock := { s.clock with active := none, timeState := 2 } }) ∧
      (s.clock.timeState = 3 → exec .timeSourceLoss s = .next { s with clock := { s.clock with active := none } }) ∧
      (∀ e, s.attic.holding = false → 10 ≤ e → e ≤ 30 → s.clock.ebbFixed = false → s.clock.launched = false → (∀ h, h ∈ s.halls → ∀ r, r ∈ h.2.regions → fld r.2 63 63 = 0) →
        ∃ t, exec (.setEbbExponent e) s = .next t ∧ t = { s with clock := t.clock } ∧ t.clock.ebbE = e ∧ t.clock.ebbFixed = true ∧ t.clock.acc = s.clock.acc) ∧
      (∀ e, (s.attic.holding = true ∨ e < 10 ∨ 30 < e ∨ s.clock.ebbFixed = true ∨ s.clock.launched = true) → exec (.setEbbExponent e) s = .next s) ∧
      (∀ v, s.attic.holding = false → s.clock.counterSet = false → s.clock.launched = false → ∃ t, exec (.setHouseCounter v) s = .next t ∧ t = { s with clock := t.clock, wings := t.wings } ∧ t.now = v.toNat ∧
        t.clock.counterSet = true) ∧
      (∀ v, (s.attic.holding = true ∨ s.clock.counterSet = true ∨ s.clock.launched = true) → exec (.setHouseCounter v) s = .next s) ∧
      (∀ core, core < 6240 → s.attic.holding = false → ∃ t, exec (.clearCoreCounters core) s = .next t ∧ t = { s with cores := t.cores } ∧ (∀ n, tget 0 (t.core core).counters n = 0) ∧
        ∀ k, k ≠ core → t.core k = s.core k)
  ) ∧
  (
    ∀ s : State,
      let e := s.now / 2 ^ s.clock.ebbE
      (e = s.clock.ebbSeen → exec .ebbInstant s = .next s) ∧
      (e ≠ s.clock.ebbSeen → ∃ t, exec .ebbInstant s = .next t ∧ t.clock = { s.clock with ebbSeen := e } ∧ SameRegs s t ∧
        (∀ h, (t.hall h).regionQ = [] ∧ ((s.hall h).regionQ ≠ [] → (t.hall h).regions = (s.hall h).nextRegions)) ∧
        ∀ c n, (s.ctx c).status = .waiting (.ebb n) → n ≤ e → (s.ctx c).given = none → (t.ctx c).given = some (word e) ∧ .stationWake c (word e) ∈ t.agenda) ∧
      (∀ hall wd, hall < 32 → wd < 262144 → ∃ t, exec (.markSweepWord hall wd) s = .next t ∧ t = { s with mem := t.mem, halls := t.halls } ∧
        ((s.hall hall).pendFade.find? (·.1 == wd) = none → t = s) ∧
        ∀ k, (s.hall hall).pendFade.find? (·.1 == wd) = some (wd, k) → k ≤ 256 → (t.hall hall).pendFade.find? (·.1 == wd) = none ∧
          ∀ j, j < 4 → fld (t.loadW (markAddr hall wd)) (16 * j + 15) (16 * j) = fld (s.loadW (markAddr hall wd)) (16 * j + 15) (16 * j) * k / 256) ∧
      (s.attic.holding = false → ∃ t, exec .occupancyRegionWrite s = .next t ∧ t = { s with halls := t.halls } ∧ ∀ h, h < 32 → tget 0 (t.hall h).regions 0 = 0x8014_0000_00BC_0000)
  )

/-- 23 R398 to R401: the hand-over of a faulted task that is quiet, holds no claim and belongs to no gang takes the lowest free entry of its launch's
fault area. With a handler and a serial left, one handler task starts at HND with the image in g1 and the record in g2; with no handler or no serial
left the task ends, with its record alone; with no entry free it ends without one, and its launch's status is at least 4. In each case its slot is
vacant. -/
def Obligations.FaultsAreHandedOver : Prop :=
  ∀ (s u : State) (c j : Nat) (f : FaultRec) (l : Launch), (s.ctx c).status = .faulted f →
    let x := s.ctx c
    let hall := s.hallOf (coreOf c)
    x.relaxed = [] → x.frontQ = [] → s.copiesOf c x.gid = [] → s.tilesOf c x.gid = [] → x.asked = none → x.image = 0 → s.freezes c = false → s.gangsOf x.lnum x.grp = [] → x.rlog = [] →
    x.pinned = false → x.others = [] → (∀ e, e ∈ s.rooms → ∀ y, y ∈ e.2.fails → y.gid ≠ x.gid) → s.launch? x.lnum = some l →
    (s.freeEntries hall l 1 0 = .ok u [] → ∃ t l', exec (.faultHandover c) s = .next t ∧ (t.ctx c).status = .vacant ∧ t.launch? x.lnum = some l' ∧ l'.used = l.used ∧
      l'.live = l.live - 1 ∧ 4 ≤ l'.status ∧ t.images = s.images) ∧
    (s.freeEntries hall l 1 0 = .ok u [j] →
    (x.hnd ≠ 0 → l.serialsLeft (hall / 4) = true → ∃ t l' st, exec (.faultHandover c) s = .next t ∧ (t.ctx c).status = .vacant ∧
      (∃ r, tfind t.images (l.farea + 576 * j + 64) = some r ∧ r.gid = x.gid ∧ r.lrec = x.lrec ∧ r.hall = hall ∧ r.stop = none) ∧
      t.launch? x.lnum = some l' ∧ l'.used = l.used + 1 ∧ l'.live = l.live + 1 ∧ st.entry = x.hnd ∧ st.handler = true ∧ st.serves = x.gid ∧
      tget 0 st.regs 1 = word (l.farea + 576 * j + 64) ∧ tget 0 st.regs 2 = word (l.farea + 576 * j) ∧
      (st ∈ (t.hall hall).waiting ∨ (hall, st) ∈ l'.spawnQ)) ∧
    ((x.hnd = 0 ∨ l.serialsLeft (hall / 4) = false) → ∃ t l', exec (.faultHandover c) s = .next t ∧ (t.ctx c).status = .vacant ∧ tfind t.images (l.farea + 576 * j + 64) = none ∧
      t.launch? x.lnum = some l' ∧ l'.used = l.used + 1 ∧ l'.live = l.live - 1))

/-- 23 R403 to R408; 24 R424, R427: an uncorrectable error closes its core and stops the contexts there; a gang stop halts the resident members; a
pre-emption halts every covered context at its boundary and is answered once all have halted, and a release lets go; a halted task's image goes, once
its pre-emption is complete, to the block that its hall's pool gives, and a frozen one's record to the freeze log. The order of these events is the
model's (log 24), and no command is performed while the attic holds (log 96). -/
def Obligations.ContextsAreStopped : Prop :=
  (∀ (s : State) (core off slot : Nat), core < 6144 → off < 0x4_0000 → 0 < slot → slot < 16 →
    ((s.ctx (16 * core + slot)).status = .ready ∨ (s.ctx (16 * core + slot)).status = .waiting .reply ∧ (s.ctx (16 * core + slot)).flying.isSome = true ∧
      (s.ctx (16 * core + slot)).given = none ∧ tfind s.before (16 * core + slot) = none) →
    (s.ctx (16 * core + slot)).lnum ≠ 0 → (s.ctx (16 * core + slot)).lateFault = none →
    ∃ t, exec (.localStoreUncorrectable core off) s = .next t ∧ (t.core core).closed = true ∧ off / 8 ∈ (t.core core).badWords ∧
      (s.parked = [] → t.mem = s.mem) ∧
      FaultsAt t (16 * core + slot) 0x0D 1 (word (localAddr core (off / 8 * 8)))) ∧
  (∀ (s : State) (c m : Nat) (f : FaultRec) (l : Launch), (s.ctx c).status = .faulted f → s.launch? (s.ctx c).lnum = some l →
    let js := s.gangClosure (s.ctx c).lnum l.groups.length (s.gangsOf (s.ctx c).lnum (s.ctx c).grp)
    m ∈ s.gangMembers (s.ctx c).lnum js → (s.ctx m).status = .ready → s.gangFlying (s.ctx c).lnum js = true →
    ∃ t, exec (.gangStop c) s = .next t ∧ (t.ctx m).status = .halted 5 ∧ .imageWrite m ∈ t.agenda ∧ (s.parked = [] → t.mem = s.mem) ∧
      ∀ r, (t.ctx m).rg r = (s.ctx m).rg r) ∧
  (∀ (s : State) (c : Nat), (∀ f, (s.ctx c).status ≠ .faulted f) →
    exec (.gangStop c) s = .next s ∧ exec (.frozenContext c) s = .next s ∧ exec (.faultHandover c) s = .next s) ∧
  (∀ (s : State) (kind halls : Nat) (which : Word) (service : Bool), preemptOk kind halls which = true → s.attic.holding = false →
    let p : Preempt := { kind := kind, halls := halls, which := which, service := service }
    ∃ t, exec (.preempt kind halls which service) s = .next t ∧ (s.parked = [] → t.mem = s.mem) ∧
      (∃ q, q ∈ t.preempts ∧ q.kind = kind ∧ q.halls = halls ∧ q.which = which ∧ q.service = service ∧ q.command = true) ∧
      (s.flights = [] → s.preempts = [] → (s.ctxs.map (·.1)).Pairwise (· < ·) → (∀ e, e ∈ s.ctxs → e.2.status = .ready ∨ e.2.status = .vacant ∨ e.2.status = .ended) →
        Answers s t 0) ∧
      ∀ c, (s.ctx c).status = .ready → covers p (s.hallOf (coreOf c)) (s.ctx c).gid (s.ctx c).queue = true →
        (t.ctx c).status = .halted 2 ∧ .imageWrite c ∈ t.agenda ∧ ∀ r, (t.ctx c).rg r = (s.ctx c).rg r) ∧
  (∀ (s : State) (kind halls : Nat) (which : Word) (service : Bool), preemptOk kind halls which = false → s.attic.holding = false →
    ∃ t, exec (.preempt kind halls which service) s = .next t ∧ t = { s with attic := t.attic } ∧ Answers s t 1) ∧
  (∀ (s : State) (kind halls : Nat) (which : Word), s.attic.holding = false →
    let named := fun (p : Preempt) => p.kind == kind && p.halls == halls && p.which == which && !s.removal p
    (s.preempts.find? named = none → ∃ t, exec (.release kind halls which) s = .next t ∧ t = { s with attic := t.attic } ∧ Answers s t 1) ∧
    (∀ p, s.preempts.find? named = some p → ∃ t, exec (.release kind halls which) s = .next t ∧ t.preempts = s.preempts.erase p ∧ t.mem = s.mem ∧ SameRegs s t ∧
      (s.attic.releasing = [] → s.attic.releases = [] → (∀ h, (s.hall h).images = []) → ((p.told = true ∨ p.command = false) → Answers s t 0) ∧
        (p.told = false → p.command = true → t.attic.results = s.attic.results ++ [2 ^ 63, 2 ^ 63])))) ∧
  (∀ (s u : State) (c park i : Nat) (ps qs : List Phys) (v : State), (s.ctx c).status = .halted park → park = 2 ∨ park = 4 →
    let x := s.ctx c
    let hall := s.hallOf (coreOf c)
    let base := (s.hall hall).poolBase + 0x10_0000 * i
    x.relaxed = [] → x.frontQ = [] → s.copiesOf c x.gid = [] → s.tilesOf c x.gid = [] → x.asked = none → x.image = 0 → x.rlog = [] → x.pinned = false →
    (park = 2 → slotOf c ≠ 0 ∧ s.incomplete c = false) → (s.hall hall).freeBlock = some i → (s.takeCommands c).blockPages hall base rR = .ok u ps →
    (s.takeCommands c).blockPages hall base rW = .ok v qs →
    ∃ t, exec (.imageWrite c) s = .next t ∧ (∃ r, tfind t.images (base + 0xF_FE00) = some r ∧ r.gid = x.gid ∧ r.hall = hall) ∧
      (t.hall hall).poolUsed = i :: (s.hall hall).poolUsed ∧
      (park = 4 → t.ctx c = { x with image := base + 0xF_FE00 }) ∧
      (park = 2 → (t.ctx c).status = .vacant ∧ (s.preempts.any (fun p => covers p hall x.gid x.queue) = true → (t.hall hall).images = (s.hall hall).images ++ [base + 0xF_FE00]))) ∧
  ∀ (s : State) (c : Nat) (f : FaultRec), (s.ctx c).status = .faulted f →
    let hall := s.hallOf (coreOf c)
    (s.freezes c = false → exec (.frozenContext c) s = .next s) ∧
    (s.freezes c = true → (s.hall hall).freeze.length < 64 → ∃ t, exec (.frozenContext c) s = .next t ∧ (t.ctx c).status = .halted 3 ∧
      (t.hall hall).freeze = (s.hall hall).freeze ++ [(c, f)] ∧ t.mem = s.mem ∧ SameRegs s t)

/-- 21 R393; 24 R419, R422, R426 to R428; 19 R375: a record goes to its ring or is counted as dropped; a stop entry is written whole or not at all; a
front with a storage error is lost; a dump begins with the pre-emption of everything, goes on section by section, and the watchdog ends it after 100
ms of silence. The model's choices: the sections lie one after the other from 0x1000 of the dump area (log 73), and a stop entry halts a context
parked on a translation fault at once (log 111). -/
def Obligations.ObservationAndDumps : Prop :=
  ∀ (s u : State) (hall i : Nat) (stamp gtid head payload who hdr ctl : Word), hall < 32 →
    let ring := (s.hall hall).ring
    let d := s.attic.dump
    (ring.full = true → ∃ t, exec (.traceAppend hall stamp gtid head payload) s = .next t ∧ t.mem = s.mem ∧ (∀ k, k ≠ hall → t.hall k = s.hall k) ∧
      t.hall hall = { s.hall hall with ring := { ring with dropped := ring.dropped + 1 } }) ∧
    (ring.full = false → ring.dropped = 0 → s.houseWrite hall (ring.base + ring.wr) [stamp, gtid, head, payload] = .ok u () →
      ∃ t, exec (.traceAppend hall stamp gtid head payload) s = .next t ∧ t.mem = u.mem ∧ (t.hall hall).ring = { (u.hall hall).ring with wr := (ring.wr + 32) % ring.size }) ∧
    (s.attic.holding = false → i < 64 → fld hdr 63 58 = 0 → fld hdr 2 0 = 0 → fld ctl 61 48 = 0 → fld ctl 15 8 = 0 → ∃ t r, exec (.stopTableWrite i who hdr ctl) s = .next t ∧
      r = { s with halls := r.halls } ∧ t = (s.ctxs.map (·.1)).foldl State.stopParked r ∧
      ((∀ c a acc why, (s.ctx c).status ≠ .waiting (.translation a acc why)) → t = r) ∧ (∀ c, ((∀ a acc why, (r.ctx c).status ≠ .waiting (.translation a acc why)) → r.stopParked c = r) ∧
        ∀ v, (∃ a acc why, (r.ctx c).status = .waiting (.translation a acc why)) → State.stopped? { r with cur := c } = some v → r.stopParked c = { v with cur := r.cur }) ∧ ∀ h, h < 32 → r.hall h = { s.hall h with stops := (r.hall h).stops } ∧ ∃ e, tfind (r.hall h).stops i = some e ∧
        e.who = who ∧ e.hdr = hdr ∧ fld e.ctl 47 16 = 0 ∧ fld e.ctl 63 62 = fld ctl 63 62 ∧ fld e.ctl 7 0 = fld ctl 7 0 ∧
        ∀ k, k ≠ i → tfind (r.hall h).stops k = tfind (s.hall h).stops k) ∧
    (i < 64 → (fld hdr 63 58 ≠ 0 ∨ fld hdr 2 0 ≠ 0 ∨ fld ctl 61 48 ≠ 0 ∨ fld ctl 15 8 ≠ 0 ∨ s.attic.holding = true) → exec (.stopTableWrite i who hdr ctl) s = .next s) ∧
    (∀ room n, room < 768 → n < 4 → let f : Front := tget {} (s.room room).fronts n
      ∃ t, exec (.frontStorageError room n) s = .next t ∧ t = { s with rooms := t.rooms } ∧
        tget {} (t.room room).fronts n = { f with cfg := 0, ovf := false, tuples := [], lost := true, epoch := f.epoch + 1 } ∧
        ∀ k, k ≠ n → tget {} (t.room room).fronts k = tget {} (s.room room).fronts k) ∧
    (∀ r tree, keepTree tree s = .ok (r, u) → exec (.keeperStep tree) s = .next u) ∧
    (s.attic.holding = false → i < 16 → d.running = false → (d.taken = false ∨ d.writer ≠ i) → ∃ t, exec (.crashDump i) s = .next t ∧ t.attic.dump.status = 3 ∧ t.attic.dump.requested = true ∧ t.attic.dump.writer = i ∧ t.attic.dump.watchdog = (i + 1) % 16 ∧
      t.attic.dump.sections = [] ∧ (s.parked = [] → t.mem = s.mem) ∧ (∃ p, p ∈ t.preempts ∧ p.kind = 0 ∧ p.service = true) ∧
      ∀ c, (s.ctx c).status = .ready → (t.ctx c).status = .halted 2) ∧
    (i < 16 → s.attic.holding = true → exec (.crashDump i) s = .next s) ∧ (i < 16 → d.taken = true → d.writer = i → exec (.crashDump i) s = .next s) ∧ (i < 16 → d.running = true → d.writer ≠ i → exec (.crashDump i) s = .next s) ∧
    (i < 16 → s.attic.holding = false → d.status = 3 → d.requested = true → d.taken = false → d.writer = i → ∀ k, dumpOrder.find? (fun k => !(d.sections.any fun x => x.1 == k)) = some k →
      ∃ t n ws, exec (.crashDump i) s = .next t ∧ t = { s with attic := { s.attic with dump := { d with
        sections := d.sections ++ [(k, n)], spans := d.spans ++ [(0x1000 + 8 * d.area.length, 8 * ws.length)], area := d.area ++ ws } } }) ∧
    (i < 16 → s.attic.holding = false → d.status = 3 → d.requested = true → d.taken = false → d.writer = i → (∀ k, k ∈ dumpOrder → ∃ x, x ∈ d.sections ∧ x.1 = k) →
      exec (.crashDump i) s = .next { s with attic := { s.attic with dump := { d with status := 1, ended := s.now } } }) ∧
    (s.attic.holding = false → d.status = 3 → d.requested = true → d.progress.toNat < who.toNat → exec (.dumpHeartbeat who) s = .next { s with attic := { s.attic with dump := { d with progress := who, beatAt := s.now } } }) ∧
    ((d.running = false ∨ who.toNat ≤ d.progress.toNat ∨ s.attic.holding = true) → exec (.dumpHeartbeat who) s = .next s) ∧
    (∀ report, s.attic.holding = false → d.status = 3 → d.requested = true → (report = true ∨ d.beatAt + 100000000 ≤ s.now) → ∃ t, exec (.watchdogTakeover report) s = .next t ∧
      t = { s with attic := { s.attic with dump := t.attic.dump } } ∧ t.attic.dump.status = 2 ∧ t.attic.dump.taken = true ∧ t.attic.dump.ended = s.now ∧
      ∀ k, k ∈ [3, 4, 6] → ∃ x, x ∈ t.attic.dump.sections ∧ x.1 = k) ∧
    (∀ report, (s.attic.holding = true ∨ d.running = false ∨ (report = false ∧ s.now < d.beatAt + 100000000)) → exec (.watchdogTakeover report) s = .next s)

/-- 25 R430, R433, R437; 23 R409; 24 R419; 09 R223: the house commands within their limits have their effect and answer 0; beyond them they are refused
with 1, and change nothing; a hall that is named back has the stores of reset. The model's choices: while the attic holds no command does anything
(log 96), and removing a hall is answered as its last context has left, or when HALL_SERVICE or MOVE_IMAGES finds it so (log 56). 23 R409; 25 R430,
R433: MOVE_IMAGES moves the images of a hall, in their order, to blocks that the other hall's pool gives: each word of a block stands in the new one,
but for the image's address at 0x10 and the block's at 0x1A0 of the image, which name the new block. It is answered 0 when all have moved, and takes
the hall offline where that is leaving and nothing else is left; it is answered 1 where an image cannot move, 2 where the other hall is not in
service. 25 R429: a system core writes the address of a descriptor to its own command register; its oldest command begins, as the event of its name,
once none of its commands is under way, and a descriptor with a reserved bit set or a code that is none of the table's is refused with 1 in its DONE
word. What the registers and the descriptors hold before that is the model's choice (log 110). -/
def Obligations.HouseCommands : Prop :=
  (
    ∀ (s : State) (hall core base n : Nat), (s.attic.holding = true → ∀ e, e ∈ [Instr.invalidateTranslations base n, .setTranslationRoot n base, .setTraceRing hall base n,
        .advanceTraceRing hall n, .setStatePool hall base n, .moveImages hall n, .coreInService hall core, .retireStack n, .hallService hall true,
        .hallService hall false, .startHearths n core base] → exec e s = .next s) ∧ (s.attic.holding = false →
      let refused := fun (e : Instr) => ∃ t, exec e s = .next t ∧ t = { s with attic := t.attic } ∧ Answers s t 1
      (∀ k a, k < 43 → a % 2 ^ (16 + k) = 0 → a + 2 ^ (16 + k) ≤ 2 ^ 58 → ∃ t, exec (.invalidateTranslations a (2 ^ (16 + k))) s = .next t ∧
        t = { s with tlbs := t.tlbs, attic := t.attic } ∧
        ((∀ e x, e ∈ s.ctxs → x ∈ e.2.amo → a ≤ x.h → x.h < a + 2 ^ (16 + k) → s.adding (e.1, x.id) = false) → Answers s t 0) ∧
        ((∃ e x, e ∈ s.ctxs ∧ x ∈ e.2.amo ∧ a ≤ x.h ∧ x.h < a + 2 ^ (16 + k) ∧ s.adding (e.1, x.id) = true) → t.attic.results = s.attic.results ∧
          ∃ w, w ≠ [] ∧ t.attic.purges = s.attic.purges ++ [(a, 2 ^ (16 + k), w)]) ∧ ∀ set x, set ∈ t.tlbs → x ∈ set.2 → x.overlaps a (2 ^ (16 + k)) = false) ∧
      (∀ a, refused (.invalidateTranslations a 0)) ∧
      (∀ a, n < 24 → a % 2 ^ 22 = 0 → a < 2 ^ 48 → exec (.setTranslationRoot n a) s = .next { s with root := (n, a) }) ∧
      (hall < 32 → (∃ k, k < 15 ∧ n = 2 ^ (16 + k)) → unitOf base = .paged → base % 32 = 0 → s.inHbm hall base n [rW] = true → ∃ t, exec (.setTraceRing hall base n) s = .next t ∧
        t = { s with halls := t.halls, attic := t.attic } ∧ Answers s t 0 ∧ (t.hall hall).ring = { base := base, size := n, dropped := (s.hall hall).ring.dropped }) ∧
      (hall < 32 → n % 32 = 0 → n < (s.hall hall).ring.size → ∃ t, exec (.advanceTraceRing hall n) s = .next t ∧ t = { s with halls := t.halls, attic := t.attic } ∧
        (t.hall hall).ring = { (s.hall hall).ring with rd := n } ∧
        t.attic.results = s.attic.results ++ [2 ^ 63 + (s.hall hall).ring.wr % 2 ^ 32 * 2 ^ 16]) ∧
      (hall < 32 → base % 0x10_0000 = 0 → n ≤ 65535 → unitOf base = .paged → (s.hall hall).poolUsed = [] → s.inHbm hall base (0x10_0000 * n) [rR, rW] = true → ∃ t, exec (.setStatePool hall base n) s = .next t ∧
        t = { s with halls := t.halls, agenda := t.agenda, attic := t.attic } ∧ Answers s t 0 ∧ (t.hall hall).poolBase = base ∧ (t.hall hall).poolCount = n) ∧
      (hall < 32 → (s.hall hall).poolUsed ≠ [] → refused (.setStatePool hall base n)) ∧ (hall < 32 → s.inHbm hall base (0x10_0000 * n) [rR, rW] = false → refused (.setStatePool hall base n)) ∧ (hall < 32 → s.inHbm hall base n [rW] = false → refused (.setTraceRing hall base n)) ∧
      (32 ≤ hall → refused (.setTraceRing hall base n) ∧ refused (.advanceTraceRing hall n) ∧ refused (.setStatePool hall base n) ∧ refused (.coreInService hall core) ∧
        refused (.moveImages hall 0) ∧ ∀ back, refused (.hallService hall back)) ∧
      (hall < 32 → n < 32 → s.hallUp n = true → (s.hall hall).images = [] → (s.hall hall).service ≠ .leaving → ∃ t, exec (.moveImages hall n) s = .next t ∧
        t = { s with attic := t.attic } ∧ Answers s t 0) ∧
      (hall < 32 → core < 192 → s.hallUp hall = true → ∃ t, exec (.coreInService hall core) s = .next t ∧ Answers s t 0 ∧ (t.ctx (16 * (192 * hall + core))).status = .vacant ∧
        (t.core (192 * hall + core)).closed = false ∧ ((∀ q, q ∈ s.parked → q.ctx ≠ 16 * (192 * hall + core)) →
        (∀ o, o < 0x4_0000 → memGet t.mem (localAddr (192 * hall + core) o) = 0) ∧
        ∀ a, (a < localAddr (192 * hall + core) 0 ∨ localAddr (192 * hall + core) 0x4_0000 ≤ a) → memGet t.mem a = memGet s.mem a)) ∧
      (n < 24 → n ∉ s.retired → s.root.1 ≠ n → tableNames s.mem n [0, 1, 2, 3] s.root.1 s.root.2 = false → ∃ t, exec (.retireStack n) s = .next t ∧
        t = { s with retired := n :: s.retired, cores := t.cores, attic := t.attic } ∧ Answers s t 0 ∧ ∀ k, k < 4 → (t.core (6144 + 4 * n + k)).closed = true) ∧
      (hall < 32 → (s.hall hall).service = .inService → ∃ t, exec (.hallService hall false) s = .next t ∧ (t.hall hall).service = .leaving ∧ (s.parked = [] → t.mem = s.mem) ∧
        ∀ c, (s.ctx c).status = .ready → s.hallOf (coreOf c) = hall → (t.ctx c).status = .halted 2) ∧
      (hall < 32 → (s.hall hall).service = .leaving → s.drained hall = true → (s.hall hall).images = [] → ∃ t, exec (.hallService hall false) s = .next t ∧
        (t.hall hall).service = .offline ∧ t.mem = s.mem ∧
        ((s.attic.cmds.filter fun c => c.event == some (.hallService hall false)).length ≤ 1 → Answers s t 0)) ∧
      (hall < 32 → (s.hall hall).service = .offline → ∃ t, exec (.hallService hall true) s = .next t ∧ (t.hall hall).service = .inService ∧ Answers s t 0 ∧
        tget 0 (t.hall hall).regions 0 = 0x8014_0000_00BC_0000 ∧ (∀ c o, c < 192 → o < 0x4_0000 → memGet t.mem (localAddr (192 * hall + c) o) = 0) ∧
        ∀ w, w < 262144 → memLoad t.mem (markAddr hall w) 8 = 0) ∧
      ∀ (u v : State) (ws ss : List Word) (cell : Nat), hall < 32 → core < 192 → s.houseRead 0 cell 8 = .ok u ws → cell % 64 = 0 → (ws.drop 3).all (· == 0) = true →
        u.houseRead 0 (ws.getD 1 0).toNat 16 = .ok v ss → s.hallUp hall = true → (s.core (192 * hall + core)).closed = false →
        (s.ctx (16 * (192 * hall + core))).status = .vacant → (s.ctx (16 * (192 * hall + core))).image = 0 → ∃ t, exec (.startHearths (2 ^ hall) core cell) s = .next t ∧
          Answers s t 0 ∧ t.mem = s.mem ∧ (t.ctx (16 * (192 * hall + core))).status = .ready ∧ (t.ctx (16 * (192 * hall + core))).pc = ws.headD 0 ∧
          (t.ctx (16 * (192 * hall + core))).rg 1 = ws.getD 2 0 ∧ (t.ctx (16 * (192 * hall + core))).st = 1 ∧ (∀ k, k ≠ 1 → (t.ctx (16 * (192 * hall + core))).rg k = 0) ∧
          ∀ c, c ≠ 16 * (192 * hall + core) → t.ctx c = s.ctx c)
  ) ∧
  (
    ∀ (s u v : State) (hall n a i : Nat) (r : ImgRec) (ps qs : List Phys), hall < 32 → n < 32 → s.attic.holding = false →
      (s.hallUp n = false → ∃ t, exec (.moveImages hall n) s = .next t ∧ t = { s with attic := t.attic } ∧ Answers s t 2) ∧ (s.hallUp n = true →
      (s.moveAll hall n (s.hall hall).images = none → ∃ t, exec (.moveImages hall n) s = .next t ∧ t = { s with attic := t.attic } ∧ Answers s t 1) ∧
      (∀ w, s.moveAll hall n (s.hall hall).images = some w → (s.hall hall).service ≠ .leaving → ∃ t, exec (.moveImages hall n) s = .next t ∧
        t = { w with attic := t.attic } ∧ Answers w t 0) ∧
      (∀ as w, s.moveImage hall n a = some w → s.moveAll hall n (a :: as) = w.moveAll hall n as) ∧
      ((s.hall hall).images = [] → (s.hall hall).service = .leaving → s.drained hall = true →
        (s.attic.cmds.filter fun c => c.event == some (.hallService hall false)).length ≤ 1 → ∃ t, exec (.moveImages hall n) s = .next t ∧
        (t.hall hall).service = .offline ∧ t.mem = s.mem ∧ t.attic.results = s.attic.results ++ [2 ^ 63, 2 ^ 63]) ∧
      (tfind s.images a = some r → (s.hall n).freeBlock = some i → s.blockPages hall (a - 0xF_FE00) rR = .ok u ps →
        let b := (s.hall n).block i + 0xF_FE00
        u.blockPages n ((s.hall n).block i) rW = .ok v qs → 0xF_FE00 ≤ a → a ≠ b →
        let moved := fun (t : State) =>
          (t.hall n).images = (if hall = n then ((s.hall n).images ++ [b]).erase a else (s.hall n).images ++ [b]) ∧
          (hall ≠ n → (t.hall hall).images = (s.hall hall).images.erase a) ∧ tfind t.images a = none ∧ tfind t.images b = some { r with hall := n } ∧ i ∈ (t.hall n).poolUsed ∧
          ((∀ x y, x < 0x10_0000 → y < 0x10_0000 → blockKey ps x ≠ blockKey qs y ∧ (blockKey qs x = blockKey qs y → x = y)) →
            memLoad t.mem (blockKey qs 0x10) 8 = b % 2 ^ 64 ∧
            ∀ k, k < 0x2_0000 → 8 * k ≠ 0x10 → 8 * k ≠ 0xF_FFA0 → memLoad t.mem (blockKey qs (8 * k)) 8 = memLoad s.mem (blockKey ps (8 * k)) 8)
        (∃ t, s.moveImage hall n a = some t ∧ moved t) ∧
        ((s.hall hall).images = [a] → (s.hall hall).service ≠ .leaving → ∃ t, exec (.moveImages hall n) s = .next t ∧ moved t ∧ Answers s t 0)))
  ) ∧
  (
    ∀ (s : State) (core desc : Nat), core < 16 →
      s.writeCommand (0x20_0000_0000 + 8 * core) desc = { s with attic := { s.attic with cmds := s.attic.cmds ++ [{ core := core, desc := desc / 64 * 64 }] } } ∧
      (s.attic.cmds.find? (fun c => c.core == core) = none → s.beginCommand core = s) ∧
      (∀ c, s.attic.cmds.find? (fun c => c.core == core) = some c →
        (∀ e, c.event = some e → s.beginCommand core = s) ∧
        (c.event = none → ∀ e t, commandOf (s.attic.descriptor c.desc) = some e →
          e.perform { s with attic := { s.attic with cmds := s.attic.cmds.replace c { c with event := some e } } } = .next t → s.beginCommand core = t) ∧
        (c.event = none → commandOf (s.attic.descriptor c.desc) = none → ∃ t, s.beginCommand core = t ∧ t = { s with attic := t.attic } ∧
          t.attic.cmds = s.attic.cmds.erase c ∧ tget 0 t.attic.memory (c.desc / 8 + 7) = word (2 ^ 63 + 1) ∧ Answers s t 1)) ∧
      ∀ ws : List Word, (fld (ws.headD 0) 63 8 ≠ 0 ∨ fld (ws.headD 0) 7 0 = 0 ∨ 0x0D < fld (ws.headD 0) 7 0) → commandOf ws = none
  )

/-- 03 R71; 25 R438 to R440: reset leaves every context vacant and memory as reset has it; an image boots when its signature verifies and its version is
not rolled back, and sixteen failures are told; an update of the runtime takes the other slot until it is confirmed; an alarm of level 1 stops every
task, of level 2 erases the key. The model's choices: whether a signature verifies is left open (log 11); what RESET keeps, and that memory is that of
reset (log 31); the alarm level of an image, taken modulo 3 (log 58); the attestation reply as one list of the parts of R439 in this order, the
signature last (log 59); and that boot, attestation and update do nothing while the attic holds (log 96). -/
def Obligations.ResetAndBoot : Prop :=
  ∀ (s : State) (image version nonce source : Nat),
    let a := s.attic
    (∃ t, exec .reset s = .next t ∧ t = { State.reset with fresh := s.fresh, nextId := s.nextId, fit := s.fit, attic := t.attic } ∧
      t.attic = { slots := a.slots, slotB := a.slotB, rollback := a.rollback, keyErased := a.keyErased, alarmLevel := a.alarmLevel, dump := { a.dump with requested := false, taken := false } }) ∧
    ((a.running = true ∨ a.holding = true) → exec (.boot image version) s = .next s) ∧
    (a.running = false → a.holding = false → Config.signatureOk image = true → a.rollback ≤ version → ∃ t, exec (.boot image version) s = .next t ∧
      t = { s with attic := t.attic } ∧ t.attic.running = true ∧ tget 0 t.attic.slots 2 = image ∧ t.attic.alarmLevel = max a.alarmLevel (Config.alarmLevel image % 3) ∧
      (a.go = false → t.attic = { a with running := true, slots := t.attic.slots, alarmLevel := t.attic.alarmLevel }) ∧
      (a.go = true → a.keyErased = false → t.attic.go = false ∧ ∃ sig, t.attic.reply = [Config.measure Config.bootRom, Config.measure image,
        Config.measure (tget 0 a.slots (b2n a.slotB)), a.rollback, a.mbuf % 2 ^ 256, sig])) ∧
    (a.running = false → a.holding = false → (Config.signatureOk image = false ∨ version < a.rollback) → ∃ t, exec (.boot image version) s = .next t ∧
      t = { s with attic := { a with bootTries := a.bootTries + 1, bootFailed := t.attic.bootFailed } } ∧
      (t.attic.bootFailed = true ↔ a.bootFailed = true ∨ 16 ≤ a.bootTries + 1)) ∧
    (a.running = true → a.holding = false → Config.signatureOk image = true → ∃ t, exec (.runtimeUpdate image version) s = .next t ∧
      t = { s with attic := { a with slotB := !a.slotB, unconfirmed := true, updated := s.clock.cc, changed := 0, slots := t.attic.slots } } ∧
      tget 0 t.attic.slots (b2n (!a.slotB)) = image ∧ tget 0 t.attic.slots 2 = image) ∧
    ((a.running = false ∨ a.holding = true) → exec (.runtimeUpdate image version) s = .next s) ∧
    (a.holding = false → a.unconfirmed = true → a.updated + 12500000000 ≤ s.clock.cc → ∃ t, exec .updateConfirmTimeout s = .next t ∧
      t = { s with attic := { a with slotB := !a.slotB, unconfirmed := false, changed := 16, slots := t.attic.slots } } ∧
      tget 0 t.attic.slots 2 = tget 0 a.slots (1 - b2n a.slotB)) ∧
    ((a.holding = true ∨ a.unconfirmed = false ∨ s.clock.cc < a.updated + 12500000000) → exec .updateConfirmTimeout s = .next s) ∧
    (a.holding = false → a.keyErased = false → a.running = true → ∃ t, exec (.attestationRequest nonce) s = .next t ∧ t = { s with attic := t.attic } ∧
      t.attic.reply = [Config.measure Config.bootRom, Config.measure (tget 0 a.slots 2), Config.measure (tget 0 a.slots (b2n a.slotB)), a.rollback, nonce % 2 ^ 256] ++
        [Config.sign [Config.measure Config.bootRom, Config.measure (tget 0 a.slots 2), Config.measure (tget 0 a.slots (b2n a.slotB)), a.rollback, nonce % 2 ^ 256]]) ∧
    ((a.keyErased = true ∨ a.running = false ∨ a.holding = true) → exec (.attestationRequest nonce) s = .next s) ∧
    (source < 6 → (source = 3 ∨ source = 4 ∨ 1 ≤ a.alarmLevel) → ∃ t, exec (.securityAlarm source) s = .next t ∧ t.attic.holding = true ∧ (s.parked = [] → t.mem = s.mem) ∧
      (a.alarmLevel < 2 → t.attic.keyErased = a.keyErased) ∧ (2 ≤ a.alarmLevel → t.attic.keyErased = true) ∧
      ∀ c, (s.ctx c).status = .ready → (t.ctx c).status = .halted 2) ∧
    (source < 6 → source ≠ 3 → source ≠ 4 → a.alarmLevel = 0 → ∃ t, exec (.securityAlarm source) s = .next t ∧
      t = { s with agenda := t.agenda, attic := t.attic, net := t.net, nextId := t.nextId } ∧ t.attic.holding = a.holding)

/-- 01 R8: an event that names a unit beyond the counts of the house stops under a name of its own. R8 says that no such unit is there; that the event
stops is the model's choice (log 67). -/
def Obligations.AbsentUnitsStop : Prop :=
  ∀ (s : State) (n k : Nat) (w : Word) (b : Bool) (times : SyncTimes),
    let stops := fun (e : Instr) => exec e s = .fault (.noSuchUnit n)
    (6240 ≤ n → stops (.issueCycle n) ∧ stops (.clearCoreCounters n)) ∧
    (32 ≤ n → stops (.slotEvent n) ∧ stops (.rotationBoundary n) ∧ stops (.hostLaunchCas n k w w) ∧ stops (.launchIntake n k) ∧ stops (.intakeReadRetry n k) ∧
      stops (.meshHop n k) ∧ stops (.sluiceSwitch n k k) ∧ stops (.starvationToken n k) ∧ stops (.markSweepWord n k) ∧ stops (.traceAppend n w w w w)) ∧ (32 ≤ n → s.attic.holding = false → stops (.peerDiscovery n k)) ∧
    (609 ≤ n → stops (.pageWalk n k)) ∧ (8 ≤ n → stops (.heartbeat n)) ∧ (2 ≤ n → stops (.syncMessage n k times)) ∧ (64 ≤ n → stops (.stopTableWrite n w w w)) ∧
    (16 ≤ n → stops (.crashDump n)) ∧ (24 ≤ n → s.attic.holding = false → stops (.setTranslationRoot n k)) ∧ (6 ≤ n → stops (.securityAlarm n)) ∧
    (72 ≤ n → stops (.linkRetrain n) ∧ stops (.linkRetrainTimeout n) ∧ stops (.esliaFlitError n k) ∧ stops (.halfRetrainTimeout n b)) ∧
    (6144 ≤ n → stops (.localStoreUncorrectable n k)) ∧ (768 ≤ n → stops (.frontStorageError n k))

/-- 00 R4, 04 R92 to R101: words written out from the decode tables decode to the instructions that they stand for; a reserved field, an illegal opcode
and a field code that its table does not allow are rejected. -/
def Obligations.RepresentativeWordsDecode : Prop :=
  decodeS 0x0430_8007 = .ok (.addImm 3 1 7) ∧ decodeS 0x2CE8_C800 = .ok (.cmpSkn 7 1 3 4) ∧ decodeS 0x31FF_FFF8 = .ok (.br 0x1FF_FFF8) ∧
    decodeS 0x0253_1C05 = .ok (.divI 5 6 7) ∧ decodeS 0x2844_A038 = .ok (.extN 4 9 16 7) ∧ decodeS 0x2A21_9080 = .ok (.setCc 2 3 4 2) ∧
    decodeS 0xC009_1801 = .ok (.movcWrite 18 6) ∧ decodeV 0x4A40_8000 = .ok (.tmma 2 1) ∧ decodeV 0x0263_1203 = .ok (.vfma 0 6 3 1 2 0) ∧
    decodeS 0x0432_0000 = .ok (.addImm 3 4 0) ∧
    (∀ w : Lane, (w.extractLsb' 25 7).toNat = 0x7F → (decodeS w).toOption = none) ∧ (decodeS 0x0200_0009).toOption = none ∧ (decodeS 0x2A21_9380).toOption = none

/-- 04 R88 to R90; 05 R108, R111: a step performs the oldest event, else the issue of the next core, else the tick of the counter (that order is the
model's, log 3), and the bundle that it latches. One with an access that a packet carries sets out and executes as its reply comes (log 4); another,
unless it loses the bank of a word and is tried again in the next cycle, executes now: an instruction that stands with a NOP in the other slot is
executed on the state in which the PC is at the next bundle, and two that neither stop are executed one on the other's result, S first (log 101), both
reading the registers that the bundle found. -/
def Obligations.StepRunsTheDecodedBundle : Prop :=
  ∀ s t : State,
    ((∃ e rest, s.agenda = e :: rest ∧ exec e { s with agenda := rest } = .next t) ∨
      (∃ core, s.agenda = [] ∧ s.nextCore = some core ∧ exec (.issueCycle core) { s with looked := core :: s.looked } = .next t) ∨
      (s.agenda = [] ∧ s.nextCore = none ∧ exec .counterTick { s with looked := [] } = .next t)) →
    (t.latch = none → step s = .next t) ∧
    ∀ c i j, t.latch = some c → decodeBundle (t.ctx c).bits = .ok (i, j) →
      let begun := t.begin c
      let runs := fun (v : State) => j = .nopV ∧ exec i begun = .next v ∨ i = .nopS ∧ exec j begun = .next v ∨
        ∃ u, exec i begun = .next u ∧ u.stopOf c (t.ctx c) = .none ∧ exec j u = .next v ∧ v.stopOf c (t.ctx c) = .none
      let ends := fun (u : State) => step s = .next (if (t.ctx c).flying.isSome then (u.finish c t).heed c else u.finish c t)
      begun.src = { t.ctx c with status := .ready } ∧
      ∀ v, runs v →
        (v.travels' c (t.ctx c) = true → step s = .next (t.fly c i v)) ∧
        (v.travels' c (t.ctx c) = false → (begun.losesPort i j = true → ends (begun.forgo i j)) ∧ (begun.losesPort i j = false → ends v))

/-- 03 R71; 09 R230; 14 R324; 17 R336; 24 R413: after reset every context is vacant, every full/empty word empty, every mark 0, every future entry free at
generation 1, and the house counter at 0 with INC 0xCCCC_CCCD; memory stands in its canonical form. -/
def Obligations.ResetLeaves : Prop :=
  State.reset.MemOk ∧ (∀ c, (State.reset.ctx c).status = .vacant) ∧ (∀ h, State.reset.isFull h = false) ∧
    (∀ hall w, hall < 32 → w < 262144 → memLoad State.reset.mem (markAddr hall w) 8 = 0) ∧
    (∀ hall j, hall < 32 → j < 65536 → memLoad State.reset.mem (futureAddr hall j) 8 = 0 ∧ memLoad State.reset.mem (futureAddr hall j + 8) 8 = 1) ∧
    State.reset.now = 0 ∧ State.reset.clock.cc = 0 ∧ State.reset.clock.inc = 0xCCCC_CCCD ∧ ∀ r n, (tget {} (State.reset.room r).fronts n : Front).cfg = 0

/-- 04 R88, R92 to R98: the decoder reads back the word that encodes a well-formed syllable, with every operand that its fields admit; an event has no
encoding. -/
def Obligations.EncodedSyllablesDecodeBack : Prop :=
  ∀ i : Instr, i.wf = true →
    match i.slot with
    | .s => ∃ w, encode i = some w ∧ decodeS w = .ok i
    | .v => ∃ w, encode i = some w ∧ decodeV w = .ok i
    | .event => encode i = none

/-- 04 R97, R98, R101: a word that the decoder accepts is the encoding of the instruction that it reads, and that is well formed: no bit of a syllable is
ignored. -/
def Obligations.DecodedWordsAreEncodings : Prop :=
  ∀ (w : Lane) (i : Instr),
    (decodeS w = .ok i → i.slot = .s ∧ i.wf = true ∧ encode i = some w) ∧ (decodeV w = .ok i → i.slot = .v ∧ i.wf = true ∧ encode i = some w)

/-- Every step that answers a next state keeps memory in its canonical form: keys rising, no byte listed that an unlisted address reads as. -/
def Obligations.StepsKeepMemoryInForm : Prop :=
 ∀ s t : State, s.MemOk → step s = .next t → t.MemOk

/-- 07 R167, R174, R176: a value that a format can represent is delivered unchanged, without a flag, in every rounding mode, saturating or not. -/
def Obligations.RepresentableValuesAreKept : Prop :=
  ∀ (f m c : Nat) (sat n : Bool) (k : Nat) (e : Int), 6 ≤ f → f ≤ 13 → m ≤ 4 → c < 2 ^ (if f = 11 ∨ f = 12 then 6 else Machine.tyWidth f) → (fmt f).val c = .fin n k e →
    (fmt f).deliver m sat (.fin n k e) = (c, 0)
end

