-- ==== Sys2Proof/Laws/Table.lean ====
section
/-! SUPPORT. Laws of sparse tables: what a key reads after a write, a removal or a clearing. They hold of any list, sorted or not. -/

namespace Sys2Proof.Machine

variable {α : Type}

@[simp] theorem tfind_nil (k : Nat) : tfind ([] : Tab α) k = none := rfl

@[simp] theorem tget_nil (d : α) (k : Nat) : tget d [] k = d := rfl

@[simp] theorem tfind_tset_self (t : Tab α) (k : Nat) (v : α) : tfind (tset t k v) k = some v := by
  induction t with
  | nil => simp [tset, tfind]
  | cons e t ih =>
    obtain ⟨k', v'⟩ := e
    simp only [tset]
    split
    · simp [tfind]
    · split
      · simp [tfind]
      · rename_i h
        simp [tfind, h, ih]

theorem tfind_tset_ne (t : Tab α) {k j : Nat} (v : α) (h : j ≠ k) : tfind (tset t k v) j = tfind t j := by
  induction t with
  | nil => simp [tset, tfind, h]
  | cons e t ih =>
    obtain ⟨k', v'⟩ := e
    simp only [tset]
    split
    · simp [tfind, h]
    · split
      · rename_i hk
        subst hk
        simp [tfind, h]
      · simp only [tfind, ih]

@[simp] theorem tfind_tdel_self (t : Tab α) (k : Nat) : tfind (tdel t k) k = none := by
  induction t with
  | nil => rfl
  | cons e t ih =>
    obtain ⟨k', v'⟩ := e
    simp only [tdel]
    split
    · exact ih
    · rename_i h
      simp [tfind, h, ih]

theorem tfind_tdel_ne (t : Tab α) {k j : Nat} (h : j ≠ k) : tfind (tdel t k) j = tfind t j := by
  induction t with
  | nil => rfl
  | cons e t ih =>
    obtain ⟨k', v'⟩ := e
    simp only [tdel]
    split
    · rename_i hk
      subst hk
      simp [tfind, h, ih]
    · simp only [tfind, ih]

@[simp] theorem tget_tset_self (d : α) (t : Tab α) (k : Nat) (v : α) : tget d (tset t k v) k = v := by simp [tget]

theorem tget_tset_ne (d : α) (t : Tab α) {k j : Nat} (v : α) (h : j ≠ k) : tget d (tset t k v) j = tget d t j := by
  simp [tget, tfind_tset_ne t v h]

@[simp] theorem tget_tdel_self (d : α) (t : Tab α) (k : Nat) : tget d (tdel t k) k = d := by simp [tget]

theorem tget_tdel_ne (d : α) (t : Tab α) {k j : Nat} (h : j ≠ k) : tget d (tdel t k) j = tget d t j := by
  simp [tget, tfind_tdel_ne t h]

@[simp] theorem tget_tput_self [DecidableEq α] (d : α) (t : Tab α) (k : Nat) (v : α) : tget d (tput d t k v) k = v := by
  unfold tput
  split
  · rename_i h
    simp [h]
  · simp

theorem tget_tput_ne [DecidableEq α] (d : α) (t : Tab α) {k j : Nat} (v : α) (h : j ≠ k) : tget d (tput d t k v) j = tget d t j := by
  unfold tput
  split
  · exact tget_tdel_ne d t h
  · exact tget_tset_ne d t v h

/-- A table read at one key after a write at another or the same. -/
theorem tget_tput [DecidableEq α] (d : α) (t : Tab α) (k j : Nat) (v : α) :
    tget d (tput d t k v) j = if j = k then v else tget d t j := by
  split
  · rename_i h
    subst h
    simp
  · rename_i h
    exact tget_tput_ne d t v h

/-- A cleared key reads as nothing, any other key as before. -/
theorem tfind_tclear (t : Tab α) (lo hi j : Nat) :
    tfind (tclear t lo hi) j = if lo ≤ j ∧ j < hi then none else tfind t j := by
  induction t with
  | nil => simp [tclear, tfind]
  | cons e t ih =>
    obtain ⟨k, v⟩ := e
    simp only [tclear] at ih ⊢
    by_cases hk : k < lo ∨ hi ≤ k
    · simp only [List.filter_cons]
      rw [if_pos (by simpa using hk)]
      simp only [tfind, ih]
      split
      · rename_i hj
        subst hj
        rw [if_neg (by omega)]
      · rfl
    · simp only [List.filter_cons]
      rw [if_neg (by simpa using hk), ih]
      split
      · rfl
      · rename_i hj
        have : j ≠ k := by
          intro h
          subst h
          omega
        simp [tfind, this]

end Sys2Proof.Machine
end

