-- ==== Sys2Proof/Laws/Memory.lean ====
section
/-! SUPPORT. Laws of memory: what a byte reads after a store, and that every memory operation keeps the canonical form. -/

namespace Sys2Proof.Machine

/-! Reads after writes. -/

@[simp] theorem memGet_memPut_self (m : List Host.Cell) (a : Nat) (v : Byte) : memGet (memPut m a v) a = v := by
  unfold memGet memPut
  split
  · rename_i h
    simp [h]
  · simp

theorem memGet_memPut_ne (m : List Host.Cell) {a b : Nat} (v : Byte) (h : b ≠ a) : memGet (memPut m a v) b = memGet m b := by
  unfold memGet memPut
  split
  · exact tget_tdel_ne _ m h
  · exact tget_tset_ne _ m v h

/-- A store leaves every byte outside its span as it was. -/
theorem memGet_memStore_outside (n : Nat) : ∀ (m : List Host.Cell) (a v b : Nat), b < a ∨ a + n ≤ b →
    memGet (memStore m a v n) b = memGet m b := by
  induction n with
  | zero => intro m a v b _; rfl
  | succ n ih =>
    intro m a v b h
    simp only [memStore]
    rw [ih _ _ _ _ (by omega)]
    exact memGet_memPut_ne m _ (by omega)

/-- A store of `n` bytes at `a` leaves at byte `a + i` the byte `i` of the value. -/
theorem memGet_memStore_inside (n : Nat) : ∀ (m : List Host.Cell) (a v i : Nat), i < n →
    memGet (memStore m a v n) (a + i) = BitVec.ofNat 8 (v / 256 ^ i) := by
  induction n with
  | zero => intro m a v i h; omega
  | succ n ih =>
    intro m a v i h
    simp only [memStore]
    cases i with
    | zero =>
      rw [memGet_memStore_outside n _ _ _ _ (by omega)]
      simp
    | succ i =>
      have := ih (memPut m a (BitVec.ofNat 8 v)) (a + 1) (v / 256) i (by omega)
      rw [show a + (i + 1) = a + 1 + i by omega, this, Nat.div_div_eq_div_mul, show 256 * 256 ^ i = 256 ^ (i + 1) by rw [Nat.pow_succ, Nat.mul_comm]]

/-- Loads of spans apart from a store read as before. -/
theorem memLoad_memStore_apart (k : Nat) : ∀ (m : List Host.Cell) (a v n b : Nat), b + k ≤ a ∨ a + n ≤ b →
    memLoad (memStore m a v n) b k = memLoad m b k := by
  induction k with
  | zero => intro m a v n b _; rfl
  | succ k ih =>
    intro m a v n b h
    simp only [memLoad]
    rw [ih _ _ _ _ _ (by omega), memGet_memStore_outside n m a v b (by omega)]

/-- A load of the span just stored gives the low bytes of the value. -/
theorem memLoad_memStore_self (n : Nat) : ∀ (m : List Host.Cell) (a v : Nat), memLoad (memStore m a v n) a n = v % 256 ^ n := by
  induction n with
  | zero => intro m a v; simp [memLoad, Nat.mod_one]
  | succ n ih =>
    intro m a v
    simp only [memLoad, memStore]
    rw [memGet_memStore_outside n _ _ _ _ (by omega), ih]
    simp only [memGet_memPut_self, BitVec.toNat_ofNat]
    rw [show (256 : Nat) ^ (n + 1) = 256 * 256 ^ n by rw [Nat.pow_succ, Nat.mul_comm], Nat.mod_mul]

/-- A load depends on the bytes of its span alone. -/
theorem memLoad_congr (k : Nat) : ∀ (m m' : List Host.Cell) (b : Nat), (∀ i, i < k → memGet m (b + i) = memGet m' (b + i)) →
    memLoad m b k = memLoad m' b k := by
  induction k with
  | zero => intros; rfl
  | succ k ih =>
    intro m m' b h
    simp only [memLoad]
    rw [ih m m' (b + 1) fun i hi => by
      have := h (i + 1) (by omega)
      rwa [show b + (i + 1) = b + 1 + i by omega] at this]
    rw [show memGet m b = memGet m' b by simpa using h 0 (by omega)]

/-- A load of `k` bytes is below 256^k. -/
theorem memLoad_lt (k : Nat) : ∀ (m : List Host.Cell) (b : Nat), memLoad m b k < 256 ^ k := by
  induction k with
  | zero => intros; simp [memLoad]
  | succ k ih =>
    intro m b
    have h1 := ih m (b + 1)
    have h2 := (memGet m b).isLt
    simp only [memLoad, Nat.pow_succ]
    omega

/-! The canonical form. -/

/-- Keys rise strictly and every one lies above `b`. -/
def risingAbove (b : Nat) : List Host.Cell → Prop
  | [] => True
  | c :: t => b < c.1 ∧ risingAbove c.1 t

theorem rising_cons_iff (c : Host.Cell) (t : List Host.Cell) : rising (c :: t) = true ↔ risingAbove c.1 t := by
  induction t generalizing c with
  | nil => simp [rising, risingAbove]
  | cons d t ih =>
    simp only [rising, risingAbove, Bool.and_eq_true, decide_eq_true_eq]
    rw [ih d]

theorem risingAbove_mono {b c : Nat} (h : b ≤ c) (t : List Host.Cell) (ht : risingAbove c t) : risingAbove b t := by
  cases t with
  | nil => trivial
  | cons d t => exact ⟨Nat.lt_of_le_of_lt h ht.1, ht.2⟩

theorem risingAbove_tset (b : Nat) (t : List Host.Cell) (k : Nat) (v : Byte) (ht : risingAbove b t) (hk : b < k) :
    risingAbove b (tset t k v) := by
  induction t generalizing b with
  | nil => exact ⟨hk, trivial⟩
  | cons d t ih =>
    obtain ⟨k', v'⟩ := d
    simp only [tset]
    split
    · rename_i h
      exact ⟨hk, h, ht.2⟩
    · split
      · rename_i h
        subst h
        exact ⟨ht.1, ht.2⟩
      · rename_i h1 h2
        exact ⟨ht.1, ih k' ht.2 (by omega)⟩

theorem risingAbove_filter (b : Nat) (t : List Host.Cell) (p : Host.Cell → Bool) (ht : risingAbove b t) : risingAbove b (t.filter p) := by
  induction t generalizing b with
  | nil => trivial
  | cons d t ih =>
    simp only [List.filter_cons]
    split
    · exact ⟨ht.1, ih d.1 ht.2⟩
    · exact ih b (risingAbove_mono (Nat.le_of_lt ht.1) t ht.2)

theorem tdel_eq_filter {α : Type} (t : Tab α) (k : Nat) : tdel t k = t.filter fun e => decide (k ≠ e.1) := by
  induction t with
  | nil => rfl
  | cons e t ih =>
    obtain ⟨k', v⟩ := e
    simp only [tdel, List.filter_cons]
    split
    · rename_i h
      subst h
      simp [ih]
    · rename_i h
      simp [h, ih]

theorem risingAbove_rising (b : Nat) (t : List Host.Cell) (ht : risingAbove b t) : rising t = true := by
  cases t with
  | nil => rfl
  | cons d t => exact (rising_cons_iff d t).2 ht.2

theorem rising_tset (t : List Host.Cell) (k : Nat) (v : Byte) (ht : rising t = true) : rising (tset t k v) = true := by
  cases t with
  | nil => rfl
  | cons d t =>
    obtain ⟨k', v'⟩ := d
    have h' := (rising_cons_iff (k', v') t).1 ht
    simp only [tset]
    split
    · rename_i h
      exact (rising_cons_iff _ _).2 ⟨h, h'⟩
    · split
      · rename_i h
        subst h
        exact (rising_cons_iff _ _).2 h'
      · rename_i h1 h2
        exact (rising_cons_iff _ _).2 (risingAbove_tset k' t k v h' (by omega))

theorem rising_filter (t : List Host.Cell) (p : Host.Cell → Bool) (ht : rising t = true) : rising (t.filter p) = true := by
  cases t with
  | nil => rfl
  | cons d t =>
    have h := (rising_cons_iff d t).1 ht
    simp only [List.filter_cons]
    split
    · exact (rising_cons_iff _ _).2 (risingAbove_filter d.1 t p h)
    · exact risingAbove_rising d.1 _ (risingAbove_filter d.1 t p h)

theorem mem_tset {α : Type} (t : Tab α) (k : Nat) (v : α) (e : Nat × α) (h : e ∈ tset t k v) : e = (k, v) ∨ e ∈ t := by
  induction t with
  | nil => simpa [tset] using h
  | cons d t ih =>
    obtain ⟨k', v'⟩ := d
    simp only [tset] at h
    split at h
    · rcases List.mem_cons.1 h with h | h
      · exact .inl h
      · exact .inr h
    · split at h
      · rcases List.mem_cons.1 h with h | h
        · exact .inl h
        · exact .inr (List.mem_cons_of_mem _ h)
      · rcases List.mem_cons.1 h with h | h
        · exact .inr (h ▸ List.mem_cons_self ..)
        · rcases ih h with h | h
          · exact .inl h
          · exact .inr (List.mem_cons_of_mem _ h)

theorem wf_iff (m : List Host.Cell) : Memory.wf m = true ↔ rising m = true ∧ ∀ c ∈ m, c.2 ≠ blank c.1 := by
  simp [Memory.wf]

@[simp] theorem wf_nil : Memory.wf [] = true := rfl

theorem wf_filter (m : List Host.Cell) (p : Host.Cell → Bool) (h : Memory.wf m = true) : Memory.wf (m.filter p) = true := by
  rw [wf_iff] at h ⊢
  exact ⟨rising_filter m p h.1, fun c hc => h.2 c (List.mem_filter.1 hc |>.1)⟩

/-- A byte written keeps the canonical form. -/
theorem wf_memPut (m : List Host.Cell) (a : Nat) (v : Byte) (h : Memory.wf m = true) : Memory.wf (memPut m a v) = true := by
  unfold memPut
  split
  · rw [tdel_eq_filter]
    exact wf_filter m _ h
  · rename_i hv
    rw [wf_iff] at h ⊢
    refine ⟨rising_tset m a v h.1, fun c hc => ?_⟩
    rcases mem_tset m a v c hc with rfl | hc
    · exact hv
    · exact h.2 c hc

/-- A store keeps the canonical form. -/
theorem wf_memStore (n : Nat) : ∀ (m : List Host.Cell) (a v : Nat), Memory.wf m = true → Memory.wf (memStore m a v n) = true := by
  induction n with
  | zero => intro m a v h; exact h
  | succ n ih => intro m a v h; exact ih _ _ _ (wf_memPut m a _ h)

/-- A cleared span keeps the canonical form. -/
theorem wf_tclear (m : List Host.Cell) (lo hi : Nat) (h : Memory.wf m = true) : Memory.wf (tclear m lo hi) = true := wf_filter m _ h

theorem State.wf_store (s : State) (key n v : Nat) (h : Memory.wf s.mem = true) : Memory.wf (s.store key n v).mem = true :=
  wf_memStore n s.mem key v h

/-- Memory after reset stands in the canonical form. -/
theorem State.reset_wf : Memory.wf State.reset.mem = true := rfl

end Sys2Proof.Machine
end

