-- ==== Sys2Proof/Laws/Fabric.lean ====
section
/-! SUPPORT. What sending a packet may change: the network, the agenda and the packets' numbers; a relaxed packet, a free choice too. -/

namespace Sys2Proof.Machine

variable (s : State)

/-- Of the house, a packet's choice of direction changes the counter of free values alone. -/
theorem State.choose_frame (hall : Nat) (p : Packet) : (s.choose hall p).1 = { s with fresh := (s.choose hall p).1.fresh } := by
  unfold State.choose
  dsimp only
  split
  · rfl
  · split
    · split <;> rfl
    · rfl

/-- A packet of a deterministic class makes no free choice (11 R262). -/
theorem State.choose_plain (hall : Nat) (p : Packet) (h : p.cls ≠ 1) : (s.choose hall p).1 = s := by
  unfold State.choose
  dsimp only
  split
  · rfl
  · simp [h]

theorem State.enterSluice_frame (hall line : Nat) (p : Packet) :
    s.enterSluice hall line p = { s with net := (s.enterSluice hall line p).net, agenda := (s.enterSluice hall line p).agenda,
                                         fresh := (s.enterSluice hall line p).fresh } := by
  unfold State.enterSluice State.post
  dsimp only
  split
  · rfl
  · rw [State.choose_frame]

theorem State.enterSluice_plain (hall line : Nat) (p : Packet) (h : p.cls ≠ 1) :
    s.enterSluice hall line p = { s with net := (s.enterSluice hall line p).net, agenda := (s.enterSluice hall line p).agenda } := by
  unfold State.enterSluice State.post
  dsimp only
  split
  · rfl
  · rw [State.choose_plain _ _ _ h]

theorem State.losePacket_frame (p : Packet) :
    s.losePacket p = { s with net := (s.losePacket p).net, agenda := (s.losePacket p).agenda } := by
  unfold State.losePacket
  dsimp only
  split
  · split <;> rfl
  · rfl

theorem State.offer_frame (link tag : Nat) (p : Packet) :
    s.offer link tag p = { s with net := (s.offer link tag p).net, agenda := (s.offer link tag p).agenda } := by
  unfold State.offer
  split
  · exact s.losePacket_frame p
  · split <;> rfl

theorem State.send_frame (source target : Nat × Nat) (p : Packet) :
    s.send source target p = { s with net := (s.send source target p).net, agenda := (s.send source target p).agenda,
                                      nextId := (s.send source target p).nextId, fresh := (s.send source target p).fresh } := by
  unfold State.send State.sendFrom
  dsimp only
  split
  · rw [State.offer_frame]
  · rw [State.enterSluice_frame]

theorem State.send_plain (source target : Nat × Nat) (p : Packet) (h : p.cls ≠ 1) :
    s.send source target p = { s with net := (s.send source target p).net, agenda := (s.send source target p).agenda,
                                      nextId := (s.send source target p).nextId } := by
  unfold State.send State.sendFrom
  dsimp only
  split
  · rw [State.offer_frame]
  · rw [State.enterSluice_plain _ _ _ _ (by exact h)]

theorem State.request_frame (ctx h bytes : Nat) (back : Option Nat) (cargo : List Instr) :
    s.request ctx h bytes back cargo =
      { s with net := (s.request ctx h bytes back cargo).net, agenda := (s.request ctx h bytes back cargo).agenda,
               nextId := (s.request ctx h bytes back cargo).nextId } := by
  unfold State.request
  split
  · rfl
  · rw [State.send_plain _ _ _ _ (by show (0 : Nat) ≠ 1; decide)]

/-- What one unit of the house tells another changes the network, the agenda and the packets' numbers. -/
theorem State.convey_frame (source target : Nat × Nat) (bytes : Nat) (cargo : List Instr) (back : Option Nat) :
    s.convey source target bytes cargo back =
      { s with net := (s.convey source target bytes cargo back).net, agenda := (s.convey source target bytes cargo back).agenda,
               nextId := (s.convey source target bytes cargo back).nextId } := by
  unfold State.convey
  split
  · rfl
  · rw [State.send_plain _ _ _ _ (by show (3 : Nat) ≠ 1; decide)]

/-- A packet that enters a sluice stands there with its cargo. -/
theorem State.enterSluice_sluice (hall line : Nat) (p : Packet) :
    ∃ e, (s.enterSluice hall line p).net.sluice = s.net.sluice ++ [e] ∧ e.pkt.cargo = p.cargo ∧ e.pkt.bytes = p.bytes ∧ e.pkt.who = p.who := by
  have h : ∃ r : State × Option Nat, r.1.net = s.net ∧
      s.enterSluice hall line p = State.post { r.1 with net := { r.1.net with sluice := r.1.net.sluice ++
        [{ hall := hall, stage := 0, line := line, pkt := { p with dir := r.2, leg := 0 }, came := s.clock.cc,
           exit := if hall = p.dstHall then p.dstPort else 232 + 4 * r.2.getD (s.wayFrom hall p.dstHall) + p.id % 4 : SwEntry }] } }
        (.sluiceSwitch hall 0 (switchOf line)) := by
    unfold State.enterSluice
    split
    · exact ⟨(s, none), rfl, by simp_all⟩
    · exact ⟨s.choose hall p, by rw [State.choose_frame], by simp_all⟩
  obtain ⟨r, hr, h⟩ := h
  rw [h]
  rw [← hr]
  exact ⟨_, rfl, rfl, rfl, rfl⟩

/-- The packet that `send` adds stands in the sluice of its source with its cargo, unless it comes from beyond a ford or an Eslia link. -/
theorem State.send_sluice (source target : Nat × Nat) (p : Packet) (h : attachOf source.1 source.2 = none) :
    ∃ e, (s.send source target p).net.sluice = s.net.sluice ++ [e] ∧ e.pkt.cargo = p.cargo ∧ e.pkt.bytes = p.bytes ∧ e.pkt.who = p.who := by
  unfold State.send State.sendFrom
  rw [h]
  exact State.enterSluice_sluice ..

end Sys2Proof.Machine
end

