-- ==== Sys2Proof/Laws/State.lean ====
section
/-! SUPPORT. Laws of the state: what each update leaves in each field, and what the accessors read after it. -/

namespace Sys2Proof.Machine

variable (s : State)

/-! `State.setHall` changes `halls` alone. -/

@[simp] theorem State.setHall_clock (h : Nat) (f : Hall → Hall) : (s.setHall h f).clock = s.clock := rfl
@[simp] theorem State.setHall_mem (h : Nat) (f : Hall → Hall) : (s.setHall h f).mem = s.mem := rfl
@[simp] theorem State.setHall_full (h : Nat) (f : Hall → Hall) : (s.setHall h f).full = s.full := rfl
@[simp] theorem State.setHall_parked (h : Nat) (f : Hall → Hall) : (s.setHall h f).parked = s.parked := rfl
@[simp] theorem State.setHall_ctxs (h : Nat) (f : Hall → Hall) : (s.setHall h f).ctxs = s.ctxs := rfl
@[simp] theorem State.setHall_cores (h : Nat) (f : Hall → Hall) : (s.setHall h f).cores = s.cores := rfl
@[simp] theorem State.setHall_rooms (h : Nat) (f : Hall → Hall) : (s.setHall h f).rooms = s.rooms := rfl
@[simp] theorem State.setHall_wings (h : Nat) (f : Hall → Hall) : (s.setHall h f).wings = s.wings := rfl
@[simp] theorem State.setHall_launches (h : Nat) (f : Hall → Hall) : (s.setHall h f).launches = s.launches := rfl
@[simp] theorem State.setHall_replays (h : Nat) (f : Hall → Hall) : (s.setHall h f).replays = s.replays := rfl
@[simp] theorem State.setHall_graphs (h : Nat) (f : Hall → Hall) : (s.setHall h f).graphs = s.graphs := rfl
@[simp] theorem State.setHall_trees (h : Nat) (f : Hall → Hall) : (s.setHall h f).trees = s.trees := rfl
@[simp] theorem State.setHall_tlbs (h : Nat) (f : Hall → Hall) : (s.setHall h f).tlbs = s.tlbs := rfl
@[simp] theorem State.setHall_root (h : Nat) (f : Hall → Hall) : (s.setHall h f).root = s.root := rfl
@[simp] theorem State.setHall_retired (h : Nat) (f : Hall → Hall) : (s.setHall h f).retired = s.retired := rfl
@[simp] theorem State.setHall_peers (h : Nat) (f : Hall → Hall) : (s.setHall h f).peers = s.peers := rfl
@[simp] theorem State.setHall_flights (h : Nat) (f : Hall → Hall) : (s.setHall h f).flights = s.flights := rfl
@[simp] theorem State.setHall_cells (h : Nat) (f : Hall → Hall) : (s.setHall h f).cells = s.cells := rfl
@[simp] theorem State.setHall_images (h : Nat) (f : Hall → Hall) : (s.setHall h f).images = s.images := rfl
@[simp] theorem State.setHall_shadow (h : Nat) (f : Hall → Hall) : (s.setHall h f).shadow = s.shadow := rfl
@[simp] theorem State.setHall_preempts (h : Nat) (f : Hall → Hall) : (s.setHall h f).preempts = s.preempts := rfl
@[simp] theorem State.setHall_net (h : Nat) (f : Hall → Hall) : (s.setHall h f).net = s.net := rfl
@[simp] theorem State.setHall_attic (h : Nat) (f : Hall → Hall) : (s.setHall h f).attic = s.attic := rfl
@[simp] theorem State.setHall_agenda (h : Nat) (f : Hall → Hall) : (s.setHall h f).agenda = s.agenda := rfl
@[simp] theorem State.setHall_later (h : Nat) (f : Hall → Hall) : (s.setHall h f).later = s.later := rfl
@[simp] theorem State.setHall_looked (h : Nat) (f : Hall → Hall) : (s.setHall h f).looked = s.looked := rfl
@[simp] theorem State.setHall_before (h : Nat) (f : Hall → Hall) : (s.setHall h f).before = s.before := rfl
@[simp] theorem State.setHall_dest (h : Nat) (f : Hall → Hall) : (s.setHall h f).dest = s.dest := rfl
@[simp] theorem State.setHall_cur (h : Nat) (f : Hall → Hall) : (s.setHall h f).cur = s.cur := rfl
@[simp] theorem State.setHall_view (h : Nat) (f : Hall → Hall) : (s.setHall h f).view = s.view := rfl
@[simp] theorem State.setHall_latch (h : Nat) (f : Hall → Hall) : (s.setHall h f).latch = s.latch := rfl
@[simp] theorem State.setHall_issuing (h : Nat) (f : Hall → Hall) : (s.setHall h f).issuing = s.issuing := rfl
@[simp] theorem State.setHall_fresh (h : Nat) (f : Hall → Hall) : (s.setHall h f).fresh = s.fresh := rfl
@[simp] theorem State.setHall_nextId (h : Nat) (f : Hall → Hall) : (s.setHall h f).nextId = s.nextId := rfl
@[simp] theorem State.setHall_fit (h : Nat) (f : Hall → Hall) : (s.setHall h f).fit = s.fit := rfl

/-! `State.setRoom` changes `rooms` alone. -/

@[simp] theorem State.setRoom_clock (r : Nat) (f : Room → Room) : (s.setRoom r f).clock = s.clock := rfl
@[simp] theorem State.setRoom_mem (r : Nat) (f : Room → Room) : (s.setRoom r f).mem = s.mem := rfl
@[simp] theorem State.setRoom_full (r : Nat) (f : Room → Room) : (s.setRoom r f).full = s.full := rfl
@[simp] theorem State.setRoom_parked (r : Nat) (f : Room → Room) : (s.setRoom r f).parked = s.parked := rfl
@[simp] theorem State.setRoom_ctxs (r : Nat) (f : Room → Room) : (s.setRoom r f).ctxs = s.ctxs := rfl
@[simp] theorem State.setRoom_cores (r : Nat) (f : Room → Room) : (s.setRoom r f).cores = s.cores := rfl
@[simp] theorem State.setRoom_halls (r : Nat) (f : Room → Room) : (s.setRoom r f).halls = s.halls := rfl
@[simp] theorem State.setRoom_wings (r : Nat) (f : Room → Room) : (s.setRoom r f).wings = s.wings := rfl
@[simp] theorem State.setRoom_launches (r : Nat) (f : Room → Room) : (s.setRoom r f).launches = s.launches := rfl
@[simp] theorem State.setRoom_replays (r : Nat) (f : Room → Room) : (s.setRoom r f).replays = s.replays := rfl
@[simp] theorem State.setRoom_graphs (r : Nat) (f : Room → Room) : (s.setRoom r f).graphs = s.graphs := rfl
@[simp] theorem State.setRoom_trees (r : Nat) (f : Room → Room) : (s.setRoom r f).trees = s.trees := rfl
@[simp] theorem State.setRoom_tlbs (r : Nat) (f : Room → Room) : (s.setRoom r f).tlbs = s.tlbs := rfl
@[simp] theorem State.setRoom_root (r : Nat) (f : Room → Room) : (s.setRoom r f).root = s.root := rfl
@[simp] theorem State.setRoom_retired (r : Nat) (f : Room → Room) : (s.setRoom r f).retired = s.retired := rfl
@[simp] theorem State.setRoom_peers (r : Nat) (f : Room → Room) : (s.setRoom r f).peers = s.peers := rfl
@[simp] theorem State.setRoom_flights (r : Nat) (f : Room → Room) : (s.setRoom r f).flights = s.flights := rfl
@[simp] theorem State.setRoom_cells (r : Nat) (f : Room → Room) : (s.setRoom r f).cells = s.cells := rfl
@[simp] theorem State.setRoom_images (r : Nat) (f : Room → Room) : (s.setRoom r f).images = s.images := rfl
@[simp] theorem State.setRoom_shadow (r : Nat) (f : Room → Room) : (s.setRoom r f).shadow = s.shadow := rfl
@[simp] theorem State.setRoom_preempts (r : Nat) (f : Room → Room) : (s.setRoom r f).preempts = s.preempts := rfl
@[simp] theorem State.setRoom_net (r : Nat) (f : Room → Room) : (s.setRoom r f).net = s.net := rfl
@[simp] theorem State.setRoom_attic (r : Nat) (f : Room → Room) : (s.setRoom r f).attic = s.attic := rfl
@[simp] theorem State.setRoom_agenda (r : Nat) (f : Room → Room) : (s.setRoom r f).agenda = s.agenda := rfl
@[simp] theorem State.setRoom_later (r : Nat) (f : Room → Room) : (s.setRoom r f).later = s.later := rfl
@[simp] theorem State.setRoom_looked (r : Nat) (f : Room → Room) : (s.setRoom r f).looked = s.looked := rfl
@[simp] theorem State.setRoom_before (r : Nat) (f : Room → Room) : (s.setRoom r f).before = s.before := rfl
@[simp] theorem State.setRoom_dest (r : Nat) (f : Room → Room) : (s.setRoom r f).dest = s.dest := rfl
@[simp] theorem State.setRoom_cur (r : Nat) (f : Room → Room) : (s.setRoom r f).cur = s.cur := rfl
@[simp] theorem State.setRoom_view (r : Nat) (f : Room → Room) : (s.setRoom r f).view = s.view := rfl
@[simp] theorem State.setRoom_latch (r : Nat) (f : Room → Room) : (s.setRoom r f).latch = s.latch := rfl
@[simp] theorem State.setRoom_issuing (r : Nat) (f : Room → Room) : (s.setRoom r f).issuing = s.issuing := rfl
@[simp] theorem State.setRoom_fresh (r : Nat) (f : Room → Room) : (s.setRoom r f).fresh = s.fresh := rfl
@[simp] theorem State.setRoom_nextId (r : Nat) (f : Room → Room) : (s.setRoom r f).nextId = s.nextId := rfl
@[simp] theorem State.setRoom_fit (r : Nat) (f : Room → Room) : (s.setRoom r f).fit = s.fit := rfl

/-! `State.setCore` changes `cores` alone. -/

@[simp] theorem State.setCore_clock (k : Nat) (f : Core → Core) : (s.setCore k f).clock = s.clock := rfl
@[simp] theorem State.setCore_mem (k : Nat) (f : Core → Core) : (s.setCore k f).mem = s.mem := rfl
@[simp] theorem State.setCore_full (k : Nat) (f : Core → Core) : (s.setCore k f).full = s.full := rfl
@[simp] theorem State.setCore_parked (k : Nat) (f : Core → Core) : (s.setCore k f).parked = s.parked := rfl
@[simp] theorem State.setCore_ctxs (k : Nat) (f : Core → Core) : (s.setCore k f).ctxs = s.ctxs := rfl
@[simp] theorem State.setCore_rooms (k : Nat) (f : Core → Core) : (s.setCore k f).rooms = s.rooms := rfl
@[simp] theorem State.setCore_halls (k : Nat) (f : Core → Core) : (s.setCore k f).halls = s.halls := rfl
@[simp] theorem State.setCore_wings (k : Nat) (f : Core → Core) : (s.setCore k f).wings = s.wings := rfl
@[simp] theorem State.setCore_launches (k : Nat) (f : Core → Core) : (s.setCore k f).launches = s.launches := rfl
@[simp] theorem State.setCore_replays (k : Nat) (f : Core → Core) : (s.setCore k f).replays = s.replays := rfl
@[simp] theorem State.setCore_graphs (k : Nat) (f : Core → Core) : (s.setCore k f).graphs = s.graphs := rfl
@[simp] theorem State.setCore_trees (k : Nat) (f : Core → Core) : (s.setCore k f).trees = s.trees := rfl
@[simp] theorem State.setCore_tlbs (k : Nat) (f : Core → Core) : (s.setCore k f).tlbs = s.tlbs := rfl
@[simp] theorem State.setCore_root (k : Nat) (f : Core → Core) : (s.setCore k f).root = s.root := rfl
@[simp] theorem State.setCore_retired (k : Nat) (f : Core → Core) : (s.setCore k f).retired = s.retired := rfl
@[simp] theorem State.setCore_peers (k : Nat) (f : Core → Core) : (s.setCore k f).peers = s.peers := rfl
@[simp] theorem State.setCore_flights (k : Nat) (f : Core → Core) : (s.setCore k f).flights = s.flights := rfl
@[simp] theorem State.setCore_cells (k : Nat) (f : Core → Core) : (s.setCore k f).cells = s.cells := rfl
@[simp] theorem State.setCore_images (k : Nat) (f : Core → Core) : (s.setCore k f).images = s.images := rfl
@[simp] theorem State.setCore_shadow (k : Nat) (f : Core → Core) : (s.setCore k f).shadow = s.shadow := rfl
@[simp] theorem State.setCore_preempts (k : Nat) (f : Core → Core) : (s.setCore k f).preempts = s.preempts := rfl
@[simp] theorem State.setCore_net (k : Nat) (f : Core → Core) : (s.setCore k f).net = s.net := rfl
@[simp] theorem State.setCore_attic (k : Nat) (f : Core → Core) : (s.setCore k f).attic = s.attic := rfl
@[simp] theorem State.setCore_agenda (k : Nat) (f : Core → Core) : (s.setCore k f).agenda = s.agenda := rfl
@[simp] theorem State.setCore_later (k : Nat) (f : Core → Core) : (s.setCore k f).later = s.later := rfl
@[simp] theorem State.setCore_looked (k : Nat) (f : Core → Core) : (s.setCore k f).looked = s.looked := rfl
@[simp] theorem State.setCore_before (k : Nat) (f : Core → Core) : (s.setCore k f).before = s.before := rfl
@[simp] theorem State.setCore_dest (k : Nat) (f : Core → Core) : (s.setCore k f).dest = s.dest := rfl
@[simp] theorem State.setCore_cur (k : Nat) (f : Core → Core) : (s.setCore k f).cur = s.cur := rfl
@[simp] theorem State.setCore_view (k : Nat) (f : Core → Core) : (s.setCore k f).view = s.view := rfl
@[simp] theorem State.setCore_latch (k : Nat) (f : Core → Core) : (s.setCore k f).latch = s.latch := rfl
@[simp] theorem State.setCore_issuing (k : Nat) (f : Core → Core) : (s.setCore k f).issuing = s.issuing := rfl
@[simp] theorem State.setCore_fresh (k : Nat) (f : Core → Core) : (s.setCore k f).fresh = s.fresh := rfl
@[simp] theorem State.setCore_nextId (k : Nat) (f : Core → Core) : (s.setCore k f).nextId = s.nextId := rfl
@[simp] theorem State.setCore_fit (k : Nat) (f : Core → Core) : (s.setCore k f).fit = s.fit := rfl

/-! `State.setCtx` changes `ctxs` alone. -/

@[simp] theorem State.setCtx_clock (c : Nat) (f : Ctx → Ctx) : (s.setCtx c f).clock = s.clock := rfl
@[simp] theorem State.setCtx_mem (c : Nat) (f : Ctx → Ctx) : (s.setCtx c f).mem = s.mem := rfl
@[simp] theorem State.setCtx_full (c : Nat) (f : Ctx → Ctx) : (s.setCtx c f).full = s.full := rfl
@[simp] theorem State.setCtx_parked (c : Nat) (f : Ctx → Ctx) : (s.setCtx c f).parked = s.parked := rfl
@[simp] theorem State.setCtx_cores (c : Nat) (f : Ctx → Ctx) : (s.setCtx c f).cores = s.cores := rfl
@[simp] theorem State.setCtx_rooms (c : Nat) (f : Ctx → Ctx) : (s.setCtx c f).rooms = s.rooms := rfl
@[simp] theorem State.setCtx_halls (c : Nat) (f : Ctx → Ctx) : (s.setCtx c f).halls = s.halls := rfl
@[simp] theorem State.setCtx_wings (c : Nat) (f : Ctx → Ctx) : (s.setCtx c f).wings = s.wings := rfl
@[simp] theorem State.setCtx_launches (c : Nat) (f : Ctx → Ctx) : (s.setCtx c f).launches = s.launches := rfl
@[simp] theorem State.setCtx_replays (c : Nat) (f : Ctx → Ctx) : (s.setCtx c f).replays = s.replays := rfl
@[simp] theorem State.setCtx_graphs (c : Nat) (f : Ctx → Ctx) : (s.setCtx c f).graphs = s.graphs := rfl
@[simp] theorem State.setCtx_trees (c : Nat) (f : Ctx → Ctx) : (s.setCtx c f).trees = s.trees := rfl
@[simp] theorem State.setCtx_tlbs (c : Nat) (f : Ctx → Ctx) : (s.setCtx c f).tlbs = s.tlbs := rfl
@[simp] theorem State.setCtx_root (c : Nat) (f : Ctx → Ctx) : (s.setCtx c f).root = s.root := rfl
@[simp] theorem State.setCtx_retired (c : Nat) (f : Ctx → Ctx) : (s.setCtx c f).retired = s.retired := rfl
@[simp] theorem State.setCtx_peers (c : Nat) (f : Ctx → Ctx) : (s.setCtx c f).peers = s.peers := rfl
@[simp] theorem State.setCtx_flights (c : Nat) (f : Ctx → Ctx) : (s.setCtx c f).flights = s.flights := rfl
@[simp] theorem State.setCtx_cells (c : Nat) (f : Ctx → Ctx) : (s.setCtx c f).cells = s.cells := rfl
@[simp] theorem State.setCtx_images (c : Nat) (f : Ctx → Ctx) : (s.setCtx c f).images = s.images := rfl
@[simp] theorem State.setCtx_shadow (c : Nat) (f : Ctx → Ctx) : (s.setCtx c f).shadow = s.shadow := rfl
@[simp] theorem State.setCtx_preempts (c : Nat) (f : Ctx → Ctx) : (s.setCtx c f).preempts = s.preempts := rfl
@[simp] theorem State.setCtx_net (c : Nat) (f : Ctx → Ctx) : (s.setCtx c f).net = s.net := rfl
@[simp] theorem State.setCtx_attic (c : Nat) (f : Ctx → Ctx) : (s.setCtx c f).attic = s.attic := rfl
@[simp] theorem State.setCtx_agenda (c : Nat) (f : Ctx → Ctx) : (s.setCtx c f).agenda = s.agenda := rfl
@[simp] theorem State.setCtx_later (c : Nat) (f : Ctx → Ctx) : (s.setCtx c f).later = s.later := rfl
@[simp] theorem State.setCtx_looked (c : Nat) (f : Ctx → Ctx) : (s.setCtx c f).looked = s.looked := rfl
@[simp] theorem State.setCtx_before (c : Nat) (f : Ctx → Ctx) : (s.setCtx c f).before = s.before := rfl
@[simp] theorem State.setCtx_dest (c : Nat) (f : Ctx → Ctx) : (s.setCtx c f).dest = s.dest := rfl
@[simp] theorem State.setCtx_cur (c : Nat) (f : Ctx → Ctx) : (s.setCtx c f).cur = s.cur := rfl
@[simp] theorem State.setCtx_view (c : Nat) (f : Ctx → Ctx) : (s.setCtx c f).view = s.view := rfl
@[simp] theorem State.setCtx_latch (c : Nat) (f : Ctx → Ctx) : (s.setCtx c f).latch = s.latch := rfl
@[simp] theorem State.setCtx_issuing (c : Nat) (f : Ctx → Ctx) : (s.setCtx c f).issuing = s.issuing := rfl
@[simp] theorem State.setCtx_fresh (c : Nat) (f : Ctx → Ctx) : (s.setCtx c f).fresh = s.fresh := rfl
@[simp] theorem State.setCtx_nextId (c : Nat) (f : Ctx → Ctx) : (s.setCtx c f).nextId = s.nextId := rfl
@[simp] theorem State.setCtx_fit (c : Nat) (f : Ctx → Ctx) : (s.setCtx c f).fit = s.fit := rfl

/-! `State.setMe` changes `ctxs` alone. -/

@[simp] theorem State.setMe_clock (f : Ctx → Ctx) : (s.setMe f).clock = s.clock := rfl
@[simp] theorem State.setMe_mem (f : Ctx → Ctx) : (s.setMe f).mem = s.mem := rfl
@[simp] theorem State.setMe_full (f : Ctx → Ctx) : (s.setMe f).full = s.full := rfl
@[simp] theorem State.setMe_parked (f : Ctx → Ctx) : (s.setMe f).parked = s.parked := rfl
@[simp] theorem State.setMe_cores (f : Ctx → Ctx) : (s.setMe f).cores = s.cores := rfl
@[simp] theorem State.setMe_rooms (f : Ctx → Ctx) : (s.setMe f).rooms = s.rooms := rfl
@[simp] theorem State.setMe_halls (f : Ctx → Ctx) : (s.setMe f).halls = s.halls := rfl
@[simp] theorem State.setMe_wings (f : Ctx → Ctx) : (s.setMe f).wings = s.wings := rfl
@[simp] theorem State.setMe_launches (f : Ctx → Ctx) : (s.setMe f).launches = s.launches := rfl
@[simp] theorem State.setMe_replays (f : Ctx → Ctx) : (s.setMe f).replays = s.replays := rfl
@[simp] theorem State.setMe_graphs (f : Ctx → Ctx) : (s.setMe f).graphs = s.graphs := rfl
@[simp] theorem State.setMe_trees (f : Ctx → Ctx) : (s.setMe f).trees = s.trees := rfl
@[simp] theorem State.setMe_tlbs (f : Ctx → Ctx) : (s.setMe f).tlbs = s.tlbs := rfl
@[simp] theorem State.setMe_root (f : Ctx → Ctx) : (s.setMe f).root = s.root := rfl
@[simp] theorem State.setMe_retired (f : Ctx → Ctx) : (s.setMe f).retired = s.retired := rfl
@[simp] theorem State.setMe_peers (f : Ctx → Ctx) : (s.setMe f).peers = s.peers := rfl
@[simp] theorem State.setMe_flights (f : Ctx → Ctx) : (s.setMe f).flights = s.flights := rfl
@[simp] theorem State.setMe_cells (f : Ctx → Ctx) : (s.setMe f).cells = s.cells := rfl
@[simp] theorem State.setMe_images (f : Ctx → Ctx) : (s.setMe f).images = s.images := rfl
@[simp] theorem State.setMe_shadow (f : Ctx → Ctx) : (s.setMe f).shadow = s.shadow := rfl
@[simp] theorem State.setMe_preempts (f : Ctx → Ctx) : (s.setMe f).preempts = s.preempts := rfl
@[simp] theorem State.setMe_net (f : Ctx → Ctx) : (s.setMe f).net = s.net := rfl
@[simp] theorem State.setMe_attic (f : Ctx → Ctx) : (s.setMe f).attic = s.attic := rfl
@[simp] theorem State.setMe_agenda (f : Ctx → Ctx) : (s.setMe f).agenda = s.agenda := rfl
@[simp] theorem State.setMe_later (f : Ctx → Ctx) : (s.setMe f).later = s.later := rfl
@[simp] theorem State.setMe_looked (f : Ctx → Ctx) : (s.setMe f).looked = s.looked := rfl
@[simp] theorem State.setMe_before (f : Ctx → Ctx) : (s.setMe f).before = s.before := rfl
@[simp] theorem State.setMe_dest (f : Ctx → Ctx) : (s.setMe f).dest = s.dest := rfl
@[simp] theorem State.setMe_cur (f : Ctx → Ctx) : (s.setMe f).cur = s.cur := rfl
@[simp] theorem State.setMe_view (f : Ctx → Ctx) : (s.setMe f).view = s.view := rfl
@[simp] theorem State.setMe_latch (f : Ctx → Ctx) : (s.setMe f).latch = s.latch := rfl
@[simp] theorem State.setMe_issuing (f : Ctx → Ctx) : (s.setMe f).issuing = s.issuing := rfl
@[simp] theorem State.setMe_fresh (f : Ctx → Ctx) : (s.setMe f).fresh = s.fresh := rfl
@[simp] theorem State.setMe_nextId (f : Ctx → Ctx) : (s.setMe f).nextId = s.nextId := rfl
@[simp] theorem State.setMe_fit (f : Ctx → Ctx) : (s.setMe f).fit = s.fit := rfl

/-! `State.post` changes `agenda` alone. -/

@[simp] theorem State.post_clock (e : Instr) : (s.post e).clock = s.clock := rfl
@[simp] theorem State.post_mem (e : Instr) : (s.post e).mem = s.mem := rfl
@[simp] theorem State.post_full (e : Instr) : (s.post e).full = s.full := rfl
@[simp] theorem State.post_parked (e : Instr) : (s.post e).parked = s.parked := rfl
@[simp] theorem State.post_ctxs (e : Instr) : (s.post e).ctxs = s.ctxs := rfl
@[simp] theorem State.post_cores (e : Instr) : (s.post e).cores = s.cores := rfl
@[simp] theorem State.post_rooms (e : Instr) : (s.post e).rooms = s.rooms := rfl
@[simp] theorem State.post_halls (e : Instr) : (s.post e).halls = s.halls := rfl
@[simp] theorem State.post_wings (e : Instr) : (s.post e).wings = s.wings := rfl
@[simp] theorem State.post_launches (e : Instr) : (s.post e).launches = s.launches := rfl
@[simp] theorem State.post_replays (e : Instr) : (s.post e).replays = s.replays := rfl
@[simp] theorem State.post_graphs (e : Instr) : (s.post e).graphs = s.graphs := rfl
@[simp] theorem State.post_trees (e : Instr) : (s.post e).trees = s.trees := rfl
@[simp] theorem State.post_tlbs (e : Instr) : (s.post e).tlbs = s.tlbs := rfl
@[simp] theorem State.post_root (e : Instr) : (s.post e).root = s.root := rfl
@[simp] theorem State.post_retired (e : Instr) : (s.post e).retired = s.retired := rfl
@[simp] theorem State.post_peers (e : Instr) : (s.post e).peers = s.peers := rfl
@[simp] theorem State.post_flights (e : Instr) : (s.post e).flights = s.flights := rfl
@[simp] theorem State.post_cells (e : Instr) : (s.post e).cells = s.cells := rfl
@[simp] theorem State.post_images (e : Instr) : (s.post e).images = s.images := rfl
@[simp] theorem State.post_shadow (e : Instr) : (s.post e).shadow = s.shadow := rfl
@[simp] theorem State.post_preempts (e : Instr) : (s.post e).preempts = s.preempts := rfl
@[simp] theorem State.post_net (e : Instr) : (s.post e).net = s.net := rfl
@[simp] theorem State.post_attic (e : Instr) : (s.post e).attic = s.attic := rfl
@[simp] theorem State.post_later (e : Instr) : (s.post e).later = s.later := rfl
@[simp] theorem State.post_looked (e : Instr) : (s.post e).looked = s.looked := rfl
@[simp] theorem State.post_before (e : Instr) : (s.post e).before = s.before := rfl
@[simp] theorem State.post_dest (e : Instr) : (s.post e).dest = s.dest := rfl
@[simp] theorem State.post_cur (e : Instr) : (s.post e).cur = s.cur := rfl
@[simp] theorem State.post_view (e : Instr) : (s.post e).view = s.view := rfl
@[simp] theorem State.post_latch (e : Instr) : (s.post e).latch = s.latch := rfl
@[simp] theorem State.post_issuing (e : Instr) : (s.post e).issuing = s.issuing := rfl
@[simp] theorem State.post_fresh (e : Instr) : (s.post e).fresh = s.fresh := rfl
@[simp] theorem State.post_nextId (e : Instr) : (s.post e).nextId = s.nextId := rfl
@[simp] theorem State.post_fit (e : Instr) : (s.post e).fit = s.fit := rfl

/-! `State.postAll` changes `agenda` alone. -/

@[simp] theorem State.postAll_clock (es : List Instr) : (s.postAll es).clock = s.clock := rfl
@[simp] theorem State.postAll_mem (es : List Instr) : (s.postAll es).mem = s.mem := rfl
@[simp] theorem State.postAll_full (es : List Instr) : (s.postAll es).full = s.full := rfl
@[simp] theorem State.postAll_parked (es : List Instr) : (s.postAll es).parked = s.parked := rfl
@[simp] theorem State.postAll_ctxs (es : List Instr) : (s.postAll es).ctxs = s.ctxs := rfl
@[simp] theorem State.postAll_cores (es : List Instr) : (s.postAll es).cores = s.cores := rfl
@[simp] theorem State.postAll_rooms (es : List Instr) : (s.postAll es).rooms = s.rooms := rfl
@[simp] theorem State.postAll_halls (es : List Instr) : (s.postAll es).halls = s.halls := rfl
@[simp] theorem State.postAll_wings (es : List Instr) : (s.postAll es).wings = s.wings := rfl
@[simp] theorem State.postAll_launches (es : List Instr) : (s.postAll es).launches = s.launches := rfl
@[simp] theorem State.postAll_replays (es : List Instr) : (s.postAll es).replays = s.replays := rfl
@[simp] theorem State.postAll_graphs (es : List Instr) : (s.postAll es).graphs = s.graphs := rfl
@[simp] theorem State.postAll_trees (es : List Instr) : (s.postAll es).trees = s.trees := rfl
@[simp] theorem State.postAll_tlbs (es : List Instr) : (s.postAll es).tlbs = s.tlbs := rfl
@[simp] theorem State.postAll_root (es : List Instr) : (s.postAll es).root = s.root := rfl
@[simp] theorem State.postAll_retired (es : List Instr) : (s.postAll es).retired = s.retired := rfl
@[simp] theorem State.postAll_peers (es : List Instr) : (s.postAll es).peers = s.peers := rfl
@[simp] theorem State.postAll_flights (es : List Instr) : (s.postAll es).flights = s.flights := rfl
@[simp] theorem State.postAll_cells (es : List Instr) : (s.postAll es).cells = s.cells := rfl
@[simp] theorem State.postAll_images (es : List Instr) : (s.postAll es).images = s.images := rfl
@[simp] theorem State.postAll_shadow (es : List Instr) : (s.postAll es).shadow = s.shadow := rfl
@[simp] theorem State.postAll_preempts (es : List Instr) : (s.postAll es).preempts = s.preempts := rfl
@[simp] theorem State.postAll_net (es : List Instr) : (s.postAll es).net = s.net := rfl
@[simp] theorem State.postAll_attic (es : List Instr) : (s.postAll es).attic = s.attic := rfl
@[simp] theorem State.postAll_later (es : List Instr) : (s.postAll es).later = s.later := rfl
@[simp] theorem State.postAll_looked (es : List Instr) : (s.postAll es).looked = s.looked := rfl
@[simp] theorem State.postAll_before (es : List Instr) : (s.postAll es).before = s.before := rfl
@[simp] theorem State.postAll_dest (es : List Instr) : (s.postAll es).dest = s.dest := rfl
@[simp] theorem State.postAll_cur (es : List Instr) : (s.postAll es).cur = s.cur := rfl
@[simp] theorem State.postAll_view (es : List Instr) : (s.postAll es).view = s.view := rfl
@[simp] theorem State.postAll_latch (es : List Instr) : (s.postAll es).latch = s.latch := rfl
@[simp] theorem State.postAll_issuing (es : List Instr) : (s.postAll es).issuing = s.issuing := rfl
@[simp] theorem State.postAll_fresh (es : List Instr) : (s.postAll es).fresh = s.fresh := rfl
@[simp] theorem State.postAll_nextId (es : List Instr) : (s.postAll es).nextId = s.nextId := rfl
@[simp] theorem State.postAll_fit (es : List Instr) : (s.postAll es).fit = s.fit := rfl

/-! `State.store` changes `mem` alone. -/

@[simp] theorem State.store_clock (key n v : Nat) : (s.store key n v).clock = s.clock := rfl
@[simp] theorem State.store_full (key n v : Nat) : (s.store key n v).full = s.full := rfl
@[simp] theorem State.store_parked (key n v : Nat) : (s.store key n v).parked = s.parked := rfl
@[simp] theorem State.store_ctxs (key n v : Nat) : (s.store key n v).ctxs = s.ctxs := rfl
@[simp] theorem State.store_cores (key n v : Nat) : (s.store key n v).cores = s.cores := rfl
@[simp] theorem State.store_rooms (key n v : Nat) : (s.store key n v).rooms = s.rooms := rfl
@[simp] theorem State.store_halls (key n v : Nat) : (s.store key n v).halls = s.halls := rfl
@[simp] theorem State.store_wings (key n v : Nat) : (s.store key n v).wings = s.wings := rfl
@[simp] theorem State.store_launches (key n v : Nat) : (s.store key n v).launches = s.launches := rfl
@[simp] theorem State.store_replays (key n v : Nat) : (s.store key n v).replays = s.replays := rfl
@[simp] theorem State.store_graphs (key n v : Nat) : (s.store key n v).graphs = s.graphs := rfl
@[simp] theorem State.store_trees (key n v : Nat) : (s.store key n v).trees = s.trees := rfl
@[simp] theorem State.store_tlbs (key n v : Nat) : (s.store key n v).tlbs = s.tlbs := rfl
@[simp] theorem State.store_root (key n v : Nat) : (s.store key n v).root = s.root := rfl
@[simp] theorem State.store_retired (key n v : Nat) : (s.store key n v).retired = s.retired := rfl
@[simp] theorem State.store_peers (key n v : Nat) : (s.store key n v).peers = s.peers := rfl
@[simp] theorem State.store_flights (key n v : Nat) : (s.store key n v).flights = s.flights := rfl
@[simp] theorem State.store_cells (key n v : Nat) : (s.store key n v).cells = s.cells := rfl
@[simp] theorem State.store_images (key n v : Nat) : (s.store key n v).images = s.images := rfl
@[simp] theorem State.store_shadow (key n v : Nat) : (s.store key n v).shadow = s.shadow := rfl
@[simp] theorem State.store_preempts (key n v : Nat) : (s.store key n v).preempts = s.preempts := rfl
@[simp] theorem State.store_net (key n v : Nat) : (s.store key n v).net = s.net := rfl
@[simp] theorem State.store_attic (key n v : Nat) : (s.store key n v).attic = s.attic := rfl
@[simp] theorem State.store_agenda (key n v : Nat) : (s.store key n v).agenda = s.agenda := rfl
@[simp] theorem State.store_later (key n v : Nat) : (s.store key n v).later = s.later := rfl
@[simp] theorem State.store_looked (key n v : Nat) : (s.store key n v).looked = s.looked := rfl
@[simp] theorem State.store_before (key n v : Nat) : (s.store key n v).before = s.before := rfl
@[simp] theorem State.store_dest (key n v : Nat) : (s.store key n v).dest = s.dest := rfl
@[simp] theorem State.store_cur (key n v : Nat) : (s.store key n v).cur = s.cur := rfl
@[simp] theorem State.store_view (key n v : Nat) : (s.store key n v).view = s.view := rfl
@[simp] theorem State.store_latch (key n v : Nat) : (s.store key n v).latch = s.latch := rfl
@[simp] theorem State.store_issuing (key n v : Nat) : (s.store key n v).issuing = s.issuing := rfl
@[simp] theorem State.store_fresh (key n v : Nat) : (s.store key n v).fresh = s.fresh := rfl
@[simp] theorem State.store_nextId (key n v : Nat) : (s.store key n v).nextId = s.nextId := rfl
@[simp] theorem State.store_fit (key n v : Nat) : (s.store key n v).fit = s.fit := rfl

/-! `State.setFull` changes `full` alone. -/

@[simp] theorem State.setFull_clock (h : Nat) (b : Bool) : (s.setFull h b).clock = s.clock := rfl
@[simp] theorem State.setFull_mem (h : Nat) (b : Bool) : (s.setFull h b).mem = s.mem := rfl
@[simp] theorem State.setFull_parked (h : Nat) (b : Bool) : (s.setFull h b).parked = s.parked := rfl
@[simp] theorem State.setFull_ctxs (h : Nat) (b : Bool) : (s.setFull h b).ctxs = s.ctxs := rfl
@[simp] theorem State.setFull_cores (h : Nat) (b : Bool) : (s.setFull h b).cores = s.cores := rfl
@[simp] theorem State.setFull_rooms (h : Nat) (b : Bool) : (s.setFull h b).rooms = s.rooms := rfl
@[simp] theorem State.setFull_halls (h : Nat) (b : Bool) : (s.setFull h b).halls = s.halls := rfl
@[simp] theorem State.setFull_wings (h : Nat) (b : Bool) : (s.setFull h b).wings = s.wings := rfl
@[simp] theorem State.setFull_launches (h : Nat) (b : Bool) : (s.setFull h b).launches = s.launches := rfl
@[simp] theorem State.setFull_replays (h : Nat) (b : Bool) : (s.setFull h b).replays = s.replays := rfl
@[simp] theorem State.setFull_graphs (h : Nat) (b : Bool) : (s.setFull h b).graphs = s.graphs := rfl
@[simp] theorem State.setFull_trees (h : Nat) (b : Bool) : (s.setFull h b).trees = s.trees := rfl
@[simp] theorem State.setFull_tlbs (h : Nat) (b : Bool) : (s.setFull h b).tlbs = s.tlbs := rfl
@[simp] theorem State.setFull_root (h : Nat) (b : Bool) : (s.setFull h b).root = s.root := rfl
@[simp] theorem State.setFull_retired (h : Nat) (b : Bool) : (s.setFull h b).retired = s.retired := rfl
@[simp] theorem State.setFull_peers (h : Nat) (b : Bool) : (s.setFull h b).peers = s.peers := rfl
@[simp] theorem State.setFull_flights (h : Nat) (b : Bool) : (s.setFull h b).flights = s.flights := rfl
@[simp] theorem State.setFull_cells (h : Nat) (b : Bool) : (s.setFull h b).cells = s.cells := rfl
@[simp] theorem State.setFull_images (h : Nat) (b : Bool) : (s.setFull h b).images = s.images := rfl
@[simp] theorem State.setFull_shadow (h : Nat) (b : Bool) : (s.setFull h b).shadow = s.shadow := rfl
@[simp] theorem State.setFull_preempts (h : Nat) (b : Bool) : (s.setFull h b).preempts = s.preempts := rfl
@[simp] theorem State.setFull_net (h : Nat) (b : Bool) : (s.setFull h b).net = s.net := rfl
@[simp] theorem State.setFull_attic (h : Nat) (b : Bool) : (s.setFull h b).attic = s.attic := rfl
@[simp] theorem State.setFull_agenda (h : Nat) (b : Bool) : (s.setFull h b).agenda = s.agenda := rfl
@[simp] theorem State.setFull_later (h : Nat) (b : Bool) : (s.setFull h b).later = s.later := rfl
@[simp] theorem State.setFull_looked (h : Nat) (b : Bool) : (s.setFull h b).looked = s.looked := rfl
@[simp] theorem State.setFull_before (h : Nat) (b : Bool) : (s.setFull h b).before = s.before := rfl
@[simp] theorem State.setFull_dest (h : Nat) (b : Bool) : (s.setFull h b).dest = s.dest := rfl
@[simp] theorem State.setFull_cur (h : Nat) (b : Bool) : (s.setFull h b).cur = s.cur := rfl
@[simp] theorem State.setFull_view (h : Nat) (b : Bool) : (s.setFull h b).view = s.view := rfl
@[simp] theorem State.setFull_latch (h : Nat) (b : Bool) : (s.setFull h b).latch = s.latch := rfl
@[simp] theorem State.setFull_issuing (h : Nat) (b : Bool) : (s.setFull h b).issuing = s.issuing := rfl
@[simp] theorem State.setFull_fresh (h : Nat) (b : Bool) : (s.setFull h b).fresh = s.fresh := rfl
@[simp] theorem State.setFull_nextId (h : Nat) (b : Bool) : (s.setFull h b).nextId = s.nextId := rfl
@[simp] theorem State.setFull_fit (h : Nat) (b : Bool) : (s.setFull h b).fit = s.fit := rfl

/-! `State.bump` changes `cores` alone. -/

@[simp] theorem State.bump_clock (core number amount : Nat) : (s.bump core number amount).clock = s.clock := rfl
@[simp] theorem State.bump_mem (core number amount : Nat) : (s.bump core number amount).mem = s.mem := rfl
@[simp] theorem State.bump_full (core number amount : Nat) : (s.bump core number amount).full = s.full := rfl
@[simp] theorem State.bump_parked (core number amount : Nat) : (s.bump core number amount).parked = s.parked := rfl
@[simp] theorem State.bump_ctxs (core number amount : Nat) : (s.bump core number amount).ctxs = s.ctxs := rfl
@[simp] theorem State.bump_rooms (core number amount : Nat) : (s.bump core number amount).rooms = s.rooms := rfl
@[simp] theorem State.bump_halls (core number amount : Nat) : (s.bump core number amount).halls = s.halls := rfl
@[simp] theorem State.bump_wings (core number amount : Nat) : (s.bump core number amount).wings = s.wings := rfl
@[simp] theorem State.bump_launches (core number amount : Nat) : (s.bump core number amount).launches = s.launches := rfl
@[simp] theorem State.bump_replays (core number amount : Nat) : (s.bump core number amount).replays = s.replays := rfl
@[simp] theorem State.bump_graphs (core number amount : Nat) : (s.bump core number amount).graphs = s.graphs := rfl
@[simp] theorem State.bump_trees (core number amount : Nat) : (s.bump core number amount).trees = s.trees := rfl
@[simp] theorem State.bump_tlbs (core number amount : Nat) : (s.bump core number amount).tlbs = s.tlbs := rfl
@[simp] theorem State.bump_root (core number amount : Nat) : (s.bump core number amount).root = s.root := rfl
@[simp] theorem State.bump_retired (core number amount : Nat) : (s.bump core number amount).retired = s.retired := rfl
@[simp] theorem State.bump_peers (core number amount : Nat) : (s.bump core number amount).peers = s.peers := rfl
@[simp] theorem State.bump_flights (core number amount : Nat) : (s.bump core number amount).flights = s.flights := rfl
@[simp] theorem State.bump_cells (core number amount : Nat) : (s.bump core number amount).cells = s.cells := rfl
@[simp] theorem State.bump_images (core number amount : Nat) : (s.bump core number amount).images = s.images := rfl
@[simp] theorem State.bump_shadow (core number amount : Nat) : (s.bump core number amount).shadow = s.shadow := rfl
@[simp] theorem State.bump_preempts (core number amount : Nat) : (s.bump core number amount).preempts = s.preempts := rfl
@[simp] theorem State.bump_net (core number amount : Nat) : (s.bump core number amount).net = s.net := rfl
@[simp] theorem State.bump_attic (core number amount : Nat) : (s.bump core number amount).attic = s.attic := rfl
@[simp] theorem State.bump_agenda (core number amount : Nat) : (s.bump core number amount).agenda = s.agenda := rfl
@[simp] theorem State.bump_later (core number amount : Nat) : (s.bump core number amount).later = s.later := rfl
@[simp] theorem State.bump_looked (core number amount : Nat) : (s.bump core number amount).looked = s.looked := rfl
@[simp] theorem State.bump_before (core number amount : Nat) : (s.bump core number amount).before = s.before := rfl
@[simp] theorem State.bump_dest (core number amount : Nat) : (s.bump core number amount).dest = s.dest := rfl
@[simp] theorem State.bump_cur (core number amount : Nat) : (s.bump core number amount).cur = s.cur := rfl
@[simp] theorem State.bump_view (core number amount : Nat) : (s.bump core number amount).view = s.view := rfl
@[simp] theorem State.bump_latch (core number amount : Nat) : (s.bump core number amount).latch = s.latch := rfl
@[simp] theorem State.bump_issuing (core number amount : Nat) : (s.bump core number amount).issuing = s.issuing := rfl
@[simp] theorem State.bump_fresh (core number amount : Nat) : (s.bump core number amount).fresh = s.fresh := rfl
@[simp] theorem State.bump_nextId (core number amount : Nat) : (s.bump core number amount).nextId = s.nextId := rfl
@[simp] theorem State.bump_fit (core number amount : Nat) : (s.bump core number amount).fit = s.fit := rfl

/-! `State.noteWait` changes `cores` alone. -/

@[simp] theorem State.noteWait_clock (ctx : Nat) (w : Wait) : (s.noteWait ctx w).clock = s.clock := rfl
@[simp] theorem State.noteWait_mem (ctx : Nat) (w : Wait) : (s.noteWait ctx w).mem = s.mem := rfl
@[simp] theorem State.noteWait_full (ctx : Nat) (w : Wait) : (s.noteWait ctx w).full = s.full := rfl
@[simp] theorem State.noteWait_parked (ctx : Nat) (w : Wait) : (s.noteWait ctx w).parked = s.parked := rfl
@[simp] theorem State.noteWait_ctxs (ctx : Nat) (w : Wait) : (s.noteWait ctx w).ctxs = s.ctxs := rfl
@[simp] theorem State.noteWait_rooms (ctx : Nat) (w : Wait) : (s.noteWait ctx w).rooms = s.rooms := rfl
@[simp] theorem State.noteWait_halls (ctx : Nat) (w : Wait) : (s.noteWait ctx w).halls = s.halls := rfl
@[simp] theorem State.noteWait_wings (ctx : Nat) (w : Wait) : (s.noteWait ctx w).wings = s.wings := rfl
@[simp] theorem State.noteWait_launches (ctx : Nat) (w : Wait) : (s.noteWait ctx w).launches = s.launches := rfl
@[simp] theorem State.noteWait_replays (ctx : Nat) (w : Wait) : (s.noteWait ctx w).replays = s.replays := rfl
@[simp] theorem State.noteWait_graphs (ctx : Nat) (w : Wait) : (s.noteWait ctx w).graphs = s.graphs := rfl
@[simp] theorem State.noteWait_trees (ctx : Nat) (w : Wait) : (s.noteWait ctx w).trees = s.trees := rfl
@[simp] theorem State.noteWait_tlbs (ctx : Nat) (w : Wait) : (s.noteWait ctx w).tlbs = s.tlbs := rfl
@[simp] theorem State.noteWait_root (ctx : Nat) (w : Wait) : (s.noteWait ctx w).root = s.root := rfl
@[simp] theorem State.noteWait_retired (ctx : Nat) (w : Wait) : (s.noteWait ctx w).retired = s.retired := rfl
@[simp] theorem State.noteWait_peers (ctx : Nat) (w : Wait) : (s.noteWait ctx w).peers = s.peers := rfl
@[simp] theorem State.noteWait_flights (ctx : Nat) (w : Wait) : (s.noteWait ctx w).flights = s.flights := rfl
@[simp] theorem State.noteWait_cells (ctx : Nat) (w : Wait) : (s.noteWait ctx w).cells = s.cells := rfl
@[simp] theorem State.noteWait_images (ctx : Nat) (w : Wait) : (s.noteWait ctx w).images = s.images := rfl
@[simp] theorem State.noteWait_shadow (ctx : Nat) (w : Wait) : (s.noteWait ctx w).shadow = s.shadow := rfl
@[simp] theorem State.noteWait_preempts (ctx : Nat) (w : Wait) : (s.noteWait ctx w).preempts = s.preempts := rfl
@[simp] theorem State.noteWait_net (ctx : Nat) (w : Wait) : (s.noteWait ctx w).net = s.net := rfl
@[simp] theorem State.noteWait_attic (ctx : Nat) (w : Wait) : (s.noteWait ctx w).attic = s.attic := rfl
@[simp] theorem State.noteWait_agenda (ctx : Nat) (w : Wait) : (s.noteWait ctx w).agenda = s.agenda := rfl
@[simp] theorem State.noteWait_later (ctx : Nat) (w : Wait) : (s.noteWait ctx w).later = s.later := rfl
@[simp] theorem State.noteWait_looked (ctx : Nat) (w : Wait) : (s.noteWait ctx w).looked = s.looked := rfl
@[simp] theorem State.noteWait_before (ctx : Nat) (w : Wait) : (s.noteWait ctx w).before = s.before := rfl
@[simp] theorem State.noteWait_dest (ctx : Nat) (w : Wait) : (s.noteWait ctx w).dest = s.dest := rfl
@[simp] theorem State.noteWait_cur (ctx : Nat) (w : Wait) : (s.noteWait ctx w).cur = s.cur := rfl
@[simp] theorem State.noteWait_view (ctx : Nat) (w : Wait) : (s.noteWait ctx w).view = s.view := rfl
@[simp] theorem State.noteWait_latch (ctx : Nat) (w : Wait) : (s.noteWait ctx w).latch = s.latch := rfl
@[simp] theorem State.noteWait_issuing (ctx : Nat) (w : Wait) : (s.noteWait ctx w).issuing = s.issuing := rfl
@[simp] theorem State.noteWait_fresh (ctx : Nat) (w : Wait) : (s.noteWait ctx w).fresh = s.fresh := rfl
@[simp] theorem State.noteWait_nextId (ctx : Nat) (w : Wait) : (s.noteWait ctx w).nextId = s.nextId := rfl
@[simp] theorem State.noteWait_fit (ctx : Nat) (w : Wait) : (s.noteWait ctx w).fit = s.fit := rfl

/-! `State.wr` changes `ctxs` alone. -/

@[simp] theorem State.wr_clock (r : BitVec 5) (v : Word) : (s.wr r v).clock = s.clock := rfl
@[simp] theorem State.wr_mem (r : BitVec 5) (v : Word) : (s.wr r v).mem = s.mem := rfl
@[simp] theorem State.wr_full (r : BitVec 5) (v : Word) : (s.wr r v).full = s.full := rfl
@[simp] theorem State.wr_parked (r : BitVec 5) (v : Word) : (s.wr r v).parked = s.parked := rfl
@[simp] theorem State.wr_cores (r : BitVec 5) (v : Word) : (s.wr r v).cores = s.cores := rfl
@[simp] theorem State.wr_rooms (r : BitVec 5) (v : Word) : (s.wr r v).rooms = s.rooms := rfl
@[simp] theorem State.wr_halls (r : BitVec 5) (v : Word) : (s.wr r v).halls = s.halls := rfl
@[simp] theorem State.wr_wings (r : BitVec 5) (v : Word) : (s.wr r v).wings = s.wings := rfl
@[simp] theorem State.wr_launches (r : BitVec 5) (v : Word) : (s.wr r v).launches = s.launches := rfl
@[simp] theorem State.wr_replays (r : BitVec 5) (v : Word) : (s.wr r v).replays = s.replays := rfl
@[simp] theorem State.wr_graphs (r : BitVec 5) (v : Word) : (s.wr r v).graphs = s.graphs := rfl
@[simp] theorem State.wr_trees (r : BitVec 5) (v : Word) : (s.wr r v).trees = s.trees := rfl
@[simp] theorem State.wr_tlbs (r : BitVec 5) (v : Word) : (s.wr r v).tlbs = s.tlbs := rfl
@[simp] theorem State.wr_root (r : BitVec 5) (v : Word) : (s.wr r v).root = s.root := rfl
@[simp] theorem State.wr_retired (r : BitVec 5) (v : Word) : (s.wr r v).retired = s.retired := rfl
@[simp] theorem State.wr_peers (r : BitVec 5) (v : Word) : (s.wr r v).peers = s.peers := rfl
@[simp] theorem State.wr_flights (r : BitVec 5) (v : Word) : (s.wr r v).flights = s.flights := rfl
@[simp] theorem State.wr_cells (r : BitVec 5) (v : Word) : (s.wr r v).cells = s.cells := rfl
@[simp] theorem State.wr_images (r : BitVec 5) (v : Word) : (s.wr r v).images = s.images := rfl
@[simp] theorem State.wr_shadow (r : BitVec 5) (v : Word) : (s.wr r v).shadow = s.shadow := rfl
@[simp] theorem State.wr_preempts (r : BitVec 5) (v : Word) : (s.wr r v).preempts = s.preempts := rfl
@[simp] theorem State.wr_net (r : BitVec 5) (v : Word) : (s.wr r v).net = s.net := rfl
@[simp] theorem State.wr_attic (r : BitVec 5) (v : Word) : (s.wr r v).attic = s.attic := rfl
@[simp] theorem State.wr_agenda (r : BitVec 5) (v : Word) : (s.wr r v).agenda = s.agenda := rfl
@[simp] theorem State.wr_later (r : BitVec 5) (v : Word) : (s.wr r v).later = s.later := rfl
@[simp] theorem State.wr_looked (r : BitVec 5) (v : Word) : (s.wr r v).looked = s.looked := rfl
@[simp] theorem State.wr_before (r : BitVec 5) (v : Word) : (s.wr r v).before = s.before := rfl
@[simp] theorem State.wr_dest (r : BitVec 5) (v : Word) : (s.wr r v).dest = s.dest := rfl
@[simp] theorem State.wr_cur (r : BitVec 5) (v : Word) : (s.wr r v).cur = s.cur := rfl
@[simp] theorem State.wr_view (r : BitVec 5) (v : Word) : (s.wr r v).view = s.view := rfl
@[simp] theorem State.wr_latch (r : BitVec 5) (v : Word) : (s.wr r v).latch = s.latch := rfl
@[simp] theorem State.wr_issuing (r : BitVec 5) (v : Word) : (s.wr r v).issuing = s.issuing := rfl
@[simp] theorem State.wr_fresh (r : BitVec 5) (v : Word) : (s.wr r v).fresh = s.fresh := rfl
@[simp] theorem State.wr_nextId (r : BitVec 5) (v : Word) : (s.wr r v).nextId = s.nextId := rfl
@[simp] theorem State.wr_fit (r : BitVec 5) (v : Word) : (s.wr r v).fit = s.fit := rfl

/-! `State.enter` changes `ctxs` alone. -/

@[simp] theorem State.enter_clock (target : Word) : (s.enter target).clock = s.clock := rfl
@[simp] theorem State.enter_mem (target : Word) : (s.enter target).mem = s.mem := rfl
@[simp] theorem State.enter_full (target : Word) : (s.enter target).full = s.full := rfl
@[simp] theorem State.enter_parked (target : Word) : (s.enter target).parked = s.parked := rfl
@[simp] theorem State.enter_cores (target : Word) : (s.enter target).cores = s.cores := rfl
@[simp] theorem State.enter_rooms (target : Word) : (s.enter target).rooms = s.rooms := rfl
@[simp] theorem State.enter_halls (target : Word) : (s.enter target).halls = s.halls := rfl
@[simp] theorem State.enter_wings (target : Word) : (s.enter target).wings = s.wings := rfl
@[simp] theorem State.enter_launches (target : Word) : (s.enter target).launches = s.launches := rfl
@[simp] theorem State.enter_replays (target : Word) : (s.enter target).replays = s.replays := rfl
@[simp] theorem State.enter_graphs (target : Word) : (s.enter target).graphs = s.graphs := rfl
@[simp] theorem State.enter_trees (target : Word) : (s.enter target).trees = s.trees := rfl
@[simp] theorem State.enter_tlbs (target : Word) : (s.enter target).tlbs = s.tlbs := rfl
@[simp] theorem State.enter_root (target : Word) : (s.enter target).root = s.root := rfl
@[simp] theorem State.enter_retired (target : Word) : (s.enter target).retired = s.retired := rfl
@[simp] theorem State.enter_peers (target : Word) : (s.enter target).peers = s.peers := rfl
@[simp] theorem State.enter_flights (target : Word) : (s.enter target).flights = s.flights := rfl
@[simp] theorem State.enter_cells (target : Word) : (s.enter target).cells = s.cells := rfl
@[simp] theorem State.enter_images (target : Word) : (s.enter target).images = s.images := rfl
@[simp] theorem State.enter_shadow (target : Word) : (s.enter target).shadow = s.shadow := rfl
@[simp] theorem State.enter_preempts (target : Word) : (s.enter target).preempts = s.preempts := rfl
@[simp] theorem State.enter_net (target : Word) : (s.enter target).net = s.net := rfl
@[simp] theorem State.enter_attic (target : Word) : (s.enter target).attic = s.attic := rfl
@[simp] theorem State.enter_agenda (target : Word) : (s.enter target).agenda = s.agenda := rfl
@[simp] theorem State.enter_later (target : Word) : (s.enter target).later = s.later := rfl
@[simp] theorem State.enter_looked (target : Word) : (s.enter target).looked = s.looked := rfl
@[simp] theorem State.enter_before (target : Word) : (s.enter target).before = s.before := rfl
@[simp] theorem State.enter_dest (target : Word) : (s.enter target).dest = s.dest := rfl
@[simp] theorem State.enter_cur (target : Word) : (s.enter target).cur = s.cur := rfl
@[simp] theorem State.enter_view (target : Word) : (s.enter target).view = s.view := rfl
@[simp] theorem State.enter_latch (target : Word) : (s.enter target).latch = s.latch := rfl
@[simp] theorem State.enter_issuing (target : Word) : (s.enter target).issuing = s.issuing := rfl
@[simp] theorem State.enter_fresh (target : Word) : (s.enter target).fresh = s.fresh := rfl
@[simp] theorem State.enter_nextId (target : Word) : (s.enter target).nextId = s.nextId := rfl
@[simp] theorem State.enter_fit (target : Word) : (s.enter target).fit = s.fit := rfl

/-! `State.setAttic` changes `attic` alone. -/

@[simp] theorem State.setAttic_clock (f : Attic → Attic) : (s.setAttic f).clock = s.clock := rfl
@[simp] theorem State.setAttic_mem (f : Attic → Attic) : (s.setAttic f).mem = s.mem := rfl
@[simp] theorem State.setAttic_full (f : Attic → Attic) : (s.setAttic f).full = s.full := rfl
@[simp] theorem State.setAttic_parked (f : Attic → Attic) : (s.setAttic f).parked = s.parked := rfl
@[simp] theorem State.setAttic_ctxs (f : Attic → Attic) : (s.setAttic f).ctxs = s.ctxs := rfl
@[simp] theorem State.setAttic_cores (f : Attic → Attic) : (s.setAttic f).cores = s.cores := rfl
@[simp] theorem State.setAttic_rooms (f : Attic → Attic) : (s.setAttic f).rooms = s.rooms := rfl
@[simp] theorem State.setAttic_halls (f : Attic → Attic) : (s.setAttic f).halls = s.halls := rfl
@[simp] theorem State.setAttic_wings (f : Attic → Attic) : (s.setAttic f).wings = s.wings := rfl
@[simp] theorem State.setAttic_launches (f : Attic → Attic) : (s.setAttic f).launches = s.launches := rfl
@[simp] theorem State.setAttic_replays (f : Attic → Attic) : (s.setAttic f).replays = s.replays := rfl
@[simp] theorem State.setAttic_graphs (f : Attic → Attic) : (s.setAttic f).graphs = s.graphs := rfl
@[simp] theorem State.setAttic_trees (f : Attic → Attic) : (s.setAttic f).trees = s.trees := rfl
@[simp] theorem State.setAttic_tlbs (f : Attic → Attic) : (s.setAttic f).tlbs = s.tlbs := rfl
@[simp] theorem State.setAttic_root (f : Attic → Attic) : (s.setAttic f).root = s.root := rfl
@[simp] theorem State.setAttic_retired (f : Attic → Attic) : (s.setAttic f).retired = s.retired := rfl
@[simp] theorem State.setAttic_peers (f : Attic → Attic) : (s.setAttic f).peers = s.peers := rfl
@[simp] theorem State.setAttic_flights (f : Attic → Attic) : (s.setAttic f).flights = s.flights := rfl
@[simp] theorem State.setAttic_cells (f : Attic → Attic) : (s.setAttic f).cells = s.cells := rfl
@[simp] theorem State.setAttic_images (f : Attic → Attic) : (s.setAttic f).images = s.images := rfl
@[simp] theorem State.setAttic_shadow (f : Attic → Attic) : (s.setAttic f).shadow = s.shadow := rfl
@[simp] theorem State.setAttic_preempts (f : Attic → Attic) : (s.setAttic f).preempts = s.preempts := rfl
@[simp] theorem State.setAttic_net (f : Attic → Attic) : (s.setAttic f).net = s.net := rfl
@[simp] theorem State.setAttic_agenda (f : Attic → Attic) : (s.setAttic f).agenda = s.agenda := rfl
@[simp] theorem State.setAttic_later (f : Attic → Attic) : (s.setAttic f).later = s.later := rfl
@[simp] theorem State.setAttic_looked (f : Attic → Attic) : (s.setAttic f).looked = s.looked := rfl
@[simp] theorem State.setAttic_before (f : Attic → Attic) : (s.setAttic f).before = s.before := rfl
@[simp] theorem State.setAttic_dest (f : Attic → Attic) : (s.setAttic f).dest = s.dest := rfl
@[simp] theorem State.setAttic_cur (f : Attic → Attic) : (s.setAttic f).cur = s.cur := rfl
@[simp] theorem State.setAttic_view (f : Attic → Attic) : (s.setAttic f).view = s.view := rfl
@[simp] theorem State.setAttic_latch (f : Attic → Attic) : (s.setAttic f).latch = s.latch := rfl
@[simp] theorem State.setAttic_issuing (f : Attic → Attic) : (s.setAttic f).issuing = s.issuing := rfl
@[simp] theorem State.setAttic_fresh (f : Attic → Attic) : (s.setAttic f).fresh = s.fresh := rfl
@[simp] theorem State.setAttic_nextId (f : Attic → Attic) : (s.setAttic f).nextId = s.nextId := rfl
@[simp] theorem State.setAttic_fit (f : Attic → Attic) : (s.setAttic f).fit = s.fit := rfl
/-! Reads after writes. -/

@[simp] theorem State.hall_setHall (h : Nat) (f : Hall → Hall) : (s.setHall h f).hall h = f (s.hall h) := tget_tset_self ..

theorem State.hall_setHall_ne {h k : Nat} (f : Hall → Hall) (n : k ≠ h) : (s.setHall h f).hall k = s.hall k := tget_tset_ne _ _ _ n

@[simp] theorem State.room_setRoom (r : Nat) (f : Room → Room) : (s.setRoom r f).room r = f (s.room r) := tget_tset_self ..

theorem State.room_setRoom_ne {r k : Nat} (f : Room → Room) (n : k ≠ r) : (s.setRoom r f).room k = s.room k := tget_tset_ne _ _ _ n

@[simp] theorem State.core_setCore (k : Nat) (f : Core → Core) : (s.setCore k f).core k = f (s.core k) := tget_tset_self ..

theorem State.core_setCore_ne {k j : Nat} (f : Core → Core) (n : j ≠ k) : (s.setCore k f).core j = s.core j := tget_tset_ne _ _ _ n

@[simp] theorem State.ctx_setCtx (c : Nat) (f : Ctx → Ctx) : (s.setCtx c f).ctx c = f (s.ctx c) := tget_tset_self ..

theorem State.ctx_setCtx_ne {c k : Nat} (f : Ctx → Ctx) (n : k ≠ c) : (s.setCtx c f).ctx k = s.ctx k := tget_tset_ne _ _ _ n

@[simp] theorem State.me_setMe (f : Ctx → Ctx) : (s.setMe f).me = f s.me := tget_tset_self ..

theorem State.ctx_setMe_ne {k : Nat} (f : Ctx → Ctx) (n : k ≠ s.cur) : (s.setMe f).ctx k = s.ctx k := s.ctx_setCtx_ne f n

@[simp] theorem State.me_wr (r : BitVec 5) (v : Word) : (s.wr r v).me = s.me.wr r.toNat v := s.me_setMe _

@[simp] theorem State.me_enter (t : Word) : (s.enter t).me = { s.me with pc := t, place := .header } := s.me_setMe _

@[simp] theorem State.me_setCore (k : Nat) (f : Core → Core) : (s.setCore k f).me = s.me := rfl

@[simp] theorem State.me_setHall (h : Nat) (f : Hall → Hall) : (s.setHall h f).me = s.me := rfl

@[simp] theorem State.me_setRoom (r : Nat) (f : Room → Room) : (s.setRoom r f).me = s.me := rfl

@[simp] theorem State.me_post (e : Instr) : (s.post e).me = s.me := rfl

@[simp] theorem State.me_postAll (es : List Instr) : (s.postAll es).me = s.me := rfl

@[simp] theorem State.me_store (key n v : Nat) : (s.store key n v).me = s.me := rfl

@[simp] theorem State.me_setFull (h : Nat) (b : Bool) : (s.setFull h b).me = s.me := rfl

@[simp] theorem State.me_bump (core number amount : Nat) : (s.bump core number amount).me = s.me := rfl

@[simp] theorem State.me_noteWait (ctx : Nat) (w : Wait) : (s.noteWait ctx w).me = s.me := rfl

@[simp] theorem State.isFull_setFull (h : Nat) (b : Bool) : (s.setFull h b).isFull h = b := tget_tput_self ..

theorem State.isFull_setFull_ne {h k : Nat} (b : Bool) (n : k ≠ h) : (s.setFull h b).isFull k = s.isFull k := tget_tput_ne _ _ _ n

/-- The word just stored reads back. -/
@[simp] theorem State.loadW_store (key : Nat) (v : Word) : (s.store key 8 v.toNat).loadW key = v := by
  have h := memLoad_memStore_self 8 s.mem key v.toNat
  have hv := v.isLt
  simp only [State.loadW, State.load, State.store, word, h]
  rw [Nat.mod_eq_of_lt (by omega)]
  simp

/-! Registers of a context. -/

@[simp] theorem Ctx.rg_zero (c : Ctx) : c.rg 0 = 0 := rfl

/-- A register just written reads back; g0 stays zero (02 R27). -/
theorem Ctx.rg_wr_self (c : Ctx) (r : Nat) (v : Word) : (c.wr r v).rg r = if r = 0 then 0 else v := by
  unfold Ctx.wr Ctx.rg
  split
  · rfl
  · simp

theorem Ctx.rg_wr_ne (c : Ctx) {r k : Nat} (v : Word) (h : k ≠ r) : (c.wr r v).rg k = c.rg k := by
  unfold Ctx.wr Ctx.rg
  split
  · rfl
  · split
    · rfl
    · exact tget_tput_ne _ _ _ h

/-- A write to g0 is discarded. -/
@[simp] theorem Ctx.wr_zero (c : Ctx) (v : Word) : c.wr 0 v = c := rfl

/-- A register write leaves every other part of the context. -/
theorem Ctx.wr_rest (c : Ctx) (r : Nat) (v : Word) : { c.wr r v with g := c.g, written := c.written } = c := by
  unfold Ctx.wr
  split <;> rfl

end Sys2Proof.Machine
end

