-- ==== Sys2Proof/Laws/Ops.lean ====
section
/-! SUPPORT. Laws of the shared operations: the parts of the house that each may change, said once. `t = { s with … }` says that every
part but those named is as before. -/

namespace Sys2Proof.Machine

variable (s : State)

/-! Translation changes the TLBs alone. -/

theorem State.tlbPurge_frame (port h : Nat) : s.tlbPurge port h = { s with tlbs := (s.tlbPurge port h).tlbs } := rfl

theorem State.tlbUse_frame (port h : Nat) (e : TlbEntry) : s.tlbUse port h e = { s with tlbs := (s.tlbUse port h e).tlbs } := rfl

theorem State.lookup_frame (port h : Nat) : (s.lookup port h).1 = { s with tlbs := (s.lookup port h).1.tlbs } := by
  unfold State.lookup
  split
  · rfl
  · dsimp only
    split <;> split <;> rfl

theorem State.translate_frame (port h right : Nat) : (s.translate port h right).1 = { s with tlbs := (s.translate port h right).1.tlbs } := by
  have h1 := s.lookup_frame port h
  unfold State.translate
  split
  · rename_i e; rw [e] at h1; exact h1
  · rename_i e; rw [e] at h1
    split <;> exact h1

theorem State.reach_frame (port h right : Nat) : (s.reach port h right).1 = { s with tlbs := (s.reach port h right).1.tlbs } := by
  unfold State.reach
  split
  · exact s.translate_frame port h right
  · rfl

@[simp] theorem State.reach_mem (port h right : Nat) : (s.reach port h right).1.mem = s.mem := by rw [s.reach_frame]

@[simp] theorem State.reach_ctxs (port h right : Nat) : (s.reach port h right).1.ctxs = s.ctxs := by rw [s.reach_frame]

@[simp] theorem State.reach_cur (port h right : Nat) : (s.reach port h right).1.cur = s.cur := by rw [s.reach_frame]

@[simp] theorem State.reach_view (port h right : Nat) : (s.reach port h right).1.view = s.view := by rw [s.reach_frame]

/-- A house address outside paged space is its own place, and nothing changes. -/
theorem State.reach_house (port h right : Nat) (hu : unitOf h ≠ .paged) : s.reach port h right = (s, .ok (.house h)) := by
  unfold State.reach
  split
  · contradiction
  · rfl

/-! Waiting. -/

theorem State.hold_frame (w : Wait) : s.hold w = { s with ctxs := (s.hold w).ctxs, cores := (s.hold w).cores } := rfl

theorem State.sendOut_frame :
    s.sendOut = { s with agenda := s.sendOut.agenda, net := s.sendOut.net, nextId := s.sendOut.nextId } := by
  unfold State.sendOut
  split
  · rfl
  · split
    · rw [State.request_frame]
    · rfl

theorem State.await_frame :
    s.await = { s with ctxs := s.await.ctxs, cores := s.await.cores, agenda := s.await.agenda, net := s.await.net, nextId := s.await.nextId } := by
  unfold State.await
  split
  · rfl
  · split
    · rw [State.sendOut_frame]
      rfl
    · rfl

theorem State.parkTranslation_frame (h : Nat) (acc : AccKind) (why : XReason) :
    s.parkTranslation h acc why =
      { s with ctxs := (s.parkTranslation h acc why).ctxs, cores := (s.parkTranslation h acc why).cores,
               attic := (s.parkTranslation h acc why).attic, nextId := s.nextId + 1 } := rfl

/-! Taking a fault: the contexts, the attic's messages and the agenda. -/

theorem State.raiseAt_frame (ctx : Nat) (f : FaultRec) :
    s.raiseAt ctx f = { s with ctxs := (s.raiseAt ctx f).ctxs, attic := (s.raiseAt ctx f).attic, agenda := (s.raiseAt ctx f).agenda } := by
  have h : ∃ c a g, s.raiseAt ctx f = { s with ctxs := c, attic := a, agenda := g } := by
    unfold State.raiseAt
    dsimp only
    split <;> repeat' split
    all_goals exact ⟨_, _, _, rfl⟩
  obtain ⟨c, a, g, h⟩ := h
  rw [h]

theorem State.raise_frame (f : FaultRec) :
    s.raise f = { s with ctxs := (s.raise f).ctxs, attic := (s.raise f).attic, agenda := (s.raise f).agenda } := by
  unfold State.raise
  dsimp only
  rw [State.raiseAt_frame]
  split <;> rfl

@[simp] theorem State.raise_mem (f : FaultRec) : (s.raise f).mem = s.mem := by rw [s.raise_frame]

@[simp] theorem State.illegal_mem : s.illegal.mem = s.mem := s.raise_mem _

@[simp] theorem State.privilege_mem : s.privilege.mem = s.mem := s.raise_mem _

@[simp] theorem State.operand_mem (field : Nat) (r : BitVec 5) (reason : Nat) : (s.operand field r reason).mem = s.mem := s.raise_mem _

@[simp] theorem State.claimFault_mem (parts : Nat) : (s.claimFault parts).mem = s.mem := s.raise_mem _

@[simp] theorem State.porchFault_mem : s.porchFault.mem = s.mem := s.raise_mem _

/-- A fault of a task that no fault reply came before, and that belongs to a launch, is handed over with the record as it stands. -/
theorem State.raiseAt_status (ctx : Nat) (f : FaultRec) (h0 : (s.ctx ctx).lateFault = none) (h1 : (s.ctx ctx).lnum ≠ 0)
    (h2 : f.kind ≠ 9) : ((s.raiseAt ctx f).ctx ctx).status = .faulted f ∧ .faultHandover ctx ∈ (s.raiseAt ctx f).agenda := by
  unfold State.raiseAt
  simp only [h0]
  rw [if_neg (by simp [h1, h2])]
  constructor
  · unfold State.post State.ctx
    simp [State.setCtx]
  · simp [State.post]

/-! Slots. -/

theorem State.hearthEvent_frame (core kind addr slot : Nat) :
    s.hearthEvent core kind addr slot =
      { s with cores := (s.hearthEvent core kind addr slot).cores, halls := (s.hearthEvent core kind addr slot).halls,
               agenda := (s.hearthEvent core kind addr slot).agenda, net := (s.hearthEvent core kind addr slot).net,
               nextId := (s.hearthEvent core kind addr slot).nextId } := by
  unfold State.hearthEvent
  dsimp only
  split
  · rfl
  · rw [State.convey_frame]
    split <;> rfl

theorem State.freed_frame (core : Nat) : s.freed core = { s with agenda := (s.freed core).agenda } := by
  unfold State.freed
  split
  · split <;> rfl
  · rfl

theorem State.vacate_frame (ctx : Nat) : s.vacate ctx = { s with ctxs := tdel s.ctxs ctx, agenda := (s.vacate ctx).agenda } := by
  unfold State.vacate
  rw [State.freed_frame]

theorem State.migrationPacket_frame (core id owner bytes : Nat) :
    s.migrationPacket core id owner bytes =
      { s with net := (s.migrationPacket core id owner bytes).net, agenda := (s.migrationPacket core id owner bytes).agenda,
               nextId := (s.migrationPacket core id owner bytes).nextId } := by
  unfold State.migrationPacket
  split
  · rfl
  · rw [State.send_plain _ _ _ _ (by show (0 : Nat) ≠ 1; decide)]

/-- What the departure of a task may change: a wait, a fault of its reduction log, or the packet and the vacated slot. -/
theorem State.depart_frame (owner : Nat) :
    s.depart owner =
      { s with ctxs := (s.depart owner).ctxs, cores := (s.depart owner).cores, halls := (s.depart owner).halls,
               flights := (s.depart owner).flights, attic := (s.depart owner).attic, agenda := (s.depart owner).agenda,
               net := (s.depart owner).net, nextId := (s.depart owner).nextId, fresh := (s.depart owner).fresh } := by
  have h : ∃ c k h l a g e n r, s.depart owner =
      { s with ctxs := c, cores := k, halls := h, flights := l, attic := a, agenda := g, net := e, nextId := n, fresh := r } := by
    unfold State.depart State.checkLog
    dsimp only
    split
    · exact ⟨_, _, _, _, _, _, _, _, _, rfl⟩
    · split
      · rw [State.migrationPacket_frame, State.hearthEvent_frame, State.vacate_frame]
        exact ⟨_, _, _, _, _, _, _, _, _, rfl⟩
      · rw [State.raise_frame]
        exact ⟨_, _, _, _, _, _, _, _, _, rfl⟩
  obtain ⟨c, k, h, l, a, g, e, n, r, h⟩ := h
  rw [h]

@[simp] theorem State.depart_mem (owner : Nat) : (s.depart owner).mem = s.mem := by rw [s.depart_frame]

/-! Preparing an access. -/

/-- The access of a bundle is noted, and nothing else. -/
theorem State.toward_frame (h bytes back : Nat) : s.toward h bytes back = { s with dest := (s.toward h bytes back).dest } := by
  unfold State.toward
  split
  · split <;> rfl
  · rfl

/-- Granting banks changes the cores' records alone. -/
theorem State.takeBanks_frame (core : Nat) (bs : List Nat) : s.takeBanks core bs = { s with cores := (s.takeBanks core bs).cores } := by
  unfold State.takeBanks
  split <;> rfl

theorem State.useBank_frame (h : Nat) : s.useBank h = { s with cores := (s.useBank h).cores } := by
  unfold State.useBank
  split
  · exact State.takeBanks_frame ..
  · rfl

/-- A prepared access goes on at the place that its port gives, where the word is readable, in order and the port free; besides the port's TLB only banks and the
destination of its packet are noted. -/
theorem State.prepare_go {h right : Nat} {acc : AccKind} {m : Bool} {t : State} {p : Phys} (e : s.prepare h right acc m = .go t p) :
    ∃ u, s.reach (s.portOf s.myCore h) h right = (u, .ok p) ∧ u.physOffline p = false ∧ u.badWord h = false ∧ u.conflicts h = false ∧
      t = { u with cores := t.cores, dest := t.dest } := by
  unfold State.prepare at e
  split at e
  · cases e
  · rename_i t' p' hr
    rw [hr]
    dsimp only at e
    split at e
    · cases e
    · split at e
      · cases e
      · split at e
        · cases e
        · split at e
          · cases e
          · rename_i h1 h2 _ h4
            have hb := t'.useBank_frame h
            cases e
            refine ⟨t', rfl, by simpa using h1, by simpa using h2, by simpa using h4, ?_⟩
            rw [hb]
            split
            · rw [State.toward_frame]
            · split <;> rw [State.toward_frame]

theorem State.prepare_go_frame {h right : Nat} {acc : AccKind} {m : Bool} {t : State} {p : Phys} (e : s.prepare h right acc m = .go t p) :
    t = { s with tlbs := t.tlbs, cores := t.cores, dest := t.dest } := by
  obtain ⟨u, hr, _, _, _, ht⟩ := s.prepare_go e
  have h1 := s.reach_frame (s.portOf s.myCore h) h right
  rw [hr] at h1
  dsimp only at h1
  rw [ht, h1]

/-- An access that does not go on changes no memory. -/
theorem State.prepare_stop_mem {h right : Nat} {acc : AccKind} {m : Bool} {t : State} (e : s.prepare h right acc m = .stop t) :
    t.mem = s.mem := by
  have h1 := s.reach_mem (s.portOf s.myCore h) h right
  unfold State.prepare at e
  split at e
  · rename_i hr
    rw [hr] at h1
    cases e
    exact h1
  · rename_i hr
    rw [hr] at h1
    dsimp only at e
    split at e
    · cases e; rw [State.raise_mem]; exact h1
    · split at e
      · cases e; rw [State.raise_mem]; exact h1
      · split at e
        · cases e; rw [State.depart_mem]; exact h1
        · split at e
          · cases e; exact h1
          · cases e

/-! Parking and waking. -/

theorem State.parkAt_frame (h : Nat) (k : ParkKind) :
    s.parkAt h k =
      { s with ctxs := (s.parkAt h k).ctxs, cores := (s.parkAt h k).cores, parked := (s.parkAt h k).parked,
               attic := (s.parkAt h k).attic, agenda := (s.parkAt h k).agenda, net := (s.parkAt h k).net, nextId := (s.parkAt h k).nextId } := by
  unfold State.parkAt
  split
  · rw [State.raise_frame]
  · dsimp only
    split
    · rw [State.request_frame]
      rfl
    · rfl

theorem State.endWait_frame (q : Parked) : s.endWait q = { s with mem := (s.endWait q).mem } := by
  unfold State.endWait
  split <;> rfl

/-- Withdrawing a park changes the lists, and the WAIT bit of a future where the last waiter goes (14 R324). -/
theorem State.withdraw_frame (ctx : Nat) : s.withdraw ctx = { s with mem := (s.withdraw ctx).mem, parked := (s.withdraw ctx).parked } := by
  have h : ∀ (l : List Parked) (t : State), l.foldl State.endWait t = { t with mem := (l.foldl State.endWait t).mem } := by
    intro l
    induction l with
    | nil => intro t; rfl
    | cons q l ih => intro t; rw [List.foldl_cons, ih, t.endWait_frame q]
  unfold State.withdraw
  rw [h]
  rfl

theorem State.wake_frame (ctx : Nat) (v : Word) :
    s.wake ctx v = { s with ctxs := (s.wake ctx v).ctxs, parked := (s.wake ctx v).parked, agenda := (s.wake ctx v).agenda,
                            net := (s.wake ctx v).net, nextId := (s.wake ctx v).nextId } := by
  unfold State.wake
  split
  · rfl
  · dsimp only
    split
    · rfl
    · rw [State.send_plain _ _ _ _ (by show (3 : Nat) ≠ 1; decide)]
      rfl

theorem State.wakeAll_frame (v : Word) (l : List Parked) : ∀ s : State,
    s.wakeAll v l = { s with ctxs := (s.wakeAll v l).ctxs, parked := (s.wakeAll v l).parked, agenda := (s.wakeAll v l).agenda,
                             net := (s.wakeAll v l).net, nextId := (s.wakeAll v l).nextId } := by
  induction l with
  | nil => intro s; rfl
  | cons q t ih =>
    intro s
    simp only [State.wakeAll]
    rw [ih, State.wake_frame]

theorem State.reeval_frame (h : Nat) :
    s.reeval h = { s with ctxs := (s.reeval h).ctxs, parked := (s.reeval h).parked, agenda := (s.reeval h).agenda,
                          net := (s.reeval h).net, nextId := (s.reeval h).nextId } :=
  State.wakeAll_frame _ _ s

/-- A list of steps each of which leaves memory alone leaves it alone. -/
theorem foldl_mem {α : Type} (f : State → α → State) (hf : ∀ s a, (f s a).mem = s.mem) (l : List α) : ∀ s : State,
    (l.foldl f s).mem = s.mem := by
  induction l with
  | nil => intro s; rfl
  | cons a t ih => intro s; rw [List.foldl_cons, ih, hf]

@[simp] theorem State.reeval_mem (h : Nat) : (s.reeval h).mem = s.mem := by rw [s.reeval_frame]

theorem State.spoil_frame (key n : Nat) : s.spoil key n = { s with trees := (s.spoil key n).trees } := by
  unfold State.spoil
  split <;> rfl

/-- Where no tree stands, nothing that is read is undefined where it stands. -/
@[simp] theorem State.blurred_none (key n : Nat) (h : s.trees = []) : s.blurred key n = false := by simp [State.blurred, h]

theorem State.get_load (p : Phys) (n : Nat) (h : s.blurred p.key n = false) : s.get p n = s.load p.key n := by simp [State.get, h]

/-- A store to a place changes the bytes of that place and no others. -/
@[simp] theorem State.put_mem (p : Phys) (n v : Nat) : (s.put p n v).mem = memStore s.mem p.key v n := by
  unfold State.put
  dsimp only
  split
  · split
    · rfl
    · rw [foldl_mem _ fun s i => s.reeval_mem _]; rfl
  · rw [State.spoil_frame]; rfl

theorem State.wf_put (p : Phys) (n v : Nat) (h : Memory.wf s.mem = true) : Memory.wf (s.put p n v).mem = true := by
  rw [State.put_mem]
  exact wf_memStore n _ _ _ h

/-- A place gives back what was stored there, but in a slot that only a station may write (19 R363). -/
theorem State.get_put (p : Phys) (n v : Nat) (h : (s.put p n v).blurred p.key n = false) : (s.put p n v).get p n = v % 256 ^ n := by
  rw [State.get_load _ _ _ h]
  unfold State.load
  rw [State.put_mem]
  exact memLoad_memStore_self n _ _ _

/-! Relaxed accesses and fence points. -/

theorem State.launchRelaxed_frame (ctx : Nat) (r : Relaxed) (e : Instr) :
    s.launchRelaxed ctx r e =
      { s with net := (s.launchRelaxed ctx r e).net, agenda := (s.launchRelaxed ctx r e).agenda, nextId := (s.launchRelaxed ctx r e).nextId,
               fresh := (s.launchRelaxed ctx r e).fresh } := by
  unfold State.launchRelaxed
  split
  · rfl
  · rw [State.send_frame]

theorem State.relax_frame (op : RelOp) (h : Nat) (done : Bool) (e : Nat → Nat → Instr) :
    s.relax op h done e =
      { s with ctxs := (s.relax op h done e).ctxs, cores := (s.relax op h done e).cores, agenda := (s.relax op h done e).agenda,
               net := (s.relax op h done e).net, nextId := (s.relax op h done e).nextId, fresh := (s.relax op h done e).fresh } := by
  unfold State.relax
  split
  · rfl
  · dsimp only
    split
    · rfl
    · rw [State.launchRelaxed_frame]
      rfl

/-- A fence point waits, faults, or goes on in the state it was reached in. -/
theorem State.fencePoint_cases (n : Nat) (go : State → State) :
    s.fencePoint n go = s.hold .fence ∨ s.fencePoint n go = go s ∨ ∃ f, s.fencePoint n go = s.raise f := by
  unfold State.fencePoint State.checkLog
  split
  · exact .inl rfl
  · split
    · exact .inr (.inl rfl)
    · exact .inr (.inr ⟨_, rfl⟩)

theorem State.scoped_cases (n : BitVec 4) (go : State → State) :
    s.scoped n go = s.hold .fence ∨ s.scoped n go = go s ∨ ∃ f, s.scoped n go = s.raise f := by
  unfold State.scoped
  split
  · exact .inr (.inl rfl)
  · exact s.fencePoint_cases n.toNat go

theorem State.release_cases (go : State → State) :
    s.release go = s.hold .fence ∨ s.release go = go s ∨ ∃ f, s.release go = s.raise f := by
  unfold State.release State.checkLog
  split
  · exact .inl rfl
  · split
    · exact .inr (.inl rfl)
    · exact .inr (.inr ⟨_, rfl⟩)

end Sys2Proof.Machine
end

