-- ==== Sys2Proof/Laws/Frames.lean ====
section
/-! SUPPORT. The words of Safety.lean: what a register write, a change of the executing context and a transfer leave unchanged. -/

namespace Sys2Proof.Machine

variable (s : State)

/-- A change of the executing context changes nothing else. -/
theorem onlyMe_setMe (f : Ctx → Ctx) : OnlyMe s (s.setMe f) := ⟨rfl, fun _ h => s.ctx_setMe_ne f h⟩

theorem onlyMe_wr (d : BitVec 5) (v : Word) : OnlyMe s (s.wr d v) := onlyMe_setMe s _

theorem onlyMe_enter (w : Word) : OnlyMe s (s.enter w) := onlyMe_setMe s _

theorem OnlyMe.refl : OnlyMe s s := ⟨rfl, fun _ _ => rfl⟩

theorem OnlyMe.cur {s t : State} (h : OnlyMe s t) : t.cur = s.cur := by rw [h.1]

theorem OnlyMe.mem {s t : State} (h : OnlyMe s t) : t.mem = s.mem := by rw [h.1]

theorem OnlyMe.trans {s t u : State} (h : OnlyMe s t) (k : OnlyMe t u) : OnlyMe s u := by
  refine ⟨?_, fun c hc => ?_⟩
  · rw [k.1, h.1]
  · rw [k.2 c (by rw [h.cur]; exact hc), h.2 c hc]

/-- A register write sets its register and no other. -/
theorem setsReg_wr (d : BitVec 5) (v : Word) : SetsReg s (s.wr d v) d.toNat v := by
  refine ⟨?_, ?_, fun r h => ?_⟩
  · rw [State.me_wr]; unfold Ctx.wr; split <;> rfl
  · rw [State.me_wr, Ctx.rg_wr_self]
  · rw [State.me_wr, Ctx.rg_wr_ne _ _ h]

/-- An instruction that writes one register gives what its value satisfies. -/
theorem gives_of {i : Instr} {d : BitVec 5} {P : State → Word → Prop} (f : State → Word)
    (h : ∀ s, exec i s = .next (s.wr d (f s))) (hp : ∀ s, P s (f s)) : Gives i d P :=
  fun s => ⟨_, f s, h s, onlyMe_wr s d _, setsReg_wr s d _, hp s⟩

/-! Replies. -/

/-- A core's line is no gable ford and no Eslia link (11 R257). -/
theorem attachOf_lineOf (hall core : Nat) : attachOf hall (lineOf core) = none := by
  have h : lineOf core < 248 := by unfold lineOf; split <;> omega
  unfold attachOf
  rw [if_neg (by omega), if_neg (by omega)]

/-- A packet that is sent brings about what it carries. -/
theorem State.send_comes (source target : Nat × Nat) (p : Packet) {e : Instr} (h : e ∈ p.cargo) (ha : attachOf source.1 source.2 = none) :
    (s.send source target p).Comes e := by
  obtain ⟨x, hx, hc, -⟩ := s.send_sluice source target p ha
  refine .inr ⟨x.pkt, ?_, by rw [hc]; exact h⟩
  unfold Net.packets
  rw [hx]
  simp

/-- A request brings its cargo about, by a packet or at once. -/
theorem State.request_comes (ctx h bytes : Nat) (back : Option Nat) (cargo : List Instr) {e : Instr} (he : e ∈ cargo) :
    (s.request ctx h bytes back cargo).Comes e := by
  unfold State.request
  split
  · exact .inl (List.mem_append_right _ he)
  · exact State.send_comes _ _ _ _ he (attachOf_lineOf _ _)

/-- The step sends for the reply, where the bundle's request has not travelled. -/
theorem State.sendOut_comes (h : s.src.flying.isSome = false) : s.sendOut.Comes (.replyArrival s.cur) := by
  unfold State.sendOut
  rw [if_neg (by simp [h])]
  split
  · exact s.request_comes _ _ _ _ _ (by simp)
  · exact .inl (by simp [State.post])

theorem State.sendOut_me : s.sendOut.me = s.me := by
  rw [State.sendOut_frame]
  rfl

/-- A context that stands at its bundle, or goes on with it, awaits its reply. -/
theorem State.await_reply (h : s.me.status.going = true) : AwaitsReply s s.await := by
  unfold State.await
  split
  · rename_i e
    exact ⟨e, .inl e⟩
  · refine ⟨?_, ?_⟩
    · simp only [State.sendOut_me, State.noteWait, State.me_setCore, State.me_setMe]
    · by_cases hf : s.src.flying.isSome = true
      · exact .inr (.inl hf)
      · refine .inr (.inr (State.sendOut_comes _ ?_))
        have : s.src.flying.isSome = false := by simpa using hf
        unfold State.src at this ⊢
        simp only [State.noteWait, State.me_setCore, State.me_setMe]
        cases hv : s.view <;> simp_all [State.setCore, State.setMe, State.setCtx]

end Sys2Proof.Machine
end

