-- ==== Sys2Proof/Laws/Station.lean ====
section
/-! SUPPORT. Laws of resolution, of the stations and of house accesses: what a checked address satisfies, and that every one of these
operations keeps memory in its canonical form. -/

namespace Sys2Proof.Machine

variable (s : State)

/-- What an access that passes its checks satisfies (09 R214, R215): the segment grants the right, the span lies within the limit at
an aligned offset, and the house address is the base plus that offset. -/
theorem State.resolve_ok {a : Word} {k : Int} {size align right : Nat} {c : Cls} {acc h : Nat}
    (e : s.resolve a k size align right c acc = .ok h) :
    segClean (s.src.seg (fld a 63 61)) = true ∧ segHas (s.src.seg (fld a 63 61)) right = true ∧
      0 ≤ (fld a 60 0 : Int) + k ∧ (fld a 60 0 : Int) + k + size ≤ segLimit (s.src.seg (fld a 63 61)) ∧
      ((fld a 60 0 : Int) + k) % align = 0 ∧ h = segBase (s.src.seg (fld a 63 61)) + ((fld a 60 0 : Int) + k).toNat ∧
      h < 2 ^ 58 ∧ s.unitFault h c = none := by
  unfold State.resolve at e
  dsimp only at e
  split at e
  · cases e
  rename_i h1
  split at e
  · cases e
  rename_i h2
  split at e
  · cases e
  rename_i h3
  split at e
  · cases e
  rename_i h4
  split at e
  · cases e
  rename_i h5
  cases e
  simp only [Bool.or_eq_true, Bool.not_eq_true', not_or, Bool.not_eq_false] at h1
  exact ⟨h1.1, h1.2, by omega, by omega, by simpa using h3, rfl, by omega, h5⟩

/-! Loads and stores beside a tile command. -/

@[simp] theorem State.seen_mem (ctx h n v : Nat) : (s.seen ctx h n v).2.mem = s.mem := by
  unfold State.seen
  split <;> rfl

@[simp] theorem State.soil_mem (ctx h n : Nat) : (s.soil ctx h n).mem = s.mem := by
  unfold State.soil
  split <;> rfl

/-! Banks. -/

theorem State.useBanks_frame (hs : List Nat) : ∀ s : State, s.useBanks hs = { s with cores := (s.useBanks hs).cores } := by
  induction hs with
  | nil => intro s; rfl
  | cons h t ih =>
    intro s
    show (s.useBank h).useBanks t = { s with cores := ((s.useBank h).useBanks t).cores }
    rw [State.useBank_frame]
    exact ih _

@[simp] theorem State.useBanks_mem (hs : List Nat) : (s.useBanks hs).mem = s.mem := by rw [State.useBanks_frame]

/-! Full/empty words. -/

@[simp] theorem State.wake_mem (ctx : Nat) (v : Word) : (s.wake ctx v).mem = s.mem := by rw [s.wake_frame]

@[simp] theorem State.wakeAll_mem (v : Word) (l : List Parked) : (s.wakeAll v l).mem = s.mem := by rw [State.wakeAll_frame]

theorem State.feChanged_frame (h : Nat) : s.feChanged h = { s with agenda := (s.feChanged h).agenda } := by
  unfold State.feChanged
  split
  · split <;> rfl
  · split
    · rfl
    · split <;> rfl
  · split <;> rfl
  · rfl

@[simp] theorem State.feChanged_mem (h : Nat) : (s.feChanged h).mem = s.mem := by rw [s.feChanged_frame]

theorem State.wf_feFill (h : Nat) (v : Word) (w : Memory.wf s.mem = true) : Memory.wf (s.feFill h v).mem = true := by
  unfold State.feFill
  dsimp only
  split
  · simpa using w
  · simpa using State.wf_store _ h 8 v.toNat (by simpa using w)

theorem State.wf_fePut {t : State} {h : Nat} {v : Word} (e : s.fePut h v = some t) (w : Memory.wf s.mem = true) :
    Memory.wf t.mem = true := by
  unfold State.fePut at e
  split at e
  · cases e
  · cases e; exact s.wf_feFill h v w

theorem State.wf_devicePut (h : Nat) (v : Word) (w : Memory.wf s.mem = true) : Memory.wf (s.devicePut h v).mem = true := by
  unfold State.devicePut
  split
  · rename_i e; exact s.wf_fePut e w
  · exact w

theorem State.wf_feEmpty (h : Nat) (w : Memory.wf s.mem = true) : Memory.wf (s.feEmpty h).mem = true := by
  unfold State.feEmpty
  split
  · simpa using s.wf_store h 8 _ w
  · simpa using w

theorem State.wf_feTake {t : State} {h : Nat} {v : Word} (e : s.feTake h = some (v, t)) (w : Memory.wf s.mem = true) :
    Memory.wf t.mem = true := by
  unfold State.feTake at e
  split at e
  · simp only [Option.some.injEq, Prod.mk.injEq] at e
    rw [← e.2]
    exact s.wf_feEmpty h w
  · cases e

theorem State.wf_feForce (h : Nat) (v : Word) (w : Memory.wf s.mem = true) : Memory.wf (s.feForce h v).mem = true := by
  unfold State.feForce
  split
  · simpa using s.wf_store h 8 _ w
  · exact s.wf_feFill h v w

/-! Futures and landing words. -/

theorem State.wf_futSet {t : State} {handle : Nat} {v : Word} (e : s.futSet handle v = .ok t) (w : Memory.wf s.mem = true) :
    Memory.wf t.mem = true := by
  unfold State.futSet at e
  dsimp only at e
  split at e
  · cases e
  · split at e
    · cases e
    · cases e
      rw [State.wakeAll_mem]
      exact State.wf_store _ _ _ _ (s.wf_store _ _ _ w)

theorem State.wf_fillOf {t : State} {handle : Nat} {v : Word} (e : s.fillOf handle v = some t) (w : Memory.wf s.mem = true) :
    Memory.wf t.mem = true := by
  unfold State.fillOf at e
  split at e
  · cases e
  · cases h : s.futSet handle v with
    | error _ => rw [h] at e; cases e
    | ok u => rw [h] at e; cases e; exact s.wf_futSet h w

@[simp] theorem State.traceTo_mem (hall kind source : Nat) (gtid : Word) (payload : Nat) :
    (s.traceTo hall kind source gtid payload).mem = s.mem := by
  unfold State.traceTo
  rw [State.convey_frame]

theorem State.wf_complete (hall source : Nat) (gtid : Word) (handle : Nat) (v : Word) (w : Memory.wf s.mem = true) :
    Memory.wf (s.complete hall source gtid handle v).mem = true := by
  unfold State.complete
  cases h : s.fillOf handle v with
  | none =>
    show Memory.wf (s.traceTo _ _ _ _ _).mem = true
    rw [State.traceTo_mem]
    exact w
  | some t => exact s.wf_fillOf h w

theorem State.wf_futNew (hall : Nat) (w : Memory.wf s.mem = true) : Memory.wf (s.futNew hall).2.mem = true := by
  unfold State.futNew
  dsimp only
  split
  · exact w
  · exact State.wf_store _ _ _ _ (State.wf_store _ _ _ _ w)

@[simp] theorem State.raiseAt_mem (ctx : Nat) (f : FaultRec) : (s.raiseAt ctx f).mem = s.mem := by rw [s.raiseAt_frame]

theorem State.dropAll_mem (handle : Nat) (l : List Parked) : ∀ s : State, (s.dropAll handle l).mem = s.mem := by
  induction l with
  | nil => intro s; rfl
  | cons q t ih =>
    intro s
    simp only [State.dropAll]
    rw [ih, State.raiseAt_mem]
    rfl

theorem State.wf_futDrop {t : State} {handle : Nat} (e : s.futDrop handle = .ok t) (w : Memory.wf s.mem = true) :
    Memory.wf t.mem = true := by
  unfold State.futDrop at e
  dsimp only at e
  split at e
  · cases e
  · cases e
    rw [State.dropAll_mem]
    exact s.wf_store _ _ _ w

theorem State.wf_landing {t : State} {h n : Nat} (e : s.landing h n = some t) (w : Memory.wf s.mem = true) : Memory.wf t.mem = true := by
  unfold State.landing at e
  dsimp only at e
  split at e
  · cases e
  · cases e
    rw [State.reeval_mem]
    exact s.wf_store _ _ _ w

/-! Marks. -/

theorem State.wf_settleMark (hall k : Nat) (w : Memory.wf s.mem = true) : Memory.wf (s.settleMark hall k).mem = true := by
  unfold State.settleMark
  split
  · exact s.wf_store _ _ _ w
  · exact w

theorem State.wf_markAt (h : Nat) (w : Memory.wf s.mem = true) : Memory.wf (s.markAt h).1.mem = true := s.wf_settleMark _ _ w

theorem State.wf_deposit (h amount : Nat) (max' : Bool) (w : Memory.wf s.mem = true) : Memory.wf (s.deposit h amount max').mem = true :=
  State.wf_store _ _ _ _ (s.wf_markAt h w)

/-! Relaxed accesses at their memory. -/

/-- The state in which an access has been performed, or is held, or has failed. -/
def Perf.state : Perf → State
  | .done s => s
  | .held s _ _ _ => s
  | .bad s _ _ _ => s

/-- An access at its place is done in a state that differs by the port's TLB alone, or is not done and differs by it alone. -/
theorem State.performAt_cases (core h right : Nat) (acc : AccKind) (go : State → Phys → State) :
    (∃ t p, t = { s with tlbs := t.tlbs } ∧ s.performAt core h right acc go = .done (go t p)) ∨
      ∃ r, s.performAt core h right acc go = r ∧ r.state = { s with tlbs := r.state.tlbs } ∧ ∀ t, r ≠ .done t := by
  have h1 := s.reach_frame (s.portOf core h) h right
  unfold State.performAt
  split
  · rename_i e; rw [e] at h1
    exact .inr ⟨_, rfl, h1, by simp⟩
  · rename_i t p e; rw [e] at h1
    split
    · exact .inr ⟨_, rfl, h1, by simp⟩
    · split
      · exact .inr ⟨_, rfl, h1, by simp⟩
      · exact .inl ⟨t, p, h1, rfl⟩

theorem State.wf_performAt (core h right : Nat) (acc : AccKind) (go : State → Phys → State)
    (hg : ∀ t p, Memory.wf t.mem = true → Memory.wf (go t p).mem = true) (w : Memory.wf s.mem = true) :
    Memory.wf (s.performAt core h right acc go).state.mem = true := by
  obtain ⟨t, p, ht, e⟩ | ⟨r, e, hr, -⟩ := s.performAt_cases core h right acc go
  · rw [e]
    refine hg t p ?_
    rw [ht]; exact w
  · rw [e, hr]; exact w

@[simp] theorem State.deliver_mem (ctx : Nat) (f : Ctx → Ctx) : (s.deliver ctx f).mem = s.mem := by
  unfold State.deliver
  split <;> rfl

/-- Translating the lanes of a vector access changes TLBs alone. -/
theorem State.lanePlaces_ok (core right : Nat) (hs : List Nat) : ∀ {s t : State} {ps : List Phys},
    s.lanePlaces core right hs = .ok t ps → t = { s with tlbs := t.tlbs } := by
  induction hs with
  | nil => intro s t ps e; cases e; rfl
  | cons h hs ih =>
    intro s t ps e
    have h1 := s.reach_frame (s.portOf core h) h right
    simp only [State.lanePlaces] at e
    split at e
    · cases e
    · rename_i u p hr
      rw [hr] at h1
      split at e
      · cases e
      · split at e
        · cases e
        · split at e
          · rename_i e2
            cases e
            have h2 := ih e2
            rw [show u = { s with tlbs := u.tlbs } from h1] at h2
            exact h2
          · cases e

/-- A vector access that is not performed has changed TLBs alone. -/
theorem State.lanePlaces_no (core right : Nat) (hs : List Nat) : ∀ {s : State} {r : Perf},
    s.lanePlaces core right hs = .no r → r.state = { s with tlbs := r.state.tlbs } := by
  induction hs with
  | nil => intro s r e; cases e
  | cons h hs ih =>
    intro s r e
    have h1 := s.reach_frame (s.portOf core h) h right
    simp only [State.lanePlaces] at e
    split at e
    · rename_i hr
      rw [hr] at h1
      cases e
      exact h1
    · rename_i u p hr
      rw [hr] at h1
      split at e
      · cases e; exact h1
      · split at e
        · cases e; exact h1
        · split at e
          · cases e
          · rename_i e2
            cases e
            have h2 := ih e2
            rw [show u = { s with tlbs := u.tlbs } from h1] at h2
            exact h2

theorem State.loadLanes_mem (ctx v : Nat) (l : List (Nat × Nat)) : ∀ (s : State) (ps : List Phys), (s.loadLanes ctx v l ps).mem = s.mem := by
  induction l with
  | nil => intro s ps; simp only [State.loadLanes]
  | cons a l ih =>
    intro s ps
    cases ps with
    | nil => rfl
    | cons p ps =>
      simp only [State.loadLanes]
      rw [ih]
      simp

theorem State.wf_storeLanes (ctx : Nat) (l : List (Nat × Nat)) : ∀ (s : State) (ps : List Phys), Memory.wf s.mem = true →
    Memory.wf (s.storeLanes ctx l ps).mem = true := by
  induction l with
  | nil => intro s ps w; simpa only [State.storeLanes] using w
  | cons a l ih =>
    intro s ps w
    cases ps with
    | nil => exact w
    | cons p ps =>
      simp only [State.storeLanes]
      refine ih _ _ ?_
      rw [State.soil_mem]
      exact s.wf_put p 4 a.1 w

theorem State.wf_performLoads (ctx v : Nat) (l : List (Nat × Nat)) (w : Memory.wf s.mem = true) :
    Memory.wf (s.performLoads ctx v l).state.mem = true := by
  unfold State.performLoads
  split
  · rename_i e
    show Memory.wf (State.loadLanes ..).mem = true
    rw [State.loadLanes_mem, State.lanePlaces_ok _ _ _ e]
    exact w
  · rename_i e
    rw [State.lanePlaces_no _ _ _ e]
    exact w

theorem State.wf_performStores (ctx : Nat) (l : List (Nat × Nat)) (w : Memory.wf s.mem = true) :
    Memory.wf (s.performStores ctx l).state.mem = true := by
  unfold State.performStores
  split
  · rename_i e
    refine State.wf_storeLanes ctx l _ _ ?_
    rw [State.lanePlaces_ok _ _ _ e]
    exact w
  · rename_i e
    rw [State.lanePlaces_no _ _ _ e]
    exact w

theorem State.wf_perform (ctx : Nat) (r : Relaxed) (w : Memory.wf s.mem = true) : Memory.wf (s.perform ctx r).state.mem = true := by
  unfold State.perform
  dsimp only
  split
  · refine s.wf_performAt _ _ _ _ _ (fun t p w => ?_) w
    rw [show ∀ (u : State) d x, (u.wrCtx ctx d x).mem = u.mem from fun u _ _ => u.deliver_mem _ _, State.seen_mem]
    exact w
  · exact s.wf_performAt _ _ _ _ _ (fun t p w => by rw [State.soil_mem]; exact t.wf_put p _ _ w) w
  · exact s.wf_performLoads _ _ _ w
  · exact s.wf_performStores _ _ w
  · have h1 := s.reach_mem (s.portOf (coreOf ctx) r.h) r.h rA
    split
    · rename_i e; rw [e] at h1
      have h2 := h1.symm ▸ w
      split
      · exact State.wf_performAt _ _ _ _ _ _ (fun t p w => t.wf_put p _ _ w) h2
      · exact h2
    · rename_i e; rw [e] at h1
      exact h1.symm ▸ w
  · split
    · exact w
    · exact s.wf_deposit _ _ _ w
  · split
    · exact w
    · exact s.wf_deposit _ _ _ w

/-! House accesses. -/

/-- The state that a house access leaves. -/
def House.state {α : Type} : House α → State
  | .ok s _ => s
  | .wait s _ _ => s
  | .bad s => s

theorem State.houseWord_frame (hall h right : Nat) :
    (s.houseWord hall h right).state = { s with tlbs := (s.houseWord hall h right).state.tlbs } := by
  have h1 := s.reach_frame (16 * hall + bits h 9 6) h right
  unfold State.houseWord
  split
  · rfl
  · split
    · rename_i e; rw [e] at h1; exact h1
    · rename_i e; rw [e] at h1
      split <;> exact h1

theorem State.houseSpan_frame (hall right n : Nat) : ∀ (s : State) (h : Nat),
    (s.houseSpan hall h right n).state = { s with tlbs := (s.houseSpan hall h right n).state.tlbs } := by
  induction n with
  | zero => intro s h; rfl
  | succ n ih =>
    intro s h
    have h1 := s.houseWord_frame hall h right
    simp only [State.houseSpan]
    split
    · rename_i t p e
      rw [e] at h1
      have h2 := ih t (h + 8)
      split <;> (rename_i e2; rw [e2] at h2; rw [show t = { s with tlbs := t.tlbs } from h1] at h2; exact h2)
    · rename_i e; rw [e] at h1; exact h1
    · rename_i e; rw [e] at h1; exact h1

theorem State.houseRead_frame (hall h n : Nat) :
    (s.houseRead hall h n).state = { s with tlbs := (s.houseRead hall h n).state.tlbs } := by
  have h1 := State.houseSpan_frame hall rR n s h
  unfold State.houseRead
  split <;> (rename_i e; rw [e] at h1; exact h1)

theorem State.wf_putWords (ps : List Phys) : ∀ (s : State) (ws : List Word), Memory.wf s.mem = true →
    Memory.wf (s.putWords ps ws).mem = true := by
  induction ps with
  | nil => intro s ws w; exact w
  | cons p ps ih =>
    intro s ws w
    cases ws with
    | nil => exact w
    | cons x ws => exact ih _ _ (s.wf_put p 8 x.toNat w)

theorem State.wf_houseWrite (hall h : Nat) (ws : List Word) (w : Memory.wf s.mem = true) :
    Memory.wf (s.houseWrite hall h ws).state.mem = true := by
  have h1 := State.houseSpan_frame hall rW ws.length s h
  unfold State.houseWrite
  split
  · rename_i t ps e
    rw [e] at h1
    refine State.wf_putWords ps t ws ?_
    rw [show t = { s with tlbs := t.tlbs } from h1]
    exact w
  · rename_i e; rw [e] at h1; have h2 := congrArg State.mem h1; exact (show Memory.wf _ = true from h2.symm ▸ w)
  · rename_i e; rw [e] at h1; have h2 := congrArg State.mem h1; exact (show Memory.wf _ = true from h2.symm ▸ w)

end Sys2Proof.Machine
end

