-- ==== Sys2Proof/Tests/Slice0.lean ====
section
/-! SUPPORT. The model's own tests: ill-formed instructions are refused, words written out from the decode tables of the specification decode to their
instructions, single steps give the results that the specification works out, and every statement has states that meet its hypotheses. -/

open Sys2Proof Sys2Proof.Machine

namespace Sys2Proof.Tests

set_option Elab.async false

/-! Well-formedness: one term for each check, which the check refuses. -/

theorem test_wf_refuses_scalar_register : (Instr.add 24 1 2).wf = false ∧ (Instr.add 1 24 2).wf = false ∧ (Instr.add 1 2 31).wf = false := by decide
theorem test_wf_refuses_segment_register : (Instr.movsLo 1 8).wf = false ∧ (Instr.segld 8 1).wf = false := by decide
theorem test_wf_refuses_control_register : (Instr.movcRead 1 10).wf = false ∧ (Instr.movcWrite 15 1).wf = false ∧ (Instr.movcRead 1 16).wf = true := by decide
theorem test_wf_refuses_condition : (Instr.setCc 1 2 3 14).wf = false ∧ (Instr.cmpSkn 15 1 2 3).wf = false := by decide
theorem test_wf_refuses_skip_of_none : (Instr.cmpSkn 0 0 1 2).wf = false ∧ (Instr.cmpSknImm 12 1 1 64).wf = false := by decide
theorem test_wf_refuses_bit_field : (Instr.extN 1 2 1 63).wf = false ∧ (Instr.extN 1 2 0 63).wf = true := by decide
theorem test_wf_refuses_atomic_operation : (Instr.amo 1 2 3 0 0 10).wf = false ∧ (Instr.amo 1 2 3 0 1 9).wf = false ∧ (Instr.red 1 2 0 1).wf = false := by decide
theorem test_wf_refuses_register_pair : (Instr.segnar 1 2 23 0).wf = false ∧ (Instr.cpys 1 2 23 0 0 0).wf = false := by decide
theorem test_wf_refuses_register_triple : (Instr.fread 22 1 0 0).wf = false ∧ (Instr.dlook 0 1 2 0).wf = false ∧ (Instr.dput 23 1 2 0).wf = false := by decide
theorem test_wf_refuses_rounding : (Instr.vaddF 0 6 1 2 3 6).wf = false := by decide
theorem test_wf_refuses_type : (Instr.vaddF 0 0 1 2 3 0).wf = false ∧ (Instr.vaddI 0 6 1 2 3 0).wf = false ∧ (Instr.vins 1 2 3 4).wf = false := by decide
theorem test_wf_refuses_conversion : (Instr.vcvt 0 6 1 2 0 6 0 0).wf = false ∧ (Instr.vcvt 0 15 1 2 0 6 0 0).wf = false ∧
    (Instr.vcvt 0 6 1 2 4 9 0 0).wf = false ∧ (Instr.vcvt 0 6 1 2 3 9 0 0).wf = true := by decide
theorem test_wf_refuses_reduction : (Instr.vred 0 6 1 2 3).wf = false ∧ (Instr.vscan 0 0 1 2 0 6).wf = false := by decide
theorem test_wf_refuses_compare_and_vote : (Instr.vcmp 0 0 1 2 6).wf = false ∧ (Instr.vvote 0 1 2 5).wf = false ∧ (Instr.vmatch 0 1 2 3).wf = false := by decide
theorem test_wf_refuses_block_type : (Instr.vqmx 8 1 2 3).wf = false ∧ (Instr.vdqmx 15 1 2 3).wf = false := by decide
theorem test_wf_refuses_splat_and_drain : (Instr.vsplat 0 15 1 2).wf = false ∧ (Instr.vsplatSeq 0 6 1 2 3).wf = false ∧ (Instr.tdrain 0 1 2 0 5).wf = false := by decide

/-! Decoding. The words of the specification's own examples first, then one word for every syllable, put together from its row of the decode tables: each
field holds a value of its own. -/

/-- A word is read as an instruction in its slot, which is well formed, and whose encoding is that word. -/
def reads (x : Lane × Instr) : Bool :=
  x.2.wf && encode x.2 == some x.1 &&
    match x.2.slot with
    | .s => (decodeS x.1).toOption == some x.2
    | .v => (decodeV x.1).toOption == some x.2
    | .event => false

/-- 04 R97, R98; 06 R128, R131, R132, R134 to R139, R148; 10 R234: the examples that the chapters work. -/
theorem test_decode_examples_scalar :
    [(0x0430_8007, Instr.addImm 3 1 7), (0x0432_0000, .addImm 3 4 0), (0x0253_1C05, .divI 5 6 7), (0x0224_8030, .clz 2 9),
     (0x1642_0064, .rsub 4 4 100), (0x1284_003F, .sarImm 8 8 63), (0x2075_4321, .li 7 0x5_4321), (0x2276_7076, .lih 7 0x6_7076),
     (0x2471_2345, .lix 7 0x1_2345), (0x2844_A038, .extN 4 9 16 7), (0x2A21_9080, .setCc 2 3 4 2), (0x2E11_4000, .cmpSknImm 0 2 5 0),
     (0x2CE8_C800, .cmpSkn 7 1 3 4), (0x3200_001D, .call 29), (0x3400_0002, .ret), (0x31FF_FFF8, .br 0x1FF_FFF8)].all reads = true := by decide

theorem test_decode_examples_system :
    [(0x4241_4002, Instr.ldN 4 2 2 0 0 2), (0x4431_4003, .st 3 2 2 0 0 3), (0xC041_0000, .movcRead 4 2), (0xC000_9801, .movcWrite 1 6),
     (0xC001_9001, .movcWrite 3 4), (0xC009_1801, .movcWrite 18 6), (0xC431_0000, .claimv 3 2), (0xD853_0000, .rdctr 5 6),
     (0x4A40_8000, .tmma 2 1), (0x0263_1203, .vfma 0 6 3 1 2 0)].all reads = true := by decide


theorem test_decode_nopS_to_shl :
    [(0x0000_0000, Instr.nopS),
     (0x0335_5400, Instr.add 19 10 21),
     (0x0335_5401, Instr.sub 19 10 21),
     (0x0335_5402, Instr.mul 19 10 21),
     (0x0335_5403, Instr.mulhI 19 10 21),
     (0x0335_5404, Instr.mulhN 19 10 21),
     (0x0335_5405, Instr.divI 19 10 21),
     (0x0335_5406, Instr.divN 19 10 21),
     (0x0335_5407, Instr.remI 19 10 21),
     (0x0335_5408, Instr.remN 19 10 21),
     (0x0335_5410, Instr.and 19 10 21),
     (0x0335_5411, Instr.or 19 10 21),
     (0x0335_5412, Instr.xor 19 10 21),
     (0x0335_5413, Instr.andn 19 10 21),
     (0x0335_5414, Instr.shl 19 10 21)].all reads = true := by decide

theorem test_decode_shr_to_mulImm :
    [(0x0335_5415, Instr.shr 19 10 21),
     (0x0335_5416, Instr.sar 19 10 21),
     (0x0335_5417, Instr.rol 19 10 21),
     (0x0335_5418, Instr.ror 19 10 21),
     (0x0335_5420, Instr.minI 19 10 21),
     (0x0335_5421, Instr.maxI 19 10 21),
     (0x0335_5422, Instr.minN 19 10 21),
     (0x0335_5423, Instr.maxN 19 10 21),
     (0x0335_0030, Instr.clz 19 10),
     (0x0335_0031, Instr.ctz 19 10),
     (0x0335_0032, Instr.popc 19 10),
     (0x0335_0033, Instr.brev 19 10),
     (0x0335_0034, Instr.bswap 19 10),
     (0x0535_5A3C, Instr.addImm 19 10 23100),
     (0x0735_5A3C, Instr.mulImm 19 10 23100)].all reads = true := by decide

theorem test_decode_andImm_to_lix :
    [(0x0935_5A3C, Instr.andImm 19 10 23100),
     (0x0B35_5A3C, Instr.orImm 19 10 23100),
     (0x0D35_5A3C, Instr.xorImm 19 10 23100),
     (0x0F35_0025, Instr.shlImm 19 10 37),
     (0x1135_0025, Instr.shrImm 19 10 37),
     (0x1335_0025, Instr.sarImm 19 10 37),
     (0x1535_0025, Instr.rolImm 19 10 37),
     (0x1735_5A3C, Instr.rsub 19 10 23100),
     (0x1935_5A3C, Instr.minIImm 19 10 23100),
     (0x1B35_5A3C, Instr.maxIImm 19 10 23100),
     (0x1D35_5A3C, Instr.minNImm 19 10 23100),
     (0x1F35_5A3C, Instr.maxNImm 19 10 23100),
     (0x213B_5C69, Instr.li 19 744553),
     (0x233B_5C69, Instr.lih 19 744553),
     (0x253B_5C69, Instr.lix 19 744553)].all reads = true := by decide

theorem test_decode_lit_to_spawn :
    [(0x2730_0006, Instr.lit 19 6),
     (0x2935_2B28, Instr.extN 19 10 21 37),
     (0x2935_2B29, Instr.extI 19 10 21 37),
     (0x2935_2B2A, Instr.ins 19 10 21 37),
     (0x2935_2B2B, Instr.dep 19 10 21 37),
     (0x2B35_5740, Instr.setCc 19 10 21 13),
     (0x2D2D_4C00, Instr.cmpSkn 9 1 21 6),
     (0x2F2D_6B4D, Instr.cmpSknImm 9 1 21 11085),
     (0x3165_4321, Instr.br 23413537),
     (0x3365_4321, Instr.call 23413537),
     (0x3409_8000, Instr.jr 19),
     (0x3409_8001, Instr.callr 19),
     (0x3400_0002, Instr.ret),
     (0x3609_8000, Instr.endTask 19),
     (0x3935_5400, Instr.spawn 19 10 21)].all reads = true := by decide

theorem test_decode_launch_to_segnar :
    [(0x3B35_5400, Instr.launch 19 10 21),
     (0x3D35_0000, Instr.greplay 19 10),
     (0x4135_59A5, Instr.ldI 19 10 2 1 9 165),
     (0x4335_59A5, Instr.ldN 19 10 2 1 9 165),
     (0x4535_59A5, Instr.st 19 10 2 1 9 165),
     (0x4735_5950, Instr.ldxI 19 10 2 1 9 10),
     (0x4935_5950, Instr.ldxN 19 10 2 1 9 10),
     (0x4B35_5950, Instr.stx 19 10 2 1 9 10),
     (0x4D35_5400, Instr.lkup 19 10 21),
     (0x4F35_5400, Instr.tagset 19 10 21),
     (0x5009_A800, Instr.taginv 19 10),
     (0x5209_A0A5, Instr.pfx 19 1 165),
     (0x5455_0000, Instr.segld 5 10),
     (0x5655_0000, Instr.segst 5 10),
     (0x5851_D4A5, Instr.segnar 5 3 21 165)].all reads = true := by decide

theorem test_decode_amo_to_futget :
    [(0x6135_5765, Instr.amo 19 10 21 13 1 5),
     (0x6335_5760, Instr.amocas 19 10 21 13 1),
     (0x6409_A825, Instr.red 19 10 1 5),
     (0x6600_0009, Instr.fence 9),
     (0x6609_8200, Instr.qfence 19),
     (0x6609_8306, Instr.qfenceOwn 19 6),
     (0x6935_6BA5, Instr.take 19 10 11 165),
     (0x6B35_6BA5, Instr.put 19 10 11 165),
     (0x6D35_6BA5, Instr.fereadD 19 10 11 165),
     (0x6D35_0BA5, Instr.fereadProbe 19 10 11 165),
     (0x6E09_86A5, Instr.fesetEmpty 19 6 165),
     (0x6F35_2BA5, Instr.fesetFull 19 10 11 165),
     (0x7135_02C0, Instr.futnew 19 10 11),
     (0x7209_AAC0, Instr.futset 19 10 11),
     (0x7535_02C0, Instr.futget 19 10 11)].all reads = true := by decide

theorem test_decode_futdrop_to_mwait :
    [(0x7609_8180, Instr.futdrop 19 6),
     (0x7809_AAC0, Instr.barinit 19 10 11),
     (0x7B35_5740, Instr.arrive 19 10 21 13),
     (0x7D35_5740, Instr.waitb 19 10 21 13),
     (0x7F35_5740, Instr.waitl 19 10 21 13),
     (0x8135_541A, Instr.cpy 19 10 21 1 1 2),
     (0x8335_541A, Instr.cpys 19 10 21 1 1 2),
     (0x8535_540D, Instr.cpym 19 10 21 1 5),
     (0x8609_A801, Instr.landset 19 10 1),
     (0x9009_A800, Instr.mdep 19 10),
     (0x9209_A800, Instr.mdepx 19 10),
     (0x9535_5400, Instr.msense 19 10 21),
     (0x9735_0000, Instr.mread 19 10),
     (0x9935_0000, Instr.mclr 19 10),
     (0x9B30_0000, Instr.mwait 19)].all reads = true := by decide

theorem test_decode_mwaitUntil_to_fmerge :
    [(0x9B35_0001, Instr.mwaitUntil 19 10),
     (0x9D30_0000, Instr.ebb 19),
     (0x9D30_0001, Instr.ebbPeriod 19),
     (0x9E09_A800, Instr.mfield 19 10),
     (0x9F35_0001, Instr.mfieldRd 19 10),
     (0xA135_5400, Instr.dhash 19 10 21),
     (0xA335_5740, Instr.dlook 19 10 21 13),
     (0xA535_5740, Instr.dput 19 10 21 13),
     (0xA609_AAC0, Instr.drel 19 10 11),
     (0xA935_5740, Instr.dstat 19 10 21 13),
     (0xAA09_AAC0, Instr.dtouch 19 10 11),
     (0xB009_8001, Instr.fcfg 19 1),
     (0xB335_5742, Instr.fput 19 10 21 13 2),
     (0xB535_02C1, Instr.fread 19 10 11 1),
     (0xB735_02C1, Instr.fmerge 19 10 11 1)].all reads = true := by decide

theorem test_decode_fsave_to_slotreap :
    [(0xB935_02C1, Instr.fsave 19 10 11 1),
     (0xBB35_02C1, Instr.fload 19 10 11 1),
     (0xBC00_0002, Instr.fclr 2),
     (0xBF30_0182, Instr.fstat 19 6 2),
     (0xC139_0000, Instr.movcRead 19 18),
     (0xC009_2801, Instr.movcWrite 18 10),
     (0xC331_8000, Instr.movsLo 19 3),
     (0xC331_8001, Instr.movsHi 19 3),
     (0xC251_8002, Instr.movsSeg 5 3),
     (0xC535_0000, Instr.claimv 19 10),
     (0xC735_0000, Instr.claimt 19 10),
     (0xC800_0000, Instr.relv),
     (0xCA09_8000, Instr.relt 19),
     (0xCC09_8000, Instr.slotstart 19),
     (0xCE09_8000, Instr.slotreap 19)].all reads = true := by decide

theorem test_decode_slotreapSave_to_vminF :
    [(0xCE09_A801, Instr.slotreapSave 19 10),
     (0xD135_0000, Instr.slotown 19 10),
     (0xD209_82A7, Instr.trap 19 679),
     (0xD400_02A7, Instr.brk 679),
     (0xD609_A825, Instr.trc 19 10 37),
     (0xD935_0000, Instr.rdctr 19 10),
     (0xDA09_8000, Instr.taskres 19),
     (0xDC09_8000, Instr.taskkill 19),
     (0x0000_0000, Instr.nopV),
     (0x038B_D980, Instr.vaddF 1 8 11 13 9 4),
     (0x038B_D981, Instr.vsubF 1 8 11 13 9 4),
     (0x038B_D982, Instr.vmulF 1 8 11 13 9 4),
     (0x038B_D983, Instr.vfma 1 8 11 13 9 4),
     (0x038B_D984, Instr.vfms 1 8 11 13 9 4),
     (0x038B_D905, Instr.vminF 1 8 11 13 9)].all reads = true := by decide

theorem test_decode_vmaxF_to_vshl :
    [(0x038B_D906, Instr.vmaxF 1 8 11 13 9),
     (0x038B_D007, Instr.vabsF 1 8 11 13),
     (0x038B_D008, Instr.vnegF 1 8 11 13),
     (0x054B_D980, Instr.vaddI 1 4 11 13 9 1),
     (0x054B_D981, Instr.vsubI 1 4 11 13 9 1),
     (0x054B_D902, Instr.vmulI 1 4 11 13 9),
     (0x054B_D903, Instr.vmulh 1 4 11 13 9),
     (0x054B_D904, Instr.vminI 1 4 11 13 9),
     (0x054B_D905, Instr.vmaxI 1 4 11 13 9),
     (0x054B_D086, Instr.vabsI 1 4 11 13 1),
     (0x054B_D087, Instr.vnegI 1 4 11 13 1),
     (0x054B_D908, Instr.vand 1 4 11 13 9),
     (0x054B_D909, Instr.vor 1 4 11 13 9),
     (0x054B_D90A, Instr.vxor 1 4 11 13 9),
     (0x054B_D98B, Instr.vshl 1 4 11 13 9 1)].all reads = true := by decide

theorem test_decode_vshr_to_vctz :
    [(0x054B_D90C, Instr.vshr 1 4 11 13 9),
     (0x0730_BD05, Instr.vcmp 1 3 11 13 5),
     (0x0809_6B00, Instr.vsel 9 6 11),
     (0x0B6B_D29C, Instr.vcvt 1 6 11 13 2 9 1 4),
     (0x0CC6_BD00, Instr.vqmx 12 6 11 13),
     (0x0CC6_BD01, Instr.vdqmx 12 6 11 13),
     (0x0F8B_D080, Instr.vrcp 1 8 11 13 4),
     (0x0F8B_D081, Instr.vrsq 1 8 11 13 4),
     (0x0F8B_D082, Instr.vexp2 1 8 11 13 4),
     (0x0F8B_D083, Instr.vlog2 1 8 11 13 4),
     (0x0F8B_D084, Instr.vsin 1 8 11 13 4),
     (0x0F8B_D085, Instr.vcos 1 8 11 13 4),
     (0x0F8B_D086, Instr.vtanh 1 8 11 13 4),
     (0x114B_D000, Instr.vclz 1 4 11 13),
     (0x114B_D001, Instr.vctz 1 4 11 13)].all reads = true := by decide

theorem test_decode_vpopc_to_vgath :
    [(0x114B_D002, Instr.vpopc 1 4 11 13),
     (0x1306_BD00, Instr.vshuf 1 6 11 13),
     (0x156B_3000, Instr.vsplat 1 6 11 6),
     (0x153B_34C1, Instr.vsplatSeq 1 3 11 6 19),
     (0x1706_A803, Instr.vvote 1 6 21 3),
     (0x1906_B002, Instr.vmatch 1 6 11 2),
     (0x1B3B_3004, Instr.vred 1 3 11 6 4),
     (0x1D3B_D014, Instr.vscan 1 3 11 13 1 4),
     (0x1E36_A980, Instr.vins 3 6 21 6),
     (0x1E36_A981, Instr.vext 3 6 21 6),
     (0x2106_A836, Instr.vld 1 6 21 13 1),
     (0x2306_A836, Instr.vst 1 6 21 13 1),
     (0x2506_A9A6, Instr.vlds 1 6 21 6 9 1),
     (0x2706_A9A6, Instr.vsts 1 6 21 6 9 1),
     (0x293B_349A, Instr.vgath 1 3 11 6 9 6 1)].all reads = true := by decide

theorem test_decode_vscat_to_tdrainByp :
    [(0x2B3B_349A, Instr.vscat 1 3 11 6 9 6 1),
     (0x4120_2AA0, Instr.tld 9 10 21),
     (0x4320_2AA0, Instr.tldx 9 10 21),
     (0x4520_2AA0, Instr.tst 9 10 21),
     (0x4612_8000, Instr.tlw 9 1),
     (0x4920_2800, Instr.tscl 9 10),
     (0x4920_2801, Instr.tsclSt 9 10),
     (0x4B20_8000, Instr.tmma 9 1),
     (0x4B2D_0005, Instr.tmmaW 9 6 2 1),
     (0x4C01_0000, Instr.tzero 2),
     (0x4D20_0001, Instr.tzeroT 9),
     (0x4E01_2AB7, Instr.tdrain 2 10 21 1 7),
     (0x5120_8011, Instr.tdrainByp 9 1 1 1)].all reads = true := by decide

/-! States of the tests. -/

/-- Segments with every right but M: the store of core 0 (s0), the hall-service words (s1), the marks (s2), the futures (s3), the store of core 1 (s4)
and the beginning of paged space (s5). -/
def segs : Tab Seg :=
  [(0, mkSeg (localAddr 0 0) 0x4_0000 0xEF), (1, mkSeg 0xF_0000_0000 0x2000_0000 0xEF), (2, mkSeg 0x3_0000_0000 0x400_0000 0xEF),
   (3, mkSeg 0x4_0000_0000 0x200_0000 0xEF), (4, mkSeg (localAddr 1 0) 0x4_0000 0xEF), (5, mkSeg 0x100_0000_0000 0x1_0000_0000 0xEF)]

/-- An address register: a segment and an offset. -/
def at' (seg off : Nat) : Word := word (seg * 2 ^ 61 + off)

/-- Task 5 of launch 1 at the only bundle of a block, with the general registers given. -/
def task (g : Tab Word) : Ctx :=
  { status := .ready, pc := 8, place := .block 0 (headerOf 1), segs := segs, g := g, gid := 0x0001_0000_0000_0005 }

/-- The house after reset with that task in slot 0 of core 0. -/
def house (c : Ctx) : State := { State.reset with ctxs := [(0, c)] }

/-- What stands in a state after an instruction. -/
def after (i : Instr) (s : State) (P : State → Bool) : Bool :=
  match exec i s with
  | .next t => P t
  | _ => false

/-- The same through one step, which fetches, decodes and executes the word. -/
def stepped (w : Nat) (s : State) (P : State → Bool) : Bool :=
  match step (s.withFetchWord 32 w) with
  | .next t => P t
  | _ => false

/-- That house with memory words stored. -/
def holding (c : Ctx) (ws : List (Nat × Nat)) : State := ws.foldl (fun s w => s.store w.1 8 w.2) (house c)

/-- That house with a page of 2^30 bytes at the beginning of paged space in the TLB of port 0: its leaf names a tier and grants every right. -/
def paged (c : Ctx) (tier : Nat) : State :=
  { house c with tlbs := [(1024, [{ base := 1024, size := 30, leaf := word (tier * 2 ^ 62 + 0xF_0000_0000_0002) }])] }

/-- A relaxed store of word 0x100 of a core's store, not yet performed. -/
def pending (core : Nat) : Relaxed := { id := 9, op := .store 8 1, h := localAddr core 0x100, pc := 8 }

/-- `Reaches` by evaluation. -/
theorem reaches_of {s : State} {a : Word} {k : Int} {size right : Nat} {c : Cls} {acc : AccKind} {u : State} {h : Nat} {p : Phys}
    (h₁ : (match s.resolve a k size size right c with | .ok x => x == h | .error _ => false) = true)
    (h₂ : (match s.prepare h right acc (s.touches a) with | .go v q => decide (v = u ∧ q = p) | .stop _ => false) = true) :
    s.Reaches a k size right c acc u h p := by
  constructor
  · revert h₁; cases s.resolve a k size size right c <;> simp
  · revert h₂; cases s.prepare h right acc (s.touches a) <;> simp

/-- The house after a load, a store or an atomic access at `h` has been prepared: its bank is granted and its reply is to come from there. -/
def forLoad (s : State) (h : Nat) : State := (s.useBank h).toward h 0 8
def forStore (s : State) (h : Nat) : State := (s.useBank h).toward h 8 0
def forAtomic (s : State) (h : Nat) : State := (s.useBank h).toward h 8 8

/-- A translation by evaluation. -/
theorem reach_of {x : State × Except XReason Phys} {u : State} {p : Phys} (h₁ : x.1 = u)
    (h₂ : (match x.2 with | .ok q => decide (q = p) | .error _ => false) = true) : x = (u, .ok p) := by
  obtain ⟨v, e⟩ := x; cases e <;> simp_all

/-- A dispatcher's or engine's read by evaluation. -/
theorem house_ex {α : Type} {x : House α} (p : State → α → Bool) (h : (match x with | .ok u a => p u a | _ => false) = true) :
    ∃ u a, x = .ok u a ∧ p u a = true := by
  cases x <;> first | exact ⟨_, _, rfl, h⟩ | simp at h

/-- A checked operation by evaluation. -/
theorem except_ex {ε α : Type} {x : Except ε α} (p : α → Bool) (h : (match x with | .ok a => p a | .error _ => false) = true) :
    ∃ a, x = .ok a ∧ p a = true := by
  cases x <;> first | exact ⟨_, rfl, h⟩ | simp at h

/-- The lanes of a vector load by evaluation. -/
theorem perf_ex {x : Perf} (p : State → Bool) (h : (match x with | .done u => p u | _ => false) = true) : ∃ u, x = .done u ∧ p u = true := by
  cases x <;> first | exact ⟨_, rfl, h⟩ | simp at h

/-- A span made ready, by evaluation. -/
theorem span_ex {x : State × Option (List Phys)} (p : List Phys → Bool) (h : (match x.2 with | some a => p a | none => false) = true) :
    ∃ u a, x = (u, some a) ∧ p a = true := by
  obtain ⟨u, o⟩ := x; cases o <;> first | exact ⟨_, _, rfl, h⟩ | simp at h

/-- A fetch by evaluation. -/
theorem fetch_ex {x : Fetch} (p : State → Word → Nat → Bool) (h : (match x with | .got u w a => p u w a | _ => false) = true) :
    ∃ u w a, x = .got u w a ∧ p u w a = true := by
  cases x <;> first | exact ⟨_, _, _, rfl, h⟩ | simp at h


/-! What is refused as an instruction, headers and whole bundles (04 R81, R82, R91 to R101; 08 R193). -/

theorem test_decode_refuses_opcode : (decodeS 0xFE00_0000).toOption = none ∧ (decodeV 0xFE00_0000).toOption = none ∧ (decodeS 0x0000_0001).toOption = none := by decide
theorem test_decode_refuses_reserved : (decodeS 0x0335_5409).toOption = none ∧ (decodeS 0x0224_8430).toOption = none ∧ (decodeS 0x0E42_0040).toOption = none ∧
    (decodeS 0x2670_0010).toOption = none ∧ (decodeS 0x3E00_0001).toOption = none := by decide
theorem test_decode_refuses_codes : (decodeS 0x0380_0000).toOption = none ∧ (decodeS 0x2A21_9380).toOption = none ∧ (decodeS 0x2E01_4000).toOption = none ∧
    (decodeS 0x2844_A03C).toOption = none ∧ (decodeS 0x2844_FFF8).toOption = none ∧ (decodeS 0xC045_0000).toOption = none := by decide
/-- 08, Encodings by example: `VQMX.e4m3.m`, `VCMP.uo.i32`, `VMIN.f32.rne`, `VCVT.f32.f32`, `VCVT.e2m1.f32` with part 8. -/
theorem test_decode_refuses_examples : (decodeV 0x0DA8_9A00).toOption = none ∧ (decodeV 0x0600_1206).toOption = none ∧ (decodeV 0x0263_1225).toOption = none ∧
    (decodeV 0x0A62_7060).toOption = none ∧ (decodeV 0x0AD2_7860).toOption = none := by decide
theorem test_decode_bundle : (decodeBundle 0x0263_1203_0430_8007).toOption = some (.addImm 3 1 7, .vfma 0 6 3 1 2 0) ∧
    decodeTableWord 32 0x0253_1C05 = some (.divI 5 6 7) := by decide
theorem test_header : hdrOk 0x5900_0000_0000_0605 = true ∧ hdrOk 0x5A00_0000_0000_0000 = true ∧ hdrOk 0x5800_0000_0000_0605 = false ∧
    hdrOk 0x5B00_0000_0000_0100 = false ∧ hdrLen 0x5900_0000_0000_0605 = 5 := by decide

/-! Single steps. The expected values are the specification's own examples (06 R131, R132, R134, R139; 07 R170, R187; 08 R197, R202, R210, R211). -/

/-- g1 and g2 hold two operands. -/
def two (a b : Word) : State := house (task [(1, a), (2, b)])

/-- What instruction `f` gives in g3. -/
def gives (f : BitVec 5 → BitVec 5 → BitVec 5 → Instr) (a b : Word) (r : Word) : Bool := after (f 3 1 2) (two a b) fun t => t.me.rg 3 == r

theorem test_div_i : gives .divI 7 2 3 = true ∧ gives .divI (-7) 2 (-3) = true ∧ gives .divI 7 0 (-1) = true ∧
    gives .divI 0x8000_0000_0000_0000 (-1) 0x8000_0000_0000_0000 = true := by decide
theorem test_rem_i : gives .remI 7 2 1 = true ∧ gives .remI (-7) 2 (-1) = true ∧ gives .remI 7 0 7 = true ∧ gives .remI 0x8000_0000_0000_0000 (-1) 0 = true := by decide
theorem test_div_n : gives .divN (-7) 2 0x7FFF_FFFF_FFFF_FFFC = true ∧ gives .divN 7 0 (-1) = true ∧ gives .divN 0x8000_0000_0000_0000 (-1) 0 = true := by decide
theorem test_rem_n : gives .remN (-7) 2 1 = true ∧ gives .remN 7 0 7 = true ∧ gives .remN 0x8000_0000_0000_0000 (-1) 0x8000_0000_0000_0000 = true := by decide
theorem test_mulh : gives .mulhI (-1) (-1) 0 = true ∧ gives .mulhN (-1) (-1) 0xFFFF_FFFF_FFFF_FFFE = true := by decide
theorem test_shifts : gives .shl 1 65 2 = true ∧ gives .sar (-8) 1 (-4) = true ∧ gives .rol 0x8000_0000_0000_0001 0 0x8000_0000_0000_0001 = true ∧
    gives .ror 1 1 0x8000_0000_0000_0000 = true := by decide
theorem test_counts_of_zero : after (.clz 3 1) (two 0 0) (fun t => t.me.rg 3 == 64) = true ∧ after (.ctz 3 1) (two 0 0) (fun t => t.me.rg 3 == 64) = true ∧
    after (.popc 3 1) (two 0 0) (fun t => t.me.rg 3 == 0) = true := by decide
theorem test_constants : after (.li 7 0x5_4321) (two 0 0) (fun t => t.me.rg 7 == 0x5_4321) = true ∧
    after (.lih 7 0x6_7076) (house (task [(7, 0x5_4321)])) (fun t => t.me.rg 7 == 0x67_0765_4321) = true ∧
    after (.lix 7 0x1_2345) (house (task [(7, 0x67_0765_4321)])) (fun t => t.me.rg 7 == 0x0123_4567_0765_4321) = true := by decide
theorem test_bit_fields : after (.extN 4 1 16 7) (two 0xAB_CDEF 0) (fun t => t.me.rg 4 == 0xAB) = true ∧
    after (.extI 4 1 16 7) (two 0xAB_CDEF 0) (fun t => t.me.rg 4 == 0xFFFF_FFFF_FFFF_FFAB) = true := by decide
theorem test_g0_reads_zero_and_keeps_zero : after (.addImm 0 0 5) (two 1 2) (fun t => t.me.rg 0 == 0) = true := by decide

/-- R139's caller: `main` at 0x100 with three bundles; the CALL stands in the last. -/
def caller (pc g23 : Word) : State := house { task [(23, g23)] with pc := pc, place := .block (pcAdd pc (-24)) (headerOf 3) }

theorem test_call : after (.call 29) (caller 0x2000_0000_0000_0118 0)
    (fun t => t.me.pc == 0x2000_0000_0000_0200 && t.me.rg 23 == 0x2000_0000_0000_0120 && t.me.place == .header) = true := by decide +kernel
theorem test_ret : after .ret (caller 0x2000_0000_0000_0208 0x2000_0000_0000_0120) (fun t => t.me.pc == 0x2000_0000_0000_0120) = true := by decide +kernel

/-- A task with 8 lanes and lanes of v0 to v2 given. -/
def laned8 (p : Word) (vs : Tab Lane) : State := house { task [] with lanes := 8, p := p, vregs := vs }

/-- What a V syllable leaves in lane 0 of v2. -/
def lane0 (i : Instr) (a b : Lane) (r : Lane) : Bool := after i (laned8 0 [(0, a), (64, b)]) fun t => t.me.lane 2 0 == r

theorem test_vabs_vneg : lane0 (.vabsI 0 2 2 0 0) 0x80 0 0x80 = true ∧ lane0 (.vabsI 0 2 2 0 1) 0x80 0 0x7F = true ∧
    lane0 (.vnegI 0 4 2 0 1) 0x0001_8000 0 0 = true := by decide +kernel
theorem test_vshl_saturates : lane0 (.vshl 0 0 2 0 1 1) 0x4000_0000 1 0x7FFF_FFFF = true ∧ lane0 (.vshl 0 0 2 0 1 1) 0xC000_0000 2 0x8000_0000 = true := by
  decide +kernel
theorem test_vcvt_saturates : after (.vcvt 0 10 2 0 1 6 1 0) (laned8 0 [(0, 0x43FA_0000), (128, 0x1122_3344)]) (fun t => t.me.lane 2 0 == 0x1122_7E44) = true ∧
    after (.vcvt 0 10 2 0 1 6 0 0) (laned8 0 [(0, 0x43FA_0000), (128, 0x1122_3344)]) (fun t => t.me.lane 2 0 == 0x1122_7F44) = true := by decide +kernel

/-- R211's eight lanes: 2^24 and seven times 1, lane 5 masked. -/
def tied : State := laned8 0xDF [(256, 0x4B80_0000), (257, 0x3F80_0000), (258, 0x3F80_0000), (259, 0x3F80_0000), (260, 0x3F80_0000), (261, 0x3F80_0000),
  (262, 0x3F80_0000), (263, 0x3F80_0000)]

theorem test_vred_tree : after (.vred 1 6 4 5 0) tied (fun t => t.me.rg 5 == 0x4B80_0002) = true := by decide +kernel
theorem test_vscan_order : after (.vscan 1 6 6 4 0 0) tied (fun t => t.me.lane 6 7 == 0x4B80_0000 && t.me.lane 6 5 == 0) = true := by decide +kernel

/-- The example of 08 R204: the sine of the FP32 value nearest π. -/
theorem test_vsin_near_pi : ((fmt 6).trig false 0 0x4049_0FDB).1 = 0xB3BB_BD2E := by decide +kernel

theorem test_step_runs_the_word : stepped 0x0253_1C05 (house (task [(6, 7), (7, 2)])) (fun t => t.me.rg 5 == 3 && t.me.pc == 0x10) = true := by decide +kernel
theorem test_step_faults_on_no_instruction : stepped 0xFE00_0000 (house (task [])) (fun t => t.me.pc == 8 && !t.me.status.going) = true := by decide +kernel
theorem test_store_then_load : after (.st 1 2 3 0 0 1) (two 0x0123_4567_89AB_CDEF (at' 0 0x100))
    (fun t => t.load (localAddr 0 0x108) 8 == 0x0123_4567_89AB_CDEF) = true ∧
    after (.ldI 3 2 1 0 0 4) (holding (task [(2, at' 0 0x100)]) [(localAddr 0 0x108, 0x0123_4567_89AB_CDEF)])
      (fun t => t.me.rg 3 == 0xFFFF_FFFF_FFFF_CDEF) = true := by decide +kernel
theorem test_misaligned_access_faults : after (.ldN 3 2 3 0 0 0) (two 0 (at' 0 0x104)) (fun t => !t.me.status.going && t.me.rg 3 == 0) = true := by decide +kernel

/-! Every statement with hypotheses: states and operands that meet them. -/

/-! Statements: for each, states and operands that meet its hypotheses, clause by clause. -/

theorem meets_BitFieldResults :
    (0 : BitVec 6).toNat + (63 : BitVec 6).toNat + 1 ≤ 64 ∧ (63 : BitVec 6).toNat + (0 : BitVec 6).toNat + 1 ≤ 64 := by
  decide

theorem meets_ConditionsAndSkips :
    (13 : BitVec 4).toNat < 14 ∧ (house (task [(1, 5)])).src.place = .block 0 (headerOf 1) := by
  decide

theorem meets_ConditionsAndSkips_both_ways :
    Holds 0 5 5 0 ∧ ¬ Holds 2 5 5 0 ∧ Holds 13 5 63 0 ∧ ¬ Holds 12 5 63 0 := by
  refine ⟨rfl, ?_, rfl, ?_⟩ <;> simp [Holds]

theorem meets_EndRetiresTheTask_privilege :
    bitOf (house { task [] with st := 1 }).src.st.toNat 0 = true ∧ (house { task [] with st := 1 }).HandsOver := by
  refine ⟨?_, ?_⟩ <;> first | decide | exact And.intro (by decide) (by decide)

theorem meets_EndRetiresTheTask_privilege_launch0 :
    let s := house { task [] with gid := 0, st := 1 }
    bitOf s.src.st.toNat 0 = true ∧ s.me.lnum = 0 ∧ s.me.lateFault = none := by
  decide

theorem meets_EndRetiresTheTask :
    bitOf (house (task [])).src.st.toNat 0 = false ∧ (house (task [])).Quiet ∧
    ({ house (task []) with launches := [(1, { live := 1 })] } : State).launch? (house (task [])).me.lnum = some { live := 1 } ∧
    isPorch (house (task [])).myCore = false := by
  refine ⟨?_, ?_, ?_, ?_⟩ <;> first | decide | exact And.intro (by decide) (by decide)

theorem meets_EndRetiresTheTask_porch :
    isPorch ({ State.reset with ctxs := [(16 * 6144, task [])], cur := 16 * 6144 } : State).myCore = true ∧
    ({ State.reset with ctxs := [(16 * 6144, task [])], cur := 16 * 6144 } : State).Quiet := by
  refine ⟨?_, ?_⟩ <;> first | decide | exact And.intro (by decide) (by decide)

theorem meets_WorkIsStarted_spawn :
    (house { task [] with gid := 0 }).src.lnum = 0 ∧ (house { task [] with gid := 0 }).me.lateFault = none ∧ (house (task [])).src.lnum ≠ 0 ∧
    (house (task [])).Quiet ∧ (({ live := 1 } : Launch).serialsLeft ((house (task [])).myHall / 4)) = true ∧
    (({ live := 1, spawnBlk := [(0, (0x8000_0000_0000, 0x8000_0000_0100))] } : Launch).takeSerial 0).isSome = true := by
  refine ⟨?_, ?_, ?_, ?_, ?_, ?_⟩ <;> first | decide | exact And.intro (by decide) (by decide)

theorem meets_WorkIsStarted_launch :
    (house (task [(1, 32), (2, 256)])).src.given = none ∧ 31 < ((house (task [(1, 32), (2, 256)])).rg 1).toNat ∧
    255 < ((house (task [(1, 32), (2, 256)])).rg 2).toNat ∧ (house (task [(1, 32), (2, 256)])).HandsOver ∧
    (house (task [(1, 31), (2, 255)])).src.covers (launchAddr 31 255) 8 = true ∧ (house (task [(1, 31), (2, 255)])).hallOpen 31 = true ∧
    (house (task [(1, 31), (2, 255)])).isFull (launchAddr 31 255) = false ∧ (house (task [(1, 31), (2, 255)])).takers (launchAddr 31 255) = [] ∧
    (house (task [(1, 31), (2, 255)])).me.status.going = true := by
  refine ⟨?_, ?_, ?_, ?_, ?_, ?_, ?_, ?_, ?_⟩ <;> first | decide | exact And.intro (by decide) (by decide)

/-- A graph of one node without predecessors: header at 0x1000, nodes at 0x2000, record at 0x1800. -/
def graphHouse : State :=
  holding (task [(1, 0x1000), (2, 7)]) [(localAddr 0 0x1000, 0x0100_0000_0000_0001), (localAddr 0 0x1008, localAddr 0 0x2000),
    (localAddr 0 0x1010, localAddr 0 0x3000), (localAddr 0 0x2000, localAddr 0 0x1800)]

theorem meets_WorkIsStarted_greplay :
    graphHouse.resolve (graphHouse.rg 1) 0 128 64 rR .scalarLoad = .ok (localAddr 0 0x1000) ∧
    unitOf (localAddr 0 0x1000) = .localStore 0 (localAddr 0 0x1000 % 0x4_0000) ∧ graphHouse.Quiet ∧ graphHouse.isFull (localAddr 0 0x1040) = false ∧
    ghdrOk (graphHouse.loadW (localAddr 0 0x1000)) = true ∧
    ({ graphHouse with graphs := [localAddr 0 0x1000] } : State).readNodes 0 (graphHouse.loadW (localAddr 0 0x1008)).toNat
      (graphHouse.loadW (localAddr 0 0x1010)).toNat 0 (fld (graphHouse.loadW (localAddr 0 0x1000)) 15 0) = some [(localAddr 0 0x1800, 0, [])] ∧
    graphOk 1 [(0, [])] = true := by
  refine ⟨?_, ?_, ?_, ?_, ?_, ?_, ?_⟩ <;> first | decide | exact And.intro (by decide) (by decide) | rfl

theorem meets_ResolutionChecksInOrder_rights :
    segHas ((house (task [])).src.seg ((at' 6 0).extractLsb' 61 3).toNat) rR = false ∧
    segClean ((house (task [])).src.seg ((at' 0 0).extractLsb' 61 3).toNat) = true ∧ segHas ((house (task [])).src.seg ((at' 0 0).extractLsb' 61 3).toNat) rR = true := by
  decide

theorem meets_ResolutionChecksInOrder_limit :
    0x3_FFF8 + 8 ≤ segLimit ((house (task [])).src.seg 0) ∧ ¬ 0x3_FFF8 + 1 + 8 ≤ segLimit ((house (task [])).src.seg 0) ∧ 0x3_FFF8 % 8 = 0 ∧ 0x3_FFF4 % 8 ≠ 0 := by
  decide

theorem meets_ResolutionChecksInOrder_space :
    2 ^ 58 ≤ segBase (mkSeg (2 ^ 58 - 1) 64 0xFF) + 1 ∧ ¬ 2 ^ 58 ≤ segBase (mkSeg (2 ^ 58 - 1) 64 0xFF) ∧ segClean (mkSeg (2 ^ 58 - 1) 64 0xFF) = true := by
  decide

theorem meets_ResolutionChecksInOrder_unit :
    (house (task [])).unitFault 0 .scalarLoad = some 1 ∧ (house (task [])).unitFault (launchAddr 0 0) .scalarLoad = some 2 ∧
    ({ house (task []) with wings := [(0, { up := false })] } : State).unitFault (localAddr 0 0) .scalarLoad = some 3 ∧
    (house (task [])).unitFault (localAddr 0 0x3_FFF8) .scalarLoad = none := by
  decide

theorem meets_PreparedAccesses :
    (house (task [])).reach ((house (task [])).portOf (house (task [])).myCore (localAddr 0 0x100)) (localAddr 0 0x100) rR =
      (house (task []), .ok (.house (localAddr 0 0x100))) ∧
    (house (task [])).physOffline (.house (localAddr 0 0x100)) = false ∧ (house (task [])).badWord (localAddr 0 0x100) = false ∧
    (house (task [])).conflicts (localAddr 0 0x100) = false ∧ unitOf (localAddr 0 0x100) ≠ .paged := by
  refine ⟨?_, ?_, ?_, ?_, ?_⟩ <;> first | decide | exact reach_of (by decide +kernel) (by decide +kernel) | rfl

theorem meets_PreparedAccesses_stops :
    ({ house (task []) with wings := [(0, { up := false })] } : State).physOffline (.house (localAddr 0 0x100)) = true ∧ (house (task [])).HandsOver ∧
    ({ house (task []) with cores := [(0, { badWords := [32] })] } : State).badWord (localAddr 0 0x100) = true ∧
    (house { task [] with relaxed := [pending 0] }).conflicts (localAddr 0 0x104) = true := by
  refine ⟨?_, ?_, ?_, ?_⟩ <;> first | decide | exact And.intro (by decide) (by decide)

theorem meets_PreparedAccesses_translation :
    (paged (task []) 2).reach ((paged (task []) 2).portOf (paged (task []) 2).myCore 0x100_0000_0000) 0x100_0000_0000 rR = (paged (task []) 2, .ok (.host 0)) ∧
    (house (task [])).reach 0 0x100_0000_0000 rR = (house (task []), .error .invalid) := by
  refine ⟨?_, ?_⟩ <;> first | decide | exact reach_of (by decide +kernel) (by decide +kernel) | rfl

theorem meets_PlainMemoryResults :
    (house (task [(1, 0x3_FC00)])).Reaches ((house (task [(1, 0x3_FC00)])).rg 1) 1016 8 rR .scalarLoad .load (forLoad (house (task [(1, 0x3_FC00)])) (localAddr 0 0x3_FFF8))
      (localAddr 0 0x3_FFF8) (.house (localAddr 0 0x3_FFF8)) ∧ (house (task [(1, 0x3_FC00)])).me.status.going = true ∧
      (house (task [(1, 0x3_FC00)])).tileHits 0 (localAddr 0 0x3_FFF8) 8 false = false := by
  refine ⟨?_, ?_, ?_⟩ <;> first | decide | exact reaches_of (by decide +kernel) (by decide +kernel)

/-- Task 5 with a command in the tile queue whose words of memory are the 128 from 0x3_FC00 on of the store of core 0. -/
def tiledMem (i : Instr) : State :=
  { house (task [(1, 0x3_FC00)]) with
    rooms := [(0, { tileQ := [{ ctx := 0, gid := (task []).gid, lrec := 0, pc := 8, syl := 0, instr := i, rm := 0, span := localAddr 0 0x3_FC00, stride := 0 }] })] }

theorem meets_PlainMemoryResults_tile :
    (tiledMem (.tsclSt 0 1)).Reaches ((tiledMem (.tsclSt 0 1)).rg 1) 1016 8 rR .scalarLoad .load (forLoad (tiledMem (.tsclSt 0 1)) (localAddr 0 0x3_FFF8))
      (localAddr 0 0x3_FFF8) (.house (localAddr 0 0x3_FFF8)) ∧ (tiledMem (.tsclSt 0 1)).me.status.going = true ∧
      (tiledMem (.tsclSt 0 1)).tileHits 0 (localAddr 0 0x3_FFF8) 8 false = true ∧ (tiledMem (.tscl 0 1)).tileHits 0 (localAddr 0 0x3_FFF8) 8 true = true ∧
      (tiledMem (.tscl 0 1)).tileHits 0 (localAddr 0 0x3_FFF8) 8 false = false := by
  refine ⟨?_, ?_, ?_, ?_, ?_⟩ <;> first | decide | exact reaches_of (by decide +kernel) (by decide +kernel)

/-- A tree of two records and one slot in stack 0. -/
def tree : Tree :=
  { demote := false, g := 4, station := 0, home := 1, base := 3, seed := 0, npool := 0x100_0000_1000, ncap := 2, low := 0,
    ppool := 0x100_0000_2000, pcap := 1, psize := 128, cpool := 0, ccap := 0 }

/-- Something other than its station has written into the slot of a node of a tree, which lies at 0x100 of the store of core 1. -/
def blurry : State :=
  { house (task [(1, at' 4 0x100)]) with
    trees := [(0, { tree with slots := [(1, [(localAddr 1 0x100, 8)])], spoilt := [1] })] }

theorem meets_PlainMemoryResults_blurred :
    blurry.Reaches (blurry.rg 1) 0 8 rR .scalarLoad .load (forLoad blurry (localAddr 1 0x100)) (localAddr 1 0x100) (.house (localAddr 1 0x100)) ∧
    blurry.blurred (localAddr 1 0x100) 8 = true ∧ (house (task [(1, 0x3_FC00)])).blurred (localAddr 0 0x3_FFF8) 8 = false := by
  refine ⟨?_, ?_, ?_⟩ <;> first | decide | exact reaches_of (by decide +kernel) (by decide +kernel)

theorem meets_PlainMemoryResults_store :
    (house (task [(1, at' 4 0x80)])).Reaches ((house (task [(1, at' 4 0x80)])).rg 1) (-128) 1 rW .scalarStore .store (forStore (house (task [(1, at' 4 0x80)])) (localAddr 1 0))
      (localAddr 1 0) (.house (localAddr 1 0)) ∧ (house (task [])).PassesScope 0 ∧ (house (task [])).PassesScope 15 ∧
      (house (task [(1, at' 4 0x80)])).tileHits 0 (localAddr 1 0) 1 true = false := by
  refine ⟨?_, ?_, ?_, ?_⟩ <;> first | decide | exact reaches_of (by decide +kernel) (by decide +kernel) | exact Or.inl rfl | exact Or.inr ⟨by unfold State.Near; decide, rfl⟩

theorem meets_RelaxedAccesses :
    (house (task [(1, at' 4 0x100)])).resolve ((house (task [(1, at' 4 0x100)])).rg 1) 0 8 8 rR .scalarLoad = .ok (localAddr 1 0x100) ∧
    (house (task [(1, at' 4 0x100)])).resolve ((house (task [(1, at' 4 0x100)])).rg 1) 0 8 8 rW .scalarStore = .ok (localAddr 1 0x100) ∧
    4 ≤ (house { task [] with relaxed := [pending 1, pending 2, pending 3, pending 4] }).me.relaxed.length ∧
    (house { task [] with relaxed := [pending 1, pending 2, pending 3] }).me.relaxed.length < 4 ∧ (house (task [])).touches (at' 4 0x100) = false := by
  refine ⟨?_, ?_, ?_, ?_, ?_⟩ <;> first | decide | rfl

/-- An access is sent at once, or is held back behind one to the same word that has not left; the context's own store, or a word in error there. -/
theorem meets_RelaxedAccesses_order :
    (house (task [])).holdsBack 0 (pending 1) = false ∧
    (house { task [] with relaxed := [{ pending 1 with id := 3, unsent := true }] }).holdsBack 0 (pending 1) = true ∧
    (house (task [])).own (localAddr 0 0x100) = true ∧ (house (task [])).badWord (localAddr 0 0x100) = false ∧
    ({ house (task []) with cores := [(0, { badWords := [32] })] } : State).badWord (localAddr 0 0x100) = true ∧ (house (task [])).own (localAddr 1 0x100) = false := by
  decide

theorem meets_AtomicsAndReductions :
    (house (task [(1, 0x100)])).Reaches ((house (task [(1, 0x100)])).rg 1) 0 8 rA .atomic .atomic (forAtomic (house (task [(1, 0x100)])) (localAddr 0 0x100)) (localAddr 0 0x100)
      (.house (localAddr 0 0x100)) ∧ (house (task [])).PassesScope 1 ∧ (house (task [])).me.status.going = true ∧ (9 : BitVec 5).toNat ≤ 9 ∧
    (Phys.house (localAddr 0 0x100)).performs 9 false = true := by
  refine ⟨?_, ?_, ?_, ?_, ?_⟩ <;> first | decide | exact reaches_of (by decide +kernel) (by decide +kernel) | exact Or.inl rfl | exact Or.inr ⟨by unfold State.Near; decide, rfl⟩

theorem meets_AtomicsAndReductions_tier :
    (paged (task [(1, at' 5 0)]) 2).Reaches ((paged (task [(1, at' 5 0)]) 2).rg 1) 0 8 rA .atomic .atomic (forAtomic (paged (task [(1, at' 5 0)]) 2) 0x100_0000_0000) 0x100_0000_0000 (.host 0) ∧
    (Phys.host 0).performs 9 false = false ∧ (paged (task [(1, at' 5 0)]) 2).HandsOver := by
  refine ⟨?_, ?_, ?_⟩ <;> first | decide | exact reaches_of (by decide +kernel) (by decide +kernel) | exact And.intro (by decide) (by decide)

theorem meets_AtomicsAndReductions_blurred :
    blurry.Reaches (blurry.rg 1) 0 8 rA .atomic .atomic (forAtomic blurry (localAddr 1 0x100)) (localAddr 1 0x100) (.house (localAddr 1 0x100)) ∧
    (house (task [])).blurred (localAddr 0 0x100) 8 = false ∧ (house (task [])).alone = true ∧
    (house { task [] with bits := ((encode (.vld 0 1 1 0 0)).getD 0).setWidth 64 <<< 32 }).alone = false ∧
    (forAtomic blurry (localAddr 1 0x100)).goesTo 0 (localAddr 1 0x100) = none ∧ (house (task [])).goesTo 0 (localAddr 8 0x100) ≠ none := by
  refine ⟨?_, ?_, ?_, ?_, ?_, ?_⟩ <;> first | decide | decide +kernel | exact reaches_of (by decide +kernel) (by decide +kernel)

theorem meets_AtomicsAndReductions_red :
    (house (task [(1, 0x100)])).resolve ((house (task [(1, 0x100)])).rg 1) 0 4 4 rA .atomic = .ok (localAddr 0 0x100) ∧ (house (task [])).me.relaxed.length < 4 := by
  refine ⟨?_, ?_⟩ <;> first | decide | rfl

theorem meets_FencesWaitThenComplete :
    (house { task [] with relaxed := [pending 1] }).me.relaxed.any ((house { task [] with relaxed := [pending 1] }).within 0 15) = true ∧
    (house { task [] with relaxed := [pending 1] }).me.relaxed.any ((house { task [] with relaxed := [pending 1] }).within 0 0) = false ∧
    (house { task [] with rlog := [{ h := 0, operand := 0, op := 0, sz := 0, reason := 3, pc := 8 }] }).src.rlog ≠ [] ∧ (house (task [])).src.rlog = [] ∧
    (house (task [])).HandsOver := by
  refine ⟨?_, ?_, ?_, ?_, ?_⟩ <;> first | decide | exact And.intro (by decide) (by decide)

/-- A copy command of task 5 in slot 0 of core 0. -/
def copy : CopyCmd :=
  { ctx := 0, gid := 0x0001_0000_0000_0005, lrec := 0, pc := 8, syl := 3, form := 0, sv := false, dv := false, lenWord := 16, stride := 1,
    src := localAddr 0 0x100, dst := localAddr 0 0x200 }

theorem meets_FencesWaitThenComplete_queues :
    ({ house (task []) with rooms := [(0, { copyQ := [(3, [copy])] })] } : State).queued 511 = true ∧
    ({ house (task []) with rooms := [(0, { copyQ := [(3, [copy])] })] } : State).queued 503 = false ∧ (house (task [])).failure 511 = none := by
  decide

/-- A tile command and a copy command of the task have failed. -/
theorem meets_FencesWaitThenComplete_failed :
    let s : State := { house (task []) with
      rooms := [(0, { fails := [{ gid := 0x0001_0000_0000_0005, lrec := 0, queue := 8, reason := 1, pc := 8, failed := 8, num := 1 },
                                { gid := 0x0001_0000_0000_0005, lrec := 0, queue := 3, reason := 1, pc := 8, failed := 8 }] })] }
    s.failure 511 = some (0, { gid := 0x0001_0000_0000_0005, lrec := 0, queue := 8, reason := 1, pc := 8, failed := 8, num := 1 }) ∧
    s.failure 255 = some (0, { gid := 0x0001_0000_0000_0005, lrec := 0, queue := 3, reason := 1, pc := 8, failed := 8 }) ∧
    s.queued 511 = false ∧ s.HandsOver ∧ 512 ≤ (512 : Word).toNat := by
  refine ⟨?_, ?_, ?_, ?_, ?_⟩ <;> first | decide | exact And.intro (by decide) (by decide)

theorem meets_FullEmptyInstructions :
    (house (task [(1, 0x100)])).src.given = none ∧
    (house (task [(1, 0x100)])).Reaches ((house (task [(1, 0x100)])).rg 1) (-32 * 8) 8 rF .sync .atomic (forAtomic (house (task [(1, 0x100)])) (localAddr 0 0)) (localAddr 0 0)
      (.house (localAddr 0 0)) ∧ feParty (at' 0 0x100) (disp (0xE0 : BitVec 8) 8) .take (house (task [])) (localAddr 0 0) = none ∧
    (house (task [])).isFull (localAddr 0 0) = false ∧ ({ house (task []) with full := [(localAddr 0 0, true)] } : State).isFull (localAddr 0 0) = true ∧
    (house (task [])).putters (localAddr 0 0) = [] ∧ (house (task [])).takers (localAddr 0 0) = [] ∧
    (house (task [])).listCount (localAddr 0 0) < (listOf (localAddr 0 0)).2 := by
  refine ⟨?_, ?_, ?_, ?_, ?_, ?_, ?_, ?_⟩ <;> first | decide | exact reaches_of (by decide +kernel) (by decide +kernel)

theorem meets_FullEmptyInstructions_putter :
    ({ house (task []) with parked := [{ word := localAddr 0 0, ctx := 1, kind := .putter 7 }] } : State).putters (localAddr 0 0) =
      [{ word := localAddr 0 0, ctx := 1, kind := .putter 7 }] ∧
    feParty (at' 1 0) (disp (0 : BitVec 8) 8) .put (house (task [])) (launchAddr 0 0) = none ∧ (house (task [])).hallOpen 0 = true ∧
    feParty (at' 0 0) (disp (0 : BitVec 8) 8) .read (house (task [])) (localAddr 0 0) = none ∧
    feParty (at' 0 0) (disp (0 : BitVec 8) 8) .set (house (task [])) (localAddr 0 0) = none := by
  decide

theorem meets_FullEmptyInstructions_given :
    (house { task [] with given := some 7 }).src.given = some 7 := by
  decide

theorem meets_FutureResults :
    (house (task [(1, 31)])).PassesScope 0 ∧ (house (task [])).me.status.going = true ∧ ((house (task [(1, 31)])).rg 1).toNat ≤ 31 ∧
    (house (task [])).src.covers (futureAddr 31 0) 16 = true ∧ (house (task [])).hallUp 31 = true ∧
    fld ((house (task [])).futWord (futureAddr 31 65535)) 13 13 = 0 := by
  refine ⟨?_, ?_, ?_, ?_, ?_, ?_⟩ <;> first | decide | exact Or.inl rfl | exact Or.inr ⟨by unfold State.Near; decide, rfl⟩

/-- Entry 2 of hall 0 is allocated at generation 1, empty or full with 7. -/
def futureHouse (full : Nat) : State :=
  holding (task [(1, 0x1001)]) [(futureAddr 0 2, 7 * full), (futureAddr 0 2 + 8, 0x2001 + 0x4000 * full)]

theorem meets_FutureResults_entry :
    handleAddr 0x1001 = futureAddr 0 2 ∧ ((futureHouse 0).rg 1).toNat < 2 ^ 32 ∧ (futureHouse 0).src.covers (handleAddr 0x1001) 16 = true ∧
    (futureHouse 0).hallUp (bits 0x1001 31 27) = true ∧ (futureHouse 0).src.given = none ∧ (futureHouse 0).futLive 0x1001 = true ∧
    fld ((futureHouse 0).futWord (handleAddr 0x1001)) 14 14 = 0 ∧ fld ((futureHouse 1).futWord (handleAddr 0x1001)) 14 14 = 1 ∧
    (futureHouse 0).parkedAt (handleAddr 0x1001) (· == .future) = [] ∧ (futureHouse 0).futLive 0x1002 = false ∧ (futureHouse 0).HandsOver := by
  refine ⟨?_, ?_, ?_, ?_, ?_, ?_, ?_, ?_, ?_, ?_, ?_⟩ <;> first | decide | exact And.intro (by decide) (by decide)

/-- A barrier word of two parties at phase 65535, with `n` arrivals. -/
def barrierHouse (n q : Nat) : State := holding (task [(1, 0x100), (2, word q)]) [(localAddr 0 0x100, n * 2 ^ 44 + 2 * 2 ^ 24 + 65535 * 2 ^ 8 + 1)]

theorem meets_BarriersAndLandingWords :
    (barrierHouse 1 65535).Reaches ((barrierHouse 1 65535).rg 1) 0 8 rF .sync .atomic (forAtomic (barrierHouse 1 65535) (localAddr 0 0x100)) (localAddr 0 0x100) (.house (localAddr 0 0x100)) ∧
    localOnly (barrierHouse 1 65535) (localAddr 0 0x100) = none ∧ (barrierHouse 1 65535).PassesScope 0 ∧ fld ((barrierHouse 1 65535).rg 2) 63 36 = 0 ∧
    fld ((barrierHouse 1 65535).rg 2) 19 0 ≠ 0 ∧ (barrierHouse 1 65535).parkedAt (localAddr 0 0x100) (fun _ => true) = [] ∧
    ((barrierHouse 1 65535).rg 2).toNat < 2 ^ 16 ∧ fld ((barrierHouse 1 65535).loadW (localAddr 0 0x100)) 7 0 = 1 ∧
    fld ((barrierHouse 1 65535).loadW (localAddr 0 0x100)) 23 8 = ((barrierHouse 1 65535).rg 2).toNat ∧
    (fld ((barrierHouse 1 65535).loadW (localAddr 0 0x100)) 63 44 + 1) % 2 ^ 20 = fld ((barrierHouse 1 65535).loadW (localAddr 0 0x100)) 43 24 ∧
    (fld ((barrierHouse 0 65535).loadW (localAddr 0 0x100)) 63 44 + 1) % 2 ^ 20 ≠ fld ((barrierHouse 0 65535).loadW (localAddr 0 0x100)) 43 24 := by
  refine ⟨?_, ?_, ?_, ?_, ?_, ?_, ?_, ?_, ?_, ?_, ?_⟩ <;> first | decide | exact reaches_of (by decide +kernel) (by decide +kernel) | exact Or.inl rfl | exact Or.inr ⟨by unfold State.Near; decide, rfl⟩

theorem meets_BarriersAndLandingWords_waits :
    fld ((barrierHouse 0 65534).loadW (localAddr 0 0x100)) 23 8 ≠ ((barrierHouse 0 65534).rg 2).toNat ∧
    (barrierHouse 0 65535).listCount (localAddr 0 0x100) < (listOf (localAddr 0 0x100)).2 ∧ fld ((barrierHouse 0 1).rg 2) 63 24 = 0 ∧
    fld ((barrierHouse 0 1).rg 2) 63 8 = 0 ∧ fld ((barrierHouse 0 1).loadW (localAddr 0 0x100)) 7 0 = ((barrierHouse 0 1).rg 2).toNat ∧
    fld ((barrierHouse 0 1).loadW (localAddr 0 0x100)) 7 0 ≠ ((barrierHouse 0 255).rg 2).toNat := by
  decide

/-- Room 0 with a copy command in queue 3, which moves two words from 0x100 to 0x200. -/
def copying : State := { house (task []) with rooms := [(0, { copyQ := [(3, [copy])] })] }

theorem meets_CopyCommands :
    isPorch (house (task [])).myCore = false ∧ lenOk 8 = true ∧ lenOk 16777208 = true ∧ strideOk 0x0000_1000_0010_0002 16 = true ∧
    (house (task [(1, 0x100)])).copySpan ((house (task [(1, 0x100)])).rg 1) 32 rR = .ok (localAddr 0 0x100) ∧
    (house (task [(3, 0x200)])).copySpan ((house (task [(3, 0x200)])).rg 3) 32 rW = .ok (localAddr 0 0x200) ∧ oneStore (localAddr 0 0x200) 32 = true ∧
    oneStore (localAddr 0 0x3_FFF8) 8 = true ∧ (tget [] (copying.room 0).copyQ 3).length < 16 ∧ 16 ≤ (List.replicate 16 copy).length := by
  refine ⟨?_, ?_, ?_, ?_, ?_, ?_, ?_, ?_, ?_, ?_⟩ <;> first | decide | rfl

theorem meets_CopyCommands_list_span :
    (house (task [(3, 0x200)])).listBytes (localAddr 0 0x200) = 16 ∧
    (holding (task [(3, 0x200)]) [(localAddr 0 0x200, 64)]).listBytes (localAddr 0 0x200) = 528 ∧
    (holding (task [(3, 0x200)]) [(localAddr 0 0x200, 64)]).copySpan ((house (task [(3, 0x200)])).rg 3) 528 rR = .ok (localAddr 0 0x200) ∧
    (holding (task [(3, 0x200)]) [(localAddr 0 0x200, 64)]).copySpan ((house (task [(3, 0x200)])).rg 3) 528 rW = .ok (localAddr 0 0x200) := by
  refine ⟨?_, ?_, ?_, ?_⟩ <;> first | decide +kernel | rfl

theorem meets_CopyCommands_pending :
    copying.pendingPc copy.ctx copy.pc = false ∧ ({ copying with before := [(0, { ctx := task [] })] } : State).pendingPc copy.ctx copy.pc = true ∧
    copying.blurred (localAddr 0 0x100) 8 = false ∧ copying.blurred (localAddr 0 0x108) 8 = false := by
  decide

theorem meets_CopyCommands_list :
    (house (task [(1, 0x100), (3, 0x200)])).copySpan ((house (task [(1, 0x100), (3, 0x200)])).rg 1) 8 rR = .ok (localAddr 0 0x100) ∧
    (house (task [(1, 0x100), (3, 0x200)])).copySpan ((house (task [(1, 0x100), (3, 0x200)])).rg 3) 16 rR = .ok (localAddr 0 0x200) ∧
    (house (task [(1, 0x100), (3, 0x200)])).copySpan ((house (task [(1, 0x100), (3, 0x200)])).rg 3) 16 rW = .ok (localAddr 0 0x200) := by
  refine ⟨?_, ?_, ?_⟩ <;> first | decide | rfl

theorem meets_CopyCommands_chunk :
    tget [] (copying.room 0).copyQ 3 = [copy] ∧ tget [] (copying.room 0).copyQ 2 = [] ∧ (copying.room 0).stopped = false ∧ copy.parked = none ∧ copy.form < 2 ∧
    copy.bad = false ∧ copy.lands = false ∧ copying.attic.holding = false ∧ copying.bankTaken 2 copy.touched = false ∧
    ({ copying with cores := [(0, { busy := 2 ^ 32 - 1 })] } : State).bankTaken 2 copy.touched = true := by
  decide +kernel

theorem meets_CopyCommands_places :
    ∃ u ps, copying.places 0 rR (copy.words.map copy.from) = .ok u ps ∧
      decide (ps = [Phys.house (localAddr 0 0x100), Phys.house (localAddr 0 0x108)] ∧ copying.sourceKeys 0 copy = [(localAddr 0 0x100, 8), (localAddr 0 0x108, 8)]) = true := by
  exact house_ex _ (by decide +kernel)

theorem meets_CopyCommands_destinations :
    ∃ u ps, copying.places 0 rW (copy.words.map copy.to) = .ok u ps ∧ decide (ps = [Phys.house (localAddr 0 0x200), Phys.house (localAddr 0 0x208)]) = true := by
  exact house_ex _ (by decide +kernel)

theorem meets_MarkInstructions :
    (house (task [(1, at' 2 0x1F_FFFE)])).resolve ((house (task [(1, at' 2 0x1F_FFFE)])).rg 1) 0 2 2 rK .mark = .ok (markAddr 0 262143 + 6) ∧
    (0xFFFF : Nat) < 2 ^ 16 ∧ 2 ^ 16 ≤ (0x1_0000 : Nat) ∧ (house (task [])).me.relaxed.length < 4 ∧ (house (task [])).HandsOver ∧
    (house (task [])).conflicts (markAddr 0 262143 + 6) = false ∧ (house (task [])).me.status.going = true := by
  refine ⟨?_, ?_, ?_, ?_, ?_, ?_, ?_⟩ <;> first | decide | exact And.intro (by decide) (by decide) | rfl

theorem meets_MarkInstructions_fade :
    ((house (task [])).hall 0).pendFade.find? (·.1 == 262143) = none ∧
    (({ house (task []) with halls := [(0, { pendFade := [(262143, 256)] })] } : State).hall 0).pendFade.find? (·.1 == 262143) = some (262143, 256) := by
  decide

theorem meets_MarkInstructions_sense :
    ∃ hs, (house (task [(1, at' 2 0), (2, 0x0706_0504_0302_0100)])).senseAddrs (at' 2 0) 0x0706_0504_0302_0100 8 = .ok hs ∧
      (hs.all (fun h => (markOf h).1 == (markOf (hs.headD 0)).1 && !(house (task [])).conflicts h) && hs.length == 8) = true := by
  exact except_ex _ (by decide +kernel)

theorem meets_EbbsAndRegions :
    (house (task [])).src.given = none ∧ ((house (task [(1, 0), (2, 1)])).rg 1).toNat ≤ (house (task [])).now / 2 ^ (house (task [])).clock.ebbE ∧
    (house (task [])).now / 2 ^ (house (task [])).clock.ebbE < ((house (task [(1, 0), (2, 1)])).rg 2).toNat ∧ (house { task [] with given := some 3 }).src.given = some 3 := by
  decide

theorem meets_EbbsAndRegions_mfield :
    (house (task [])).src.lnum ≠ 0 ∧ (house (task [])).HandsOver ∧ (house { task [] with gid := 0 }).src.lnum = 0 ∧ (house { task [] with gid := 0 }).me.lateFault = none ∧
    fld (0x3F1F : Word) 7 5 = 0 ∧ fld (0x3F1F : Word) 63 14 = 0 ∧ fld (0x3F1F : Word) 13 8 ≠ 0 ∧ (house (task [])).hallUp (fld (0x3F1F : Word) 4 0) = true ∧
    regOk ((house (task [])).hall 31).nextRegions 63 0 30 = true ∧ regOk ((house (task [])).hall 31).nextRegions 63 1 30 = false ∧ (house (task [])).me.status.going = true := by
  refine ⟨?_, ?_, ?_, ?_, ?_, ?_, ?_, ?_, ?_, ?_, ?_⟩ <;> first | decide | exact And.intro (by decide) (by decide)

theorem meets_EbbsAndRegions_reserved :
    fld (0x20 : Word) 7 5 ≠ 0 ∧ fld (0x4000 : Word) 63 14 ≠ 0 ∧ fld (0x001F : Word) 13 8 = 0 ∧ (house { task [] with gid := 0 }).me.lnum = 0 := by
  decide

theorem meets_DeltaOperations_hash :
    fld ((house (task [(1, 0xFFFF_FFFF)])).rg 1) 63 32 = 0 ∧ ((house (task [(2, 0x1FFF_FFFF_FFFF_FFFE)])).rg 2).toNat < 2 ^ 61 - 1 ∧
    fld ((house (task [(1, 0x1_0000_0000)])).rg 1) 63 32 ≠ 0 ∧ 2 ^ 61 - 1 ≤ ((house (task [(2, 0x1FFF_FFFF_FFFF_FFFF)])).rg 2).toNat ∧ (house (task [])).HandsOver := by
  refine ⟨?_, ?_, ?_, ?_, ?_⟩ <;> first | decide | exact And.intro (by decide) (by decide)

/-- A formatted tree of two records and one slot: descriptor at the beginning of paged space, which one leaf of 1 GiB maps in stack 0. -/
def treeHouse : State :=
  let d := 0x4000_0000
  let s := house (task [(1, at' 5 0), (2, at' 0 0x100)])
  let s := [(hbmKey 0 16, 0x1001), (hbmKey 0 0x1000, 0x000F_0000_4000_0002), (hbmKey 0 (d + 0x80), 0x8000_0000_0100_0000),
    (hbmKey 0 (d + 0x98), 0x0100_0001), (hbmKey 0 (d + 0xD8), 1), (hbmKey 0 (d + 0x1020), 0x0081_0000_0000_0000),
    (localAddr 0 0x108, 0x200), (localAddr 0 0x110, 0x300), (localAddr 0 0x118, 8)].foldl (fun s w => s.store w.1 8 w.2) s
  { s with trees := [(0x100_0000_0000, tree)] }

theorem meets_DeltaOperations :
    treeHouse.resolve (treeHouse.rg 1) 0 8 256 rD .delta = .ok 0x100_0000_0000 ∧ treeHouse.PassesScope 0 ∧ treeHouse.me.status.going = true ∧
    fld (treeHouse.rg 3) 63 48 = 0 ∧ treeHouse.resolve (treeHouse.rg 2) 0 32 8 rR .span = .ok (localAddr 0 0x100) ∧
    treeHouse.spanFault (localAddr 0 0x100) 32 .span = none := by
  refine ⟨?_, ?_, ?_, ?_, ?_, ?_⟩ <;> first | decide | exact Or.inl rfl | exact Or.inr ⟨by unfold State.Near; decide, rfl⟩ | rfl

theorem meets_DeltaOperations_look :
    ∃ x, lookTree 0x100_0000_0000 0 0 0 (treeHouse.toward 0x100_0000_0000 8 8) = .ok x ∧ decide (x.2.me = treeHouse.me ∧ x.2.cur = treeHouse.cur) = true := by
  exact except_ex _ (by decide +kernel)

theorem meets_DeltaOperations_put :
    ∃ x, putTree 0x100_0000_0000 (localAddr 0 0x100) (treeHouse.toward 0x100_0000_0000 8 8) = .ok x ∧ decide (x.1.2 = 0 ∧ x.2.me = treeHouse.me ∧ x.2.cur = treeHouse.cur) = true := by
  exact except_ex _ (by decide +kernel)

theorem meets_DeltaOperations_count :
    ∃ x, statTree 0x100_0000_0000 10 (treeHouse.toward 0x100_0000_0000 8 8) = .ok x ∧ decide (x.2.me = treeHouse.me ∧ x.2.cur = treeHouse.cur) = true := by
  exact except_ex _ (by decide +kernel)

theorem meets_DeltaOperations_touch :
    ∃ x, touchTree 0x100_0000_0000 0x100_0000_1001 (treeHouse.toward 0x100_0000_0000 8 8) = .ok x ∧ decide (x.2.me = treeHouse.me ∧ x.2.cur = treeHouse.cur) = true := by
  exact except_ex _ (by decide +kernel)

theorem meets_DeltaOperations_stale :
    (match relTree 0x100_0000_0000 0x80 (treeHouse.toward 0x100_0000_0000 8 8) with | .error e => decide (e = .delta 1 0x80) | .ok _ => false) = true := by
  decide +kernel

/-- A configuration with capacity 1, key 0 a signed cost, and the overflow policy given. -/
def costs (ovp : Nat) : Word := word (1 * 2 ^ 20 + ovp * 2 ^ 17 + 1)
/-- A tuple of cost `n`. -/
def cost (n : Nat) : FTuple := { k0 := BitVec.ofNat 32 n, k1 := 0, k2 := 0, k3 := 0, payload := 5 }
/-- Room 0 with front 0 of that configuration, holding cost 7. -/
def fronted (ovp : Nat) (g : Tab Word) : State :=
  { house (task g) with rooms := [(0, { fronts := [(0, { cfg := costs ovp, tuples := [cost 7] })] })] }

theorem meets_OffersKeepAFront :
    frontCap (costs 0) ≠ 0 ∧ offer (costs 0) false [] (cost 7) = some ([(cost 7, true)], false, 0, 0) ∧ frontSound (costs 0) [] = true ∧
    offer (costs 1) true [(cost 7, false)] (cost 3) = some ([(cost 3, true)], true, 0, 1) ∧ frontSound (costs 1) [cost 7] = true := by
  decide

theorem meets_FrontInstructions :
    isPorch (fronted 0 []).myCore = false ∧ (21 : BitVec 5).toNat < 22 ∧ cfgOk (costs 0) = true ∧ cfgOk 0 = false ∧ (fronted 0 []).HandsOver ∧
    (fronted 0 []).PassesScope 0 ∧ (fronted 0 []).me.status.going = true ∧ ((fronted 0 []).front 0).tuples.length < 128 ∧ ((fronted 0 []).front 0).lost = false ∧
    ((fronted 0 []).front 0).cfg ≠ 0 ∧ ((fronted 0 [(1, 63)]).rg 1).toNat ≤ 63 ∧ (fronted 0 []).me.frontQ = [] := by
  refine ⟨?_, ?_, ?_, ?_, ?_, ?_, ?_, ?_, ?_, ?_, ?_, ?_⟩ <;> first | decide | exact And.intro (by decide) (by decide) | exact Or.inl rfl | exact Or.inr ⟨by unfold State.Near; decide, rfl⟩

theorem meets_FrontInstructions_sent :
    (house { task [] with frontQ := [{ id := 9, front := 3, cfg := none }] }).me.frontQ = [{ id := 9, front := 3, cfg := none }] := by
  decide

theorem meets_FrontInstructions_pending :
    (house { task [] with frontQ := [{ id := 9, front := 3, cfg := none }] }).pendingId 0 9 = false ∧ (fronted 0 []).blurred (localAddr 0 0x1000) 8 = false := by
  decide

theorem meets_FrontInstructions_offers :
    offer (costs 0) false (((fronted 0 []).front 0).tuples.map fun t => (t, false)) (tupleOf ((fronted 0 [(1, 3)]).rg 1) 0 0) =
      some ([(tupleOf 3 0 0, true)], false, 0, 1) ∧
    offer (word (1 * 2 ^ 20 + 3 * 2 ^ 17 + 2 ^ 2 + 1)) false [(tupleOf 0x1_0000_0000 0 0, false)] (tupleOf 1 0 0) = none := by
  decide

theorem meets_FrontInstructions_image :
    (fronted 0 [(1, 0x3_F9F0)]).resolve ((fronted 0 [(1, 0x3_F9F0)]).rg 1) 0 1552 8 rW .scalarStore 8 = .ok (localAddr 0 0x3_F9F0) ∧
    (fronted 0 []).spanFault (localAddr 0 0x3_F9F0) 1552 .scalarStore = none ∧ (fronted 0 []).spanFault (localAddr 0 0x3_F9F0) 1552 .span = none ∧
    (fronted 0 [(1, 0x3_F9F0)]).resolve ((fronted 0 [(1, 0x3_F9F0)]).rg 1) 0 1552 8 rR .span 8 = .ok (localAddr 0 0x3_F9F0) := by
  refine ⟨?_, ?_, ?_, ?_⟩ <;> first | decide | rfl

theorem meets_FrontInstructions_saved :
    ∃ u ps, (fronted 0 []).readySpan rW .store (wordsAt (localAddr 0 0x1000) 5) = (u, some ps) ∧
      decide (ps = (wordsAt (localAddr 0 0x1000) 5).map Phys.house) = true := by
  exact span_ex _ (by decide +kernel)

/-- An image of one tuple of cost 3 at 0x1000. -/
def imaged : State :=
  [(localAddr 0 0x1000, 2 ^ 56 + (costs 0).toNat), (localAddr 0 0x1008, 1), (localAddr 0 0x1010, 3)].foldl (fun s w => s.store w.1 8 w.2)
    (fronted 0 [(1, 0x1000)])

theorem meets_FrontInstructions_loaded :
    ∃ u ps, imaged.readySpan rR .load (wordsAt (localAddr 0 0x1000) 2) = (u, some ps) ∧
      decide (ps = [Phys.house (localAddr 0 0x1000), Phys.house (localAddr 0 0x1008)] ∧ fld (imaged.loadW (localAddr 0 0x1000)) 63 56 = 1 ∧
        fld (imaged.loadW (localAddr 0 0x1000)) 55 27 = 0 ∧ fld (imaged.loadW (localAddr 0 0x1008)) 31 8 = 0 ∧
        cfgOk (word (fld (imaged.loadW (localAddr 0 0x1000)) 26 0)) = true ∧ fld (imaged.loadW (localAddr 0 0x1000)) 15 0 = fld (costs 0) 15 0) = true := by
  exact span_ex _ (by decide +kernel)

theorem meets_FrontInstructions_tuples :
    ∃ u ps, imaged.readySpan rR .load (wordsAt (localAddr 0 0x1010) 3) = (u, some ps) ∧
      decide (tuplesOf (ps.map fun p => imaged.loadW p.key) = some [tupleOf 3 0 0] ∧ frontSound (costs 0) [tupleOf 3 0 0] = true ∧
        (mergeFrom (costs 0) 0 [tupleOf 3 0 0] { held := [(cost 7, false)], ovf := false, passed := 0, removed := 0, changed := false }).2 = none) = true := by
  exact span_ex _ (by decide +kernel)

theorem meets_ControlRegisters :
    bitOf (house { task [] with tile := 2 ^ 31 }).src.tile (31 : BitVec 5).toNat = true ∧ bitOf (house (task [])).src.tile (16 : BitVec 5).toNat = false ∧
    (house (task [])).HandsOver ∧ 16 ≤ (16 : BitVec 5).toNat ∧ fld (0x8C : Word) 63 8 = 0 ∧ fld (0x8C : Word) 6 4 = 0 ∧ fld (0x10 : Word) 6 4 ≠ 0 ∧
    fpcOk 0 = true ∧ fpcOk 0x8000_0000_0000_0000 = false ∧ fld (3 : Word) 63 2 = 0 ∧ fld (4 : Word) 63 2 ≠ 0 ∧ tdOk 0 = true := by
  refine ⟨?_, ?_, ?_, ?_, ?_, ?_, ?_, ?_, ?_, ?_, ?_, ?_⟩ <;> first | decide | exact And.intro (by decide) (by decide)

/-- A descriptor that names format 6, which the format field does not allow, for a tile register that is claimed. -/
theorem meets_ControlRegisters_descriptor :
    bitOf (house { task [] with tile := 2 ^ 31 }).src.tile (31 : BitVec 5).toNat = true ∧ tdOk 6 = false := by
  decide

theorem meets_SegmentInstructions :
    (22 : BitVec 5).toNat < 23 ∧ 0x3_FFFF + 1 ≤ segLimit ((house (task [])).src.seg 0) ∧ segBase ((house (task [])).src.seg 0) + 0x3_FFFF < 2 ^ 58 ∧
    segLimit ((house (task [])).src.seg 0) < 0x4_0000 + 1 ∧ (house (task [])).HandsOver := by
  refine ⟨?_, ?_, ?_, ?_, ?_⟩ <;> first | decide | exact And.intro (by decide) (by decide)

theorem meets_SegmentInstructions_memory :
    (house (task [(1, 0x100)])).Reaches ((house (task [(1, 0x100)])).rg 1) 0 16 rR .span .load (forLoad (house (task [(1, 0x100)])) (localAddr 0 0x100)) (localAddr 0 0x100)
      (.house (localAddr 0 0x100)) ∧
    (house (task [(1, 0x100)])).Reaches ((house (task [(1, 0x100)])).rg 1) 0 16 rW .scalarStore .store (forStore (house (task [(1, 0x100)])) (localAddr 0 0x100)) (localAddr 0 0x100)
      (.house (localAddr 0 0x100)) ∧ (house (task [])).conflicts (localAddr 0 0x108) = false ∧ (house (task [])).badWord (localAddr 0 0x108) = false ∧
    segClean (mkSeg (localAddr 0 0x100) 0x100 0xEF) = true ∧ (house (task [])).src.narrows (mkSeg (localAddr 0 0x100) 0x100 0xEF) = true ∧
    segClean (BitVec.ofNat 128 (2 ^ 63)) = false ∧ bitOf (house { task [] with st := 1 }).src.st.toNat 0 = true := by
  refine ⟨?_, ?_, ?_, ?_, ?_, ?_, ?_, ?_⟩ <;> first | decide | exact reaches_of (by decide +kernel) (by decide +kernel)

/-- Core 0 of a room whose store has no lane left: 64 contexts hold 64 lanes each. -/
def crowded : State :=
  { State.reset with ctxs := (0, task [(1, 8)]) :: (List.range 64).map fun i => (i + 1, { task [] with lanes := 64 }) }

theorem meets_Claims :
    (house (task [])).src = (house (task [])).me ∧ isPorch (house (task [])).myCore = false ∧ (house (task [])).src.given = none ∧
    ((house (task [(1, 64)])).room 0).vwait = [] ∧ 64 * (64 - 0) ≤ (house (task [(1, 64)])).laneSpace 0 ∧ (8 : Nat) ≤ (house { task [] with lanes := 8 }).me.lanes ∧
    (house { task [] with given := some 8 }).src.given = some 8 ∧ (house (task [])).HandsOver ∧ (9 : Nat) ≠ 8 := by
  refine ⟨?_, ?_, ?_, ?_, ?_, ?_, ?_, ?_, ?_⟩ <;> first | decide +kernel | exact And.intro (by decide) (by decide)

/-- The premises hold of the state in which a step executes a bundle. -/
theorem meets_Claims_begun :
    ((laned8 0 []).begin 0).src.lanes = ((laned8 0 []).begin 0).me.lanes ∧ ((laned8 0 []).begin 0).src.tile = ((laned8 0 []).begin 0).me.tile ∧
    ((laned8 0 []).begin 0).src ≠ ((laned8 0 []).begin 0).me := by
  decide +kernel

theorem meets_Claims_waiting :
    ¬ (8 ≤ crowded.me.lanes ∨ ((crowded.room crowded.myRoom).vwait = [] ∧ 64 * (8 - crowded.me.lanes) ≤ crowded.laneSpace crowded.myRoom)) ∧
    crowded.src.given = none ∧ (crowded.rg 1).toNat = 8 := by
  decide +kernel

theorem meets_Claims_tiles :
    fld (0xF_FFFF_0000 : Word) 63 36 = 0 ∧ fld (0xF_FFFF_0000 : Word) 15 0 = 0 ∧ (0xF_FFFF_0000 : Word) ≠ 0 ∧ ((house (task [])).room 0).twait = [] ∧
    (house (task [])).tileBusy 0 0 &&& 0xF_FFFF_0000 = 0 ∧
    ({ State.reset with ctxs := [(0, task []), (1, { task [] with tile := 0x1_0000 })] } : State).tileBusy 0 0 &&& 0x1_0000 ≠ 0 ∧
    ¬ (fld (1 : Word) 63 36 = 0 ∧ fld (1 : Word) 15 0 = 0) := by
  decide +kernel

theorem meets_ClaimsAreNeeded :
    isPorch ({ State.reset with ctxs := [(16 * 6144, task [])], cur := 16 * 6144 } : State).myCore = true ∧
    ({ State.reset with ctxs := [(16 * 6144, task [])], cur := 16 * 6144 } : State).src.given = none ∧
    ({ State.reset with ctxs := [(16 * 6144, task [])], cur := 16 * 6144 } : State).HandsOver ∧ (house (task [])).src.lanes = 0 ∧ (house (task [])).HandsOver := by
  refine ⟨?_, ?_, ?_, ?_, ?_⟩ <;> first | decide | exact And.intro (by decide) (by decide)

/-- The hearth of core 0, with a task in the slots 1 and 15 that is there by its status. -/
def hearth (g : Tab Word) (st : CStatus) : State :=
  { house { task g with st := 1, gid := 0 } with ctxs := [(0, { task g with st := 1, gid := 0 }), (1, { task [] with status := st }), (15, { task [] with status := st })] }

theorem meets_HearthInstructions :
    bitOf (house (task [])).src.st.toNat 0 = false ∧ (house (task [])).HandsOver ∧ bitOf (hearth [(1, 15)] .ended).src.st.toNat 0 = true ∧
    ((hearth [(1, 15)] .ended).rg 1).toNat ≤ 15 ∧ ((hearth [(1, 15)] .ended).ctx 15).status = .ended ∧ ((hearth [(1, 14)] .ended).ctx 14).status = .vacant ∧
    ((hearth [(1, 1)] .ready).ctx 1).status = .ready ∧ (hearth [] .ready).me.lateFault = none ∧ tget 0 ((hearth [] .ready).core 0).owners 15 < 2 ^ 16 := by
  refine ⟨?_, ?_, ?_, ?_, ?_, ?_, ?_, ?_, ?_⟩ <;> first | decide | exact And.intro (by decide) (by decide)

/-- The start of task 5 of launch 1 at 0x1000, waiting in the start cell of context 15. -/
def start : Start :=
  { lnum := 1, gid := 0x0001_0000_0000_0005, entry := 0x1000, regs := [(2, 5)], segs := segs, hnd := 0, grp := 0, lrec := 0, queue := 0 }

theorem meets_HearthInstructions_start :
    slotOf (hearth [(1, 0x1000_0000_0000_03CE)] .ready).cur = 0 ∧ fld (0x1000_0000_0000_03CE : Word) 3 0 ≠ 0 ∧ fld (0x1000_0000_0000_03CE : Word) 59 58 = 0 ∧
    fld (0x1000_0000_0000_03CE : Word) 5 4 = 0 ∧ ((hearth [(1, 0x1000_0000_0000_03CE)] .ready).ctx 14).status = .vacant ∧
    fld (0x1000_0000_0000_03CE : Word) 63 60 = 1 ∧
    tfind ({ hearth [] .ready with cells := [(960, start)] } : State).cells (fld (0x1000_0000_0000_03CE : Word) 57 6 * 64) = some start ∧
    start.flight = none ∧ ((hearth [] .ready).core 0).closed = false ∧ tfind (hearth [] .ready).cells (64 * 14) = none ∧
    (hearth [] .ready).launch? start.lnum = none ∧ (hearth [] .ready).me.status.going = true ∧
    (({ kind := 0, halls := 2 ^ 32 - 1, which := 0, service := false, who := [start.gid] } : Preempt).affects 0 start.gid start.queue) = true := by
  decide

/-- The image of task 7 of launch 1 at offset `o` of the store of core 0. -/
def withImage (s : State) (o : Nat) : State :=
  let s := (s.store (localAddr 0 o + 0x160) 8 0x0001_0000_0000_0007).store (localAddr 0 o + 0x1F8) 8 0x0100_0000_0000_0000
  { s with images := [(localAddr 0 o, { gid := 0x0001_0000_0000_0007, lrec := 0, queue := 0, hall := 0 })] }

theorem meets_HearthInstructions_image_whole :
    ({ gid := 0x0001_0000_0000_0007, lrec := 0, queue := 0, hall := 0 } : ImgRec).words = [] ∧
    ({ gid := 0x0001_0000_0000_0007, lrec := 0, queue := 0, hall := 0 } : ImgRec).refused = none := by
  decide

theorem meets_HearthInstructions_image_kept :
    tget [] (withImage (hearth [] .ready) 0x8000).shadow (localAddr 0 0x8000) = [] ∧
    tfind (withImage (hearth [] .ready) 0x8000).images (localAddr 0 0x8000) = some { gid := 0x0001_0000_0000_0007, lrec := 0, queue := 0, hall := 0 } := by
  decide +kernel

theorem meets_HearthInstructions_image :
    ∃ u ws, ((withImage (hearth [] .ready) 0x8000).setCore 0 fun k => { k with promised := k.promised.erase 14 }).houseRead 0 (localAddr 0 0x8000) 64 = .ok u ws ∧
      decide (imageOk ws { gid := 0x0001_0000_0000_0007, lrec := 0, queue := 0, hall := 0 } = true ∧ imgWord ws 0x188 = 0 ∧
        fld (word (2 ^ 61 + localAddr 0 0x8000 + 14)) 63 60 = 2 ∧ fld (word (2 ^ 61 + localAddr 0 0x8000 + 14)) 57 6 * 64 = localAddr 0 0x8000) = true := by
  exact house_ex _ (by decide +kernel)

theorem meets_HearthInstructions_save :
    ∃ u x, (hearth [(1, 1), (2, word (localAddr 0 0x8000))] (.waiting (.translation 0x100_0000_0000 .load .invalid))).houseWrite 0 (localAddr 0 0x8000)
        (((hearth [] (.waiting (.translation 0x100_0000_0000 .load .invalid))).ctx 1).imageWords 1 0x100_0000_0000 0 0) = .ok u x ∧
      decide (((hearth [] (.waiting (.translation 0x100_0000_0000 .load .invalid))).ctx 1).pinned = false ∧
        (hearth [] (.waiting (.translation 0x100_0000_0000 .load .invalid))).quiet 1 = true ∧
        ((hearth [] (.waiting (.translation 0x100_0000_0000 .load .invalid))).ctx 1).rlog = [] ∧
        ((hearth [] (.waiting (.translation 0x100_0000_0000 .load .invalid))).ctx 1).heldWake = none ∧ localAddr 0 0x8000 % 64 = 0) = true := by
  exact house_ex (fun _ _ => _) (by decide +kernel)

theorem meets_HearthInstructions_save_held :
    ∃ u x, (hearth [(1, 1), (2, word (localAddr 0 0x8000))] (.waiting .held)).houseWrite 0 (localAddr 0 0x8000)
        (((hearth [] (.waiting .held)).ctx 1).imageWords 1 ((hearth [] (.waiting .held)).ctx 1).parkA 0 0) = .ok u x ∧
      decide (((hearth [] (.waiting .held)).ctx 1).pinned = false ∧ (hearth [] (.waiting .held)).quiet 1 = true ∧
        ((hearth [] (.waiting .held)).ctx 1).rlog = []) = true := by
  exact house_ex (fun _ _ => _) (by decide +kernel)

theorem meets_TrapsTraceAndCounters :
    (house (task [])).HandsOver ∧ (house (task [])).armed (house (task [])).src.lnum = false ∧ bitOf (house (task [])).src.tc.toNat 0 = false ∧
    bitOf (house { task [] with tc := 1 }).src.tc.toNat 0 = true ∧ (house (task [])).myCore < allCores ∧ ((house (task [(1, 255)])).rg 1).toNat < 256 ∧
    256 ≤ ((house (task [(1, 256)])).rg 1).toNat := by
  refine ⟨?_, ?_, ?_, ?_, ?_, ?_, ?_⟩ <;> first | decide | exact And.intro (by decide) (by decide)

theorem meets_TrapsTraceAndCounters_armed :
    ({ house (task []) with halls := [(0, { stops := [(0, { who := 0x0001_0000_0000_0005, ctl := 0xE000_0000_0000_0000 })] })] } : State).armed 1 = true := by
  decide

/-- The task with a claim of `l` lanes. -/
def laned (l : Nat) (g : Tab Word) : State := house { task g with lanes := l }

theorem meets_VectorArithmetic :
    (laned 64 []).HasLanes ∧ (8 : BitVec 4).toNat ∈ [6, 7, 8] ∧ (5 : BitVec 4).toNat ≤ 5 := by
  refine ⟨⟨rfl, by decide, by decide⟩, by decide, by decide⟩

theorem meets_VectorMovesAndVotes :
    (14 : BitVec 4).toNat ≤ 14 ∧ ((laned 64 [(2, 63)]).rg 2).toNat < (laned 64 [(2, 63)]).src.lanes ∧ (laned 64 [(2, 64)]).src.lanes ≤ ((laned 64 [(2, 64)]).rg 2).toNat ∧
    (laned 64 []).HandsOver ∧ (5 : BitVec 4).toNat ≤ 5 ∧ (7 : BitVec 4).toNat ≤ 7 ∧ (4 : BitVec 6).toNat ≤ 4 ∧ (2 : BitVec 8).toNat ≤ 2 := by
  refine ⟨?_, ?_, ?_, ?_, ?_, ?_, ?_, ?_⟩ <;> first | decide | exact And.intro (by decide) (by decide)

theorem meets_VectorMovesAndVotes_nan :
    ∃ v, (laned 64 []).vl v 0 < 0x7F80_0000 ∧ 0x7F80_0000 < (house { task [] with lanes := 64, vregs := [(1 * 64, 0xFFC0_0000)] }).vl 1 0 % 2 ^ 31 := by
  exact ⟨0, by decide, by decide⟩

theorem meets_VectorReductionsAndConversions :
    (laned 64 []).src.lanes ∈ [8, 16, 32, 64] ∧ (6 : BitVec 4).toNat ∈ [0, 3, 6] ∧ (2 : BitVec 4).toNat ≤ 2 ∧ Machine.tyWidth 9 < Machine.tyWidth 6 ∧
    (3 : BitVec 4).toNat < Machine.tyWidth 6 / Machine.tyWidth 9 ∧ Machine.tyWidth 13 ≤ Machine.tyWidth 6 ∧ (7 : BitVec 4).toNat < Machine.tyWidth 6 / Machine.tyWidth 13 ∧
    9 ≤ (9 : BitVec 4).toNat ∧ (1 : BitVec 4) ≠ 2 ∧ (laned 16 []).src.lanes < 32 ∧ (laned 16 []).HandsOver := by
  refine ⟨?_, ?_, ?_, ?_, ?_, ?_, ?_, ?_, ?_, ?_, ?_⟩ <;> first | decide | exact And.intro (by decide) (by decide)

/-- Eight lanes, of which p takes 0 and 7, with words in the store. -/
def gathered : State :=
  ({ house { task [(1, 0x100), (2, 32)] with lanes := 8, p := 0x81 } with mem := [] } : State).store (localAddr 0 0x11C) 4 7

theorem meets_VectorMemoryResults :
    ∃ ls, gathered.laneAddrs (gathered.rg 1) rR (fun l : Nat => 4 * (l : Int)) (gathered.taking 1) = .ok ls ∧
      decide (ls = [(0, localAddr 0 0x100), (7, localAddr 0 0x11C)] ∧ gathered.me.status.going = true ∧ gathered.me.relaxed.length < 4 ∧
        (∀ l ∈ ls, gathered.conflicts l.2 = false ∧ unitOf l.2 ≠ .paged ∧ gathered.badWord l.2 = false ∧
          gathered.physOffline (.house l.2) = false ∧ gathered.tileHits 0 l.2 4 false = false)) = true := by
  exact except_ex _ (by decide +kernel)

theorem meets_VectorMemoryResults_placed :
    (match gathered.lanePlaces gathered.myCore rR [localAddr 0 0x100, localAddr 0 0x11C] with
      | .ok u ps => decide (u = gathered ∧ ps.length = 2)
      | .no _ => false) = true ∧
    (match gathered.lanePlaces gathered.myCore rW [localAddr 0 0x100, 0x100_0000_0000] with
      | .no (.held u h acc _) => decide (u = gathered ∧ h = 0x100_0000_0000 ∧ acc = .vector)
      | _ => false) = true ∧
    gathered.blurred (localAddr 0 0x100) 4 = false ∧ gathered.blurred (localAddr 0 0x11C) 4 = false ∧ gathered.own (localAddr 0 0x100) = true ∧
    gathered.own (localAddr 1 0x100) = false := by
  decide +kernel

theorem meets_VectorMemoryResults_performed :
    ∃ u, gathered.performLoads gathered.cur 3 [(0, localAddr 0 0x100), (7, localAddr 0 0x11C)] = .done u ∧ decide ((u.me.lane 3 7).toNat = 7) = true := by
  exact perf_ex _ (by decide +kernel)

theorem meets_VectorMemoryResults_stored :
    ∃ u, gathered.performStores gathered.cur [(5, localAddr 0 0x100), (6, localAddr 0 0x11C)] = .done u ∧
      decide (memLoad u.mem (localAddr 0 0x11C) 4 = 6 ∧
        [(0, localAddr 0 0x100), (7, localAddr 0 0x11C)].Pairwise (fun x y => x.2 + 4 ≤ y.2 ∨ y.2 + 4 ≤ x.2)) = true := by
  exact perf_ex _ (by decide +kernel)

/-- A tag table of 256 sets at the end of the store, in which entry 1023 is of the key's set. -/
def tagged : State := holding (task [(1, 0x3_BFC0), (2, 0xFF), (3, 1023)]) [(localAddr 0 0x3_BFC0, 256)]

theorem meets_TagTableResults :
    isPorch tagged.myCore = false ∧ tagged.me.status.going = true ∧ tagged.resolve (tagged.rg 1) 0 8 1 rR .span = .ok (localAddr 0 0x3_BFC0) ∧
    tagged.resolve (tagged.rg 1) 0 8 1 rW .scalarStore = .ok (localAddr 0 0x3_BFC0) ∧ tagged.own (localAddr 0 0x3_BFC0) = true ∧
    localAddr 0 0x3_BFC0 % 64 = 0 ∧ tagged.badWord (localAddr 0 0x3_BFC0) = false ∧ memLoad tagged.mem (localAddr 0 0x3_BFC0) 8 = 256 ∧
    localAddr 0 0x3_BFC0 % 0x4_0000 + 64 + 64 * 256 ≤ 0x4_0000 ∧ fld (tagged.rg 1) 60 0 + 64 + 64 * 256 ≤ segLimit (tagged.src.seg 0) := by
  refine ⟨?_, ?_, ?_, ?_, ?_, ?_, ?_, ?_, ?_, ?_⟩ <;> first | decide | rfl

theorem meets_TagTableResults_set :
    tagSet (tagged.rg 2) 256 = 255 ∧ (tagged.rg 3).toNat / 4 = tagSet (tagged.rg 2) 256 ∧ tagged.badSpan (localAddr 0 0x3_BFC0 + 64 + 64 * 255) 64 = false ∧
    (tagged.rg 3).toNat < 4 * 256 ∧ tagged.HandsOver := by
  refine ⟨?_, ?_, ?_, ?_, ?_⟩ <;> first | decide | exact And.intro (by decide) (by decide)

theorem meets_TagTableResults_misplaced :
    (house (task [(1, 0x20)])).resolve ((house (task [(1, 0x20)])).rg 1) 0 8 1 rR .span = .ok (localAddr 0 0x20) ∧ localAddr 0 0x20 % 64 ≠ 0 ∧
    (house (task [])).own (localAddr 1 0) = false := by
  refine ⟨?_, ?_, ?_⟩ <;> first | decide | rfl

/-- 128 rows of 64 .f16 columns. -/
def descriptor : Word := word (7 + 127 * 2 ^ 15 + 64 * 2 ^ 23)
/-- The task that claims the whole tile engine, with that descriptor in TD2 and TD3. -/
def tiled (g : Tab Word) : State :=
  { house { task g with tile := 0xF_FFFF_0000, td := [(2, descriptor), (3, descriptor)] } with rooms := [(0, { tile := { pdesc := [(1, descriptor)] } })] }

theorem meets_TileEngine :
    isPorch (tiled []).myCore = false ∧ tdOk descriptor = true ∧ tdFmt ((tiled []).td 2) = 7 ∧ tdRows ((tiled []).td 2) = 128 ∧
    depthOf (tdFmt ((tiled []).td 2)) = depthOf (tdFmt ((tiled []).planeDesc 1)) ∧ tdFmt ((tiled []).planeDesc 1) ≠ 0 ∧
    (tiled []).src.tile &&& (2 ^ (16 + 2) + 2 ^ (32 + 1)) = 2 ^ (16 + 2) + 2 ^ (32 + 1) ∧ ((tiled []).room 0).tileQ.length < 32 ∧
    ((tiled []).tilesOf 0 (tiled []).src.gid).length < 8 ∧ (tiled []).tileFailed = false ∧
    (house (task [])).src.tile &&& 2 ^ 18 ≠ 2 ^ 18 ∧ (tiled []).HandsOver ∧ (tiled []).src.tile.testBit (16 + 3) = true ∧ tdFmt ((tiled []).td 3) = tdFmt ((tiled []).td 2) := by
  refine ⟨?_, ?_, ?_, ?_, ?_, ?_, ?_, ?_, ?_, ?_, ?_, ?_, ?_, ?_⟩ <;> first | decide | exact And.intro (by decide) (by decide)

theorem meets_TileEngine_spans :
    (tiled [(1, 0x100), (2, 128)]).resolve ((tiled [(1, 0x100), (2, 128)]).rg 1) 0 (spanOf 128 128 128) 8 rR .tile = .ok (localAddr 0 0x100) ∧
    oneStore (localAddr 0 0x100) (spanOf 128 128 128) = true ∧
    localAddr 0 0x100 = segBase ((tiled [(1, 0x100)]).src.seg (fld ((tiled [(1, 0x100)]).rg 1) 63 61)) + fld ((tiled [(1, 0x100)]).rg 1) 60 0 ∧
    (tiled [(1, 0x100)]).resolve ((tiled [(1, 0x100)]).rg 1) 0 (spanOf 128 512 512) 8 rW .tile = .ok (localAddr 0 0x100) ∧
    inRoom 0 (localAddr 0 0x100) (spanOf 64 256 256) = true ∧
    (tiled [(1, 0x100)]).resolve ((tiled [(1, 0x100)]).rg 1) 0 (spanOf 64 256 256) 8 rR .tile = .ok (localAddr 0 0x100) ∧ localAddr 0 0x100 % 256 = 0 ∧
    (tiled [(1, 0x100)]).resolve ((tiled [(1, 0x100)]).rg 1) 0 1024 8 rR .tile = .ok (localAddr 0 0x100) := by
  refine ⟨?_, ?_, ?_, ?_, ?_, ?_, ?_, ?_⟩ <;> first | decide | rfl

/-- A command in the tile queue of room 0. -/
def tileCmd (i : Instr) (descs : List Word) : TileCmd :=
  { ctx := 0, gid := 0x0001_0000_0000_0005, lrec := 0, pc := 8, syl := 0, instr := i, rm := 0, span := localAddr 0 0x100, stride := 128, descs := descs }

theorem meets_TileEngine_full :
    8 ≤ (({ house (task []) with rooms := [(0, { tileQ := List.replicate 8 (tileCmd (.tzero 0) []) })] } : State).tilesOf 0 0x0001_0000_0000_0005).length := by
  decide

theorem meets_TileEngine_steps :
    nextTile [] ((house (task [])).room 0).tileQ = none ∧ nextTile [] [tileCmd (.tzero 3) []] = some (tileCmd (.tzero 3) []) ∧
    nextTile [] [tileCmd (.tzeroT 15) []] = some (tileCmd (.tzeroT 15) []) ∧ nextTile [] [tileCmd (.tlw 2 1) [descriptor]] = some (tileCmd (.tlw 2 1) [descriptor]) ∧
    nextTile [] [tileCmd (.tmma 2 1) [descriptor, descriptor]] = some (tileCmd (.tmma 2 1) [descriptor, descriptor]) ∧ tdRows descriptor ≤ 128 ∧
    (tileCmd (.tmma 2 1) [descriptor, descriptor]).step < 8 ∧ (1 : BitVec 2).toNat ∉ ((tiled []).room 0).tile.passing ∧ ((tiled []).room 0).stopped = false ∧
    (tiled []).attic.holding = false ∧ ({ house (task []) with attic := { holding := true } } : State).attic.holding = true ∧
    (tiled []).pendingPc 0 8 = false ∧ ({ tiled [] with before := [(0, { ctx := { task [] with pc := 8 } })] } : State).pendingPc 0 8 = true ∧
    (tiled []).blurred (localAddr 0 0x100) 8 = false := by
  decide

theorem meets_TileEngine_load :
    ∃ u ps, (house (task [])).places 0 rR (rowWords (localAddr 0 0x100) 128 128 ((rowsOf 7).filter fun m => decide (m < tdRows descriptor))) = .ok u ps ∧
      decide (ps.length = 256 ∧ (house (task [])).bankTaken 3 (rowWords (localAddr 0 0x100) 128 128 ((rowsOf 7).filter fun m => decide (m < tdRows descriptor))) = false ∧
        ({ house (task []) with cores := [(0, { busy := 2 ^ 32 - 1 })] } : State).bankTaken 3
          (rowWords (localAddr 0 0x100) 128 128 ((rowsOf 7).filter fun m => decide (m < tdRows descriptor))) = true) = true := by
  exact house_ex _ (by decide +kernel)

/-- The word of a NOP bundle, and a block of one bundle at the beginning of the store of core 0, whose header names g1 live. -/
def ready : State := (house (task [])).withFetchWord 32 0

theorem meets_IssueAndEntry :
    0 < 6240 ∧ (ready.ctx 0).status = .ready ∧ (ready.ctx 0).lastIssue = none ∧ (ready.ctx 0).place = .block 0 (headerOf 1) ∧ (ready.ctx 0).stopSkip = true ∧
    (ready.hall (ready.hallOf 0)).stops = [] ∧ ((ready.core 0).ptr + 0) % 16 = 0 ∧ (ready.ctx 15).status = .vacant ∧ (ready.ctx 0).lnum ≠ 0 ∧ (ready.ctx 0).lateFault = none := by
  decide

theorem meets_IssueAndEntry_fetch :
    ∃ v w h, ({ ready.histogram 0 with cur := 0, view := none } : State).fetch (ready.ctx 0).pc = .got v w h ∧
      decide (w = 0 ∧ h = localAddr 0 8 ∧ (decodeBundle w).toOption = some (.nopS, .nopV) ∧
        misplaced (v.setMe fun c => { c with bits := w }).me.following .nopS .nopV = false ∧ hindered v.me.relaxed .nopS .nopV = false ∧
        v.losesBank 0 .nopS .nopV = false) = true := by
  exact fetch_ex _ (by decide +kernel)

theorem meets_IssueAndEntry_misplaced :
    misplaced 0 (.cmpSkn 0 1 0 0) .nopV = true := by
  decide

theorem meets_IssueAndEntry_headers :
    hdrOk 0 = false ∧ hdrOk (headerOf 0) = true ∧ fld (headerOf 0) 7 0 = 0 ∧ hdrOk (headerOf 1) = true ∧ fld (headerOf 1) 7 0 ≠ 0 ∧ fld (headerOf 1) 55 55 = 0 ∧
    fld (headerOf 1) 53 53 = 0 ∧ 0x3_FFF0 + 8 * fld (headerOf 1) 7 0 + 8 ≤ segLimit (ready.me.seg 0) ∧
    segLimit (ready.me.seg 0) < 0x3_FFF8 + 8 * fld (headerOf 1) 7 0 + 8 ∧ ready.view = none ∧ ready.HandsOver := by
  refine ⟨?_, ?_, ?_, ?_, ?_, ?_, ?_, ?_, ?_, ?_, ?_⟩ <;> first | decide | exact And.intro (by decide) (by decide)

theorem meets_IssueAndEntry_header_word :
    ∃ v w h, ready.fetch 0 = .got v w h ∧ decide (w = headerOf 1) = true := by
  exact fetch_ex _ (by decide +kernel)

theorem meets_IssueAndEntry_walk :
    (house { task [] with status := .waiting .walk }).view = none ∧ ((house { task [] with status := .waiting .walk }).ctx 0).status = .waiting .walk ∧
    (house { task [] with status := .waiting .walk }).Clear 0 ∧ pcWord 8 (fld 8 60 0 / 2048 * 2048 : Nat) ≠ 8 ∧ fld (8 : Word) 60 0 < fld (0 : Word) 60 0 + 8 * (fld (headerOf 1) 7 0 + 1) ∧
    ((house { task [] with status := .waiting .giveUp }).ctx 0).status = .waiting .giveUp ∧
    (house { task [] with status := .waiting .giveUp }).tilesOf 0 ((house { task [] with status := .waiting .giveUp }).ctx 0).gid = [] ∧
    (house { task [] with status := .waiting .giveUp }).Clear 0 := by
  refine ⟨?_, ?_, ?_, ?_, ?_, ?_, ?_, ?_⟩ <;> first | decide | exact And.intro (by decide) (by decide) | exact ⟨rfl, rfl, rfl⟩

theorem meets_RepliesAndWakes :
    ((house { task [] with status := .waiting .reply, raised := 1 }).ctx 0).amo = none ∧
    ((house { task [] with status := .waiting .reply, raised := 1 }).ctx 0).status = .waiting .reply ∧
    ((house { task [] with raised := 1 }).ctx 0).raised &&& fld ((house { task [] with raised := 1 }).ctx 0).fpc 12 8 = 0 ∧
    (house { task [] with status := .waiting .reply }).Clear 0 ∧ fld ((house (task [])).ctx 0).st 3 3 = 0 ∧
    ((house { task [] with raised := 1, fpc := 0x100 }).ctx 0).raised &&& fld ((house { task [] with fpc := 0x100 }).ctx 0).fpc 12 8 ≠ 0 ∧
    ((house (task [])).ctx 0).lnum ≠ 0 ∧ ((house (task [])).ctx 0).lateFault = none := by
  refine ⟨?_, ?_, ?_, ?_, ?_, ?_, ?_, ?_⟩ <;> first | decide | exact And.intro (by decide) (by decide) | exact ⟨rfl, rfl, rfl⟩

/-- A bundle whose request travels, to a Delta tree, of a task that is to be halted. -/
def travelling : State :=
  house { task [] with status := .waiting .reply, flying := some (localAddr 1 0x100), haltReq := 2, bits := ((encode (.drel 1 2 0)).getD 0).setWidth 64 }

theorem meets_RepliesAndWakes_travelling :
    (travelling.ctx 0).status = .waiting .reply ∧ (travelling.ctx 0).amo = none ∧ (travelling.ctx 0).flying.isSome = true ∧ travelling.attic.holding = false ∧
    (travelling.ctx 0).inDelta = true ∧ (travelling.ctx 0).haltReq = 2 ∧ (travelling.ctx 0).lateFault = none ∧ tfind travelling.before 0 = none ∧
    ((house { task [] with status := .waiting .reply }).ctx 0).inDelta = false ∧ (((house (task [])).toward (localAddr 1 0x100) 0 8).dest : Option (Nat × Nat × Nat)).isSome = true := by
  decide

/-- A task in slot 1 of core 0 that is parked on a translation fault since cc 0, while another of its queue waits; the clock stands at cc 2048. -/
def parkedHouse (acc : AccKind) : State :=
  { house (task []) with
    clock := { cc := 2048 }
    ctxs := [(1, { task [] with status := .waiting (.translation 0x100_0000_0000 acc .invalid) })]
    halls := [(0, { waiting := [start] })] }

theorem meets_RepliesAndWakes_parked :
    ((parkedHouse .load).ctx 1).status = .waiting (.translation 0x100_0000_0000 .load .invalid) ∧ ((parkedHouse .load).ctx 1).lent = false ∧
    ((parkedHouse .load).ctx 1).lnum ≠ 0 ∧ ((parkedHouse .load).ctx 1).lateFault = none ∧ isPorch (coreOf 1) = false ∧ slotOf 1 ≠ 0 ∧
    ((parkedHouse .load).ctx 1).parkedAt + 2048 ≤ (parkedHouse .load).clock.cc ∧ ((parkedHouse .load).ctx 1).pinned = false ∧
    (parkedHouse .load).gangsOf ((parkedHouse .load).ctx 1).lnum ((parkedHouse .load).ctx 1).grp = [] ∧
    ((parkedHouse .load).ctx 1).relaxed.any (·.held) = false ∧ (parkedHouse .load).queued' 0 (tget 0 ((parkedHouse .load).core 0).owners 1) = true ∧
    (parkedHouse .delta).Clear 1 ∧ (608 : Nat) < 609 ∧ ((parkedHouse .load).ctx 1).asked = none ∧
    (parkedHouse .load).asker 1 = some .own := by
  refine ⟨?_, ?_, ?_, ?_, ?_, ?_, ?_, ?_, ?_, ?_, ?_, ?_, ?_, ?_, ?_⟩ <;> first | decide | exact And.intro (by decide) (by decide) | exact ⟨rfl, rfl, rfl⟩

theorem meets_RepliesAndWakes_stale :
    (house { task [] with staleAsks := [3] }).asker 0 = some (.stale 3) ∧ ((house { task [] with status := .waiting .fence }).ctx 0).status = .waiting .fence ∧
    ({ house (task []) with attic := { holding := true } } : State).attic.holding = true := by
  decide

theorem meets_RepliesAndWakes_given :
    ((house { task [] with status := .waiting (.parked 5), given := some 7 }).ctx 0).given = some 7 ∧
    ((house { task [] with status := .waiting (.parked 5), given := some 7 }).ctx 0).status = .waiting (.parked 5) := by
  decide

/-- The task with one relaxed access, number 9, to word 0x100 of the store of core 1, and perhaps a log that is full. -/
def relaxing (op : RelOp) (done : Bool) : State :=
  house { task [] with relaxed := [{ id := 9, op := op, h := localAddr 1 0x100, pc := 8, done := done }] }

theorem meets_RelaxedAccessesArePerformed :
    ((relaxing (.load 3 8 true) false).ctx 0).relaxedAt 9 = some { id := 9, op := .load 3 8 true, h := localAddr 1 0x100, pc := 8 } ∧
    ((relaxing (.load 3 8 true) false).ctx 0).behind { id := 9, op := .load 3 8 true, h := localAddr 1 0x100, pc := 8 } = false ∧
    (relaxing (.load 3 8 true) false).follows 0 { id := 9, op := .load 3 8 true, h := localAddr 1 0x100, pc := 8 } = false ∧
    ((relaxing (.store 8 1) true).ctx 0).relaxedAt 9 = some { id := 9, op := .store 8 1, h := localAddr 1 0x100, pc := 8, done := true } ∧
    (relaxing (.store 8 1) false).physOffline (.house (localAddr 1 0x100)) = false ∧ (relaxing (.store 8 1) false).badWord (localAddr 1 0x100) = false ∧
    (relaxing (.store 8 1) false).net.arrived = [] ∧ (relaxing (.store 8 1) false).net.sluice = [] ∧ (relaxing (.store 8 1) false).net.mesh = [] ∧
    (Phys.house (localAddr 1 0x100)).performs 9 true = true ∧ (relaxing (.red 9 4 1) false).offline (unitOf (localAddr 1 0x100)) = false ∧
    (RelOp.store 8 1).logged = false ∧ (RelOp.red 9 4 1).logged = true ∧ ((relaxing (.red 9 4 1) false).ctx 0).rlog.length < 8 ∧
    (relaxing (.load 3 8 true) false).tileHits 0 (localAddr 1 0x100) 8 false = false ∧
    ((relaxing (.load 3 8 true) false).ctx 0).status = .ready ∧ ((relaxing (.load 3 8 true) false).ctx 0).lnum ≠ 0 ∧
    (relaxing (.store 8 1) false).attic.holding = false ∧ (relaxing (.store 8 1) false).travels 0 9 = false ∧
    (relaxing (.load 3 8 true) false).bankTaken 1 [localAddr 1 0x100] = false ∧ (relaxing (.red 9 4 1) false).bankTaken 0 [localAddr 1 0x100] = false ∧
    ((relaxing (.red 9 4 1) false).ctx 0).frontQ = [] := by
  decide

theorem meets_RelaxedAccessesArePerformed_free :
    (relaxing (.load 3 8 true) false).pendingId 0 9 = false ∧ (relaxing (.load 3 8 true) false).blurred (localAddr 1 0x100) 8 = false := by
  decide

/-- Two REDs of the task have combined, and their packet is still on its way. -/
theorem meets_RelaxedAccessesArePerformed_combined :
    let p : Packet := { id := 1, cls := 1, op := 9, h := localAddr 1 0x100, width := 4, who := [(0, 9), (0, 10)] }
    let s : State := { relaxing (.red 9 4 1) false with net := { mesh := [(0, p)] } }
    s.net.arrived = [] ∧ s.net.packets.find? (fun p => p.cls == 1 && p.carries 0 9) = some p ∧ (s.ctx 0).relaxedAt 9 = some { id := 9, op := .red 9 4 1, h := localAddr 1 0x100, pc := 8 } ∧
    (RelOp.red 9 4 1).logged = true ∧ (relaxing (.red 9 4 1) false).net.packets = [] ∧
    (∀ k o, unitOf (localAddr 1 0x100) ≠ .mark k o) := by
  refine ⟨by decide, by decide, by decide, by decide, by decide, ?_⟩
  (intro k o; rw [show unitOf (localAddr 1 0x100) = .localStore 1 0x100 by decide]; simp)

theorem meets_RelaxedAccessesArePerformed_reach :
    (relaxing (.store 8 1) false).reach ((relaxing (.store 8 1) false).portOf (coreOf 0) (localAddr 1 0x100)) (localAddr 1 0x100) rW =
      (relaxing (.store 8 1) false, .ok (.house (localAddr 1 0x100))) := by
  first | decide | exact reach_of (by decide +kernel) (by decide +kernel) | rfl

/-- Task 5 on its way to core 1, as flight 3. -/
def flying (inbox : List Nat) : State :=
  { house (task []) with flights := [(3, { target := 1, origin := 0, task := task [], resendAt := some 256 })], cores := [(1, { inbox := inbox })] }

/-- The task whose segment s4, the store of core 1, has the right M as well. -/
def roaming : State := house { task [(1, at' 4 0x100), (2, 1)] with segs := tput 0 segs 4 (mkSeg (localAddr 1 0) 0x4_0000 0xFF) }

theorem meets_AccessesThatDepart :
    roaming.touches (roaming.rg 1) = true ∧ roaming.stays = false ∧ (Phys.house (localAddr 1 0x100)).owner (localAddr 1 0x100) = some 1 ∧ (1 : Nat) ≠ roaming.myCore ∧
    roaming.physOffline (.house (localAddr 1 0x100)) = false ∧ roaming.badWord (localAddr 1 0x100) = false ∧ roaming.badWord (localAddr 1 0x108) = false ∧
    roaming.conflicts (localAddr 1 0x108) = false ∧ unitOf (localAddr 1 0x100) = .localStore 1 0x100 ∧ roaming.me.relaxed.length < 4 ∧ roaming.src.given = none ∧
    fld (roaming.rg 2) 63 8 = 0 ∧ fld (roaming.rg 2) 19 0 ≠ 0 ∧ roaming.PassesScope 0 := by
  refine ⟨?_, ?_, ?_, ?_, ?_, ?_, ?_, ?_, ?_, ?_, ?_, ?_, ?_, ?_⟩ <;> first | decide | exact Or.inl rfl

theorem meets_AccessesThatDepart_resolve :
    roaming.resolve (roaming.rg 1) 0 8 8 rR .scalarLoad = .ok (localAddr 1 0x100) ∧ roaming.resolve (roaming.rg 1) 0 8 8 rW .scalarStore = .ok (localAddr 1 0x100) ∧
    roaming.resolve (roaming.rg 1) 0 8 8 rA .atomic = .ok (localAddr 1 0x100) ∧ roaming.resolve (roaming.rg 1) 0 8 8 rF .sync = .ok (localAddr 1 0x100) ∧
    roaming.resolve (roaming.rg 1) 0 16 16 rR .span = .ok (localAddr 1 0x100) ∧ roaming.resolve (roaming.rg 1) 0 16 16 rW .scalarStore = .ok (localAddr 1 0x100) := by
  refine ⟨?_, ?_, ?_, ?_, ?_, ?_⟩ <;> first | decide | rfl

theorem meets_AccessesThatDepart_reach :
    roaming.reach (roaming.portOf roaming.myCore (localAddr 1 0x100)) (localAddr 1 0x100) rR = (roaming, .ok (.house (localAddr 1 0x100))) := by
  first | decide | exact reach_of (by decide +kernel) (by decide +kernel) | rfl

theorem meets_MigrationMovesATask :
    (house (task [])).me.relaxed = [] ∧ (house (task [])).me.frontQ = [] ∧ (flying []).preempts = [] ∧ (house (task [])).copiesOf 0 (house (task [])).src.gid = [] ∧ (house (task [])).tilesOf 0 (house (task [])).src.gid = [] ∧
    (house (task [])).src.rlog = [] ∧ (house (task [])).src.carried 0 = false ∧
    tfind (flying []).flights 3 = some { target := 1, origin := 0, task := task [], resendAt := some 256 } ∧ ((flying []).core 1).inbox = [] ∧
    (flying []).landingSlot 1 0 = some 1 ∧ (task []).lateFault = none ∧ (task []).haltReq = 0 ∧ (task []).relaxed = [] ∧
    8 ≤ ((flying [10, 11, 12, 13, 14, 15, 16, 17]).core 1).inbox.length ∧ ((flying [10, 11]).core 1).inbox.contains 3 = false ∧
    ((flying [10, 11]).core 1).inbox ≠ [] ∧ ((flying [10, 11]).core 1).inbox.length < 8 ∧ isPorch 1 = false := by
  decide

theorem meets_PlacementAndGrants :
    (({ house (task []) with halls := [(31, { events := [(5952, 7)] })] } : State).hall 31).events.find?
      (fun e => !({ house (task []) with halls := [(31, { events := [(5952, 7)] })] } : State).isFull (hearthAddr e.1)) = some (5952, 7) ∧
    (house (task [])).takers (hearthAddr 5952) = [] ∧
    ((house (task [])).hall 31).events.find? (fun e => !(house (task [])).isFull (hearthAddr e.1)) = none ∧
    ({ house (task []) with halls := [(31, { service := .leaving })] } : State).hallOpen 31 = false ∧ (house (task [])).hallOpen 31 = true := by
  decide

/-- Hall 0 with a task waiting whose queue owns the vacant slots of core 0. -/
def waiting0 : State := { State.reset with halls := [(0, { waiting := [start] })], launches := [(1, { n := 6, next := 6, live := 1, wings := [0] })] }

theorem meets_PlacementAndGrants_inbox :
    (flying [3]).inboxStart 0 ≠ none ∧ ((flying [3]).hall 0).events = [] ∧ (flying [3]).hallOpen 0 = true ∧ (flying []).inboxStart 0 = none := by
  decide +kernel

/-- Hall 0 is being taken out of service, and a task stands in the inbox of core 1, whose hearth has halted. -/
def leaving : State := { flying [3] with halls := [(0, { service := .leaving })] }

theorem meets_PlacementAndGrants_leaving :
    (leaving.landHalted 0).isSome = true ∧ leaving.hallOpen 0 = false ∧ (leaving.hall 0).service = .leaving ∧ (leaving.hall 0).events = [] ∧
    ({ house (task []) with halls := [(0, { service := .leaving })] } : State).landHalted 0 = none := by
  decide +kernel

theorem meets_PlacementAndGrants_start :
    waiting0.inboxStart 0 = none ∧
    (waiting0.hall 0).waiting.find? waiting0.overflows = none ∧
    ((waiting0.refreshQueues 0).draw 0 [] ((waiting0.refreshQueues 0).hall 0).waiting).isSome = true ∧ ((waiting0.refreshQueues 0).placeCore 0 1 0).isSome = true := by
  decide +kernel

/-- Room 0, in which slot 1 of core 0 waits for 8 lanes, or for a tile register. -/
def claiming (v t : List (Nat × Nat)) : State :=
  { house (task []) with ctxs := [(1, { task [] with status := .waiting .claim })], rooms := [(0, { vwait := v, twait := t })] }

theorem meets_PlacementAndGrants_claims :
    ((claiming [(1, 8)] []).room 0).vwait = (1, 8) :: [] ∧ (claiming [(1, 8)] []).restoring 1 = false ∧
    ((claiming [(1, 8)] []).ctx 1).lanes < min 8 (share ((claiming [(1, 8)] []).claimants 0)) ∧
    64 * (min 8 (share ((claiming [(1, 8)] []).claimants 0)) - ((claiming [(1, 8)] []).ctx 1).lanes) ≤ (claiming [(1, 8)] []).laneSpace 0 ∧
    ((claiming [] [(1, 0x1_0000)]).room 0).vwait = [] ∧ ((claiming [] [(1, 0x1_0000)]).room 0).twait = (1, 0x1_0000) :: [] ∧
    (claiming [] [(1, 0x1_0000)]).tileBusy 0 1 &&& (0x1_0000 - (0x1_0000 &&& ((claiming [] [(1, 0x1_0000)]).ctx 1).tile)) = 0 := by
  decide +kernel

/-- A launch record of 2^47 index tasks at 0x1000 of the store of core 0, whose address stands in launch word 0 of hall 0. -/
def launching (rec : Nat) : State :=
  { holding (task []) [(localAddr 0 0x1000, 2 ^ 56), (localAddr 0 0x1008, 0x100), (localAddr 0 0x1010, 2 ^ 47), (localAddr 0 0x1020, 0x1_0001),
      (localAddr 0 0x1028, localAddr 0 0x2000), (localAddr 0 0x1058, localAddr 0 0x3000), (launchAddr 0 0, rec)] with full := [(launchAddr 0 0, true)] }

theorem meets_LaunchesAreTakenIn :
    tfind ((house (task [])).hall 31).intakes 255 = none ∧ (house (task [])).hallOpen 31 = true ∧ (house (task [])).isFull (launchAddr 31 255) = false ∧
    (launching 1).isFull (launchAddr 0 0) = true ∧ (launching 1).putters (launchAddr 0 0) = [] ∧ fld ((launching 1).loadW (launchAddr 0 0)) 5 0 ≠ 0 ∧
    fld (word (localAddr 0 0x1000)) 63 58 = 0 ∧ fld (word (localAddr 0 0x1000)) 5 0 = 0 ∧ unitOf (localAddr 0 0x1000) ≠ .unassigned ∧
    (launching 1).nodeOf 0 0 (localAddr 0 0x1000) = none ∧ (launching 1).freeLnum = some 1 ∧ (launching 1).healthy 0 = true ∧ bitOf 1 0 = true := by
  decide

theorem meets_LaunchesAreTakenIn_taken :
    ((launching (localAddr 0 0x1000)).takeLaunch 0 0).map (·.1) = some (word (localAddr 0 0x1000)) := by
  decide

theorem meets_LaunchesAreTakenIn_record :
    ∃ u ws, (launching (localAddr 0 0x1000)).houseRead 0 (localAddr 0 0x1000) 32 = .ok u ws ∧
      (recordOk ws && fld (recW ws 0) 8 0 == 0 && groupsOk [] (2 ^ 47) 0 && !recordOk (0 :: ws.drop 1)) = true := by
  exact house_ex _ (by decide +kernel)

theorem meets_LaunchesAreTakenIn_tables :
    (∃ u gs, (launching (localAddr 0 0x1000)).houseRead 0 (localAddr 0 0x3000) 0 = .ok u gs ∧ decide (gs = []) = true) ∧
      ∃ u ws, (launching (localAddr 0 0x1000)).houseRead 0 (localAddr 0 0x2000) 16 = .ok u ws ∧ decide (ws.length = 16) = true := by
  exact ⟨house_ex _ (by decide +kernel), house_ex _ (by decide +kernel)⟩

theorem meets_LaunchesAreTakenIn_retry :
    tfind (({ house (task []) with halls := [(0, { intakes := [(255, (64, [0]))] })] } : State).hall 0).intakes 255 = some (64, [0]) ∧ recordOk [0] = false ∧
    (255 : Nat) < 256 ∧ (launching 1).attic.holding = false := by
  decide

/-- That record's address waits with launch word 0 of hall 0, which is in a state of service. -/
def retrying (v : Nat) (service : Service) : State := { launching 1 with halls := [(0, { intakes := [(0, (v, []))], service := service })] }

theorem meets_LaunchesAreTakenIn_again :
    tfind ((retrying (localAddr 0 0x1000) .inService).hall 0).intakes 0 = some (localAddr 0 0x1000, []) ∧
    ((retrying (localAddr 0 0x1000) .inService).hall 0).service = .inService ∧ ((retrying (localAddr 0 0x1000) .leaving).hall 0).service ≠ .inService ∧
    (retrying (localAddr 0 0x1000) .inService).attic.holding = false ∧ (retrying (localAddr 0 0x1000) .inService).nodeOf 0 0 (localAddr 0 0x1000) = none ∧
    (retrying (localAddr 0 0x1000) .inService).freeLnum = some 1 ∧ (retrying (localAddr 0 0x1000) .inService).healthy 0 = true ∧
    (retrying (localAddr 0 0x1000) .inService).attic.holding = false := by
  decide

theorem meets_LaunchesAreTakenIn_again_record :
    ∃ u ws, (retrying (localAddr 0 0x1000) .inService).houseRead 0 (localAddr 0 0x1000) 32 = .ok u ws ∧
      (!ws.isEmpty && recordOk ws && fld (recW ws 0) 8 0 == 0 && (recW ws 0x58).toNat == localAddr 0 0x3000 && (recW ws 0x28).toNat == localAddr 0 0x2000 &&
        groupsOk [] (fld (recW ws 0x10) 47 0) 0) = true := by
  exact house_ex _ (by decide +kernel)

theorem meets_LaunchesAreTakenIn_again_tables :
    (∃ u gs, (retrying (localAddr 0 0x1000) .inService).houseRead 0 (localAddr 0 0x3000) 0 = .ok u gs ∧ decide (gs = []) = true) ∧
      ∃ u ws, (retrying (localAddr 0 0x1000) .inService).houseRead 0 (localAddr 0 0x2000) 16 = .ok u ws ∧ decide (ws.length = 16) = true := by
  exact ⟨house_ex _ (by decide +kernel), house_ex _ (by decide +kernel)⟩

theorem meets_LaunchesAreTakenIn_waits :
    (match (retrying 0x100_0000_0000 .inService).houseRead 0 0x100_0000_0000 32 with | .wait _ h _ => h == 0x100_0000_0000 | _ => false) = true := by
  decide +kernel

/-- Launch 1 of six indices in chunks of two on wing 0, with one notice for the first chunk. -/
def noticed (q : Notice) : Launch := { n := 6, next := 2, chunk := 2, wings := [0], notices := [q], queue := 0 }
/-- The notice of the first chunk. -/
def notice : Notice := { first := 0, last := 2, grantee := 0, spawn := false, holders := [], left := 2 }
/-- The house with that launch. -/
def chunked (q : Notice) : State := { house (task []) with launches := [(1, noticed q)] }

theorem meets_ChunksAndWings :
    (chunked notice).launch? 1 = some (noticed notice) ∧ (noticed notice).wings.contains 0 = true ∧ (noticed notice).dr = false ∧
    (noticed notice).next < (noticed notice).n ∧ 2 * (chunked { notice with handed := true }).unstarted 1 (noticed { notice with handed := true }) 0 < (noticed notice).chunk ∧
    0 < (noticed notice).chunk ∧ (noticed notice).spawnNext + 256 ≤ serialEnd ∧ (noticed notice).notices.find? (·.first == 0) = some notice ∧
    (noticed { notice with holders := [0] }).heldByAll { notice with holders := [0] } = true ∧
    (chunked notice).shares (noticed notice) 0 0 2 ≠ [] ∧ (noticed { notice with committed := true, handed := true, left := 0 }).notices.find? (·.first == 0) =
      some { notice with committed := true, handed := true, left := 0 } := by
  decide +kernel

/-- Wing 0 has heard nothing of wing 7 since 0, and the clock stands at 10 µs; or it has declared that wing lost. -/
def silent (lost : List Nat) : State :=
  { house (task []) with clock := { acc := 10000 * 2 ^ 32 }, wings := [(0, { lost := lost })], launches := [(1, { wings := [0, 7], leader := 7 })] }

theorem meets_ChunksAndWings_resident (w : Nat) (h : w ∉ (noticed notice).wings) : (chunked notice).hasTasks 1 w = false := by
  have h0 : w ≠ 0 := by simpa [noticed] using h
  simp [State.hasTasks, chunked, house, State.reset, wingOf, coreOf, h0.symm]

theorem meets_ChunksAndWings_wings :
    (silent []).wingUp 0 = true ∧ ({ silent [] with wings := [(0, { up := false })] } : State).wingUp 0 = false ∧
    (tget ({} : Wing) (silent []).wings 0).lost.contains 7 = false ∧ tget 0 (tget ({} : Wing) (silent []).wings 0).heard 7 + 10000 ≤ (silent []).now ∧
    (silent [7]).launch? 1 = some { wings := [0, 7], leader := 7 } ∧
    ([0, 7].filter fun w => (silent [7]).wings.any fun e => e.2.lost.contains w) = [7] ∧ ([0, 7].filter fun w => !([7] : List Nat).contains w) = [0] ∧
    7 ∈ (tget ({} : Wing) (silent [7]).wings 0).lost ∧ ([0, 7].filter fun w => (silent []).wings.any fun e => e.2.lost.contains w) = [] := by
  decide

/-- A launch without indices whose future is entry 2 of hall 0, about to complete. -/
def ended1 : Launch := { wings := [0], done := some 0x1001, closing := some 0 }

theorem meets_LaunchesAndGraphsComplete :
    ({ futureHouse 0 with launches := [(1, ended1)] } : State).launch? 1 = some ended1 ∧ ended1.isOver = true ∧ ended1.outlived = false ∧ ended1.closing = some (ended1.status + ended1.lost.length * 2 ^ 32) ∧
    ended1.heldW = [] ∧ ended1.lateQ = [] ∧ ended1.pinHeld = false ∧ ended1.found = none ∧ ended1.node = none ∧ (futureHouse 0).leftOver (word ended1.record) = false ∧ (0x1001 : Nat) < 2 ^ 32 ∧
    (futureHouse 0).hallUp (bits 0x1001 31 27) = true ∧ (futureHouse 0).futLive 0x1001 = true ∧ fld ((futureHouse 0).futWord (handleAddr 0x1001)) 14 14 = 0 ∧
    ({ ended1 with next := 0, n := 1 }).isOver = false ∧ ended1.dr = false := by
  decide

/-- A launch that resumes from the tree of the tests, with no input. -/
def resuming : Launch := { wings := [0], dr := true, dtree := 0x100_0000_0000, segset := segs }

theorem meets_LaunchesAndGraphsComplete_lookup :
    ∃ x, lookTree 0x100_0000_0000 (localAddr 0 0) 0 0
        ({ treeHouse with launches := [(1, resuming)], view := some { segs := resuming.segset, gid := word (1 * 2 ^ 48) } } : State) = .ok x ∧
      decide (x.2.launch? 1 = some resuming ∧ (0x100_0000_0000 : Nat) % 256 = 0 ∧ treeHouse.unitFault 0x100_0000_0000 .delta = none ∧
        ({ treeHouse with view := some { segs := resuming.segset } } : State).rg 0 = 0) = true := by
  exact except_ex _ (by decide +kernel)

theorem meets_LaunchesAndGraphsComplete_input :
    ({ treeHouse with view := some { segs := segs, gid := word (1 * 2 ^ 48) } } : State).resolve 0 0 0 4 rR .span 4 = .ok (localAddr 0 0) := by
  first | decide | rfl

/-- A replay of two nodes, the second after the first. -/
def replaying (ended : List Nat) : Replay :=
  { graph := localAddr 0 0x1000, future := 0, slot := 0, remain := [(1, 1)], ended := ended, nodes := [(64, [1]), (128, [])] }

theorem meets_LaunchesAndGraphsComplete_nodes :
    tfind (house (task [])).replays 3 = none ∧ tfind ({ house (task []) with replays := [(3, replaying [])] } : State).replays 3 = some (replaying []) ∧
    0 < (replaying []).nodes.length ∧ (replaying []).ended.contains 0 = false ∧ (replaying []).ended.length + 1 < (replaying []).nodes.length ∧
    ((replaying []).nodes.getD 0 (0, [])).2.Nodup ∧ (replaying [0]).nodes.length ≤ (replaying [0]).ended.length + 1 ∧ (replaying [0]).ended.contains 1 = false := by
  decide

/-- A graph whose PATCH word is full with the address of 64 bytes of parameters; slot 0 is current and without pins. -/
def patching : State :=
  { holding (task []) [(localAddr 0 0x1000, 0x0100_0000_0000_0001), (localAddr 0 0x1018, localAddr 0 0x4000), (localAddr 0 0x1020, 64),
      (localAddr 0 0x1040, localAddr 0 0x5000)] with full := [(localAddr 0 0x1040, true)], graphs := [localAddr 0 0x1000] }

theorem meets_LaunchesAndGraphsComplete_patch :
    patching.graphs.contains (localAddr 0 0x1000) = true ∧ patching.isFull (localAddr 0 0x1040) = true ∧
    unitOf (localAddr 0 0x1000) = .localStore 0 (localAddr 0 0x1000 % 0x4_0000) ∧ 1 ≠ fld (patching.loadW (localAddr 0 0x1028)) 17 16 ∧
    bits (patching.loadW (localAddr 0 0x1030)).toNat 31 16 = 0 ∧ 0 = fld (patching.loadW (localAddr 0 0x1028)) 17 16 ∧
    fld (patching.loadW (localAddr 0 0x1020)) 31 0 = 64 ∧ patching.putters (localAddr 0 0x1040) = [] := by
  decide

theorem meets_LaunchesAndGraphsComplete_parameters :
    (∃ u ws, patching.houseRead 0 (localAddr 0 0x5000) 8 = .ok u ws ∧ decide (ws = List.replicate 8 0) = true) ∧
      ∃ u x, patching.houseWrite 0 (localAddr 0 0x4040) (List.replicate 8 0) = .ok u x ∧ decide (u.isFull (localAddr 0 0x1040) = true) = true := by
  exact ⟨house_ex _ (by decide +kernel), house_ex (fun u _ => decide (u.isFull (localAddr 0 0x1040) = true)) (by decide +kernel)⟩

theorem meets_HostRequestsComplete :
    (house (task [])).attic.holding = false ∧ (house (task [])).attic.hostQ = [] ∧ (house (task [])).hallOpen 31 = true ∧
    (house (task [])).isFull (launchAddr 31 255) = false ∧ (house (task [])).takers (launchAddr 31 255) = [] ∧
    ({ house (task []) with full := [(launchAddr 31 255, true)] } : State).isFull (launchAddr 31 255) = true ∧ (1 : Word) ≠ 0 ∧
    ({ house (task []) with halls := [(31, { service := .leaving })] } : State).hallOpen 31 = false ∧ (house (task [])).attic.running = false ∧
    0x1000 ≤ (0x1FF8 : Nat) ∧ (0x1FF8 : Nat) + 8 ≤ 0x2000 ∧ (0x2000 : Nat) < 0x1FF9 + 8 ∧
    ({ house (task []) with attic := { holding := true } } : State).attic.holding = true := by
  decide

/-- A page of HBM at the beginning of paged space in the TLB of the host port. -/
def hosted : State := { house (task []) with tlbs := [(608 * 2048 + 1024, [{ base := 1024, size := 30, leaf := 0xF_0000_0000_0002 }])] }

theorem meets_HostRequestsComplete_sizes :
    hosted.blurred (hbmKey 0 7) 512 = false ∧ (if true then 512 else 4096) < (513 : Nat) ∧ (if false then 512 else 4096) < (4097 : Nat) ∧ 2 ^ 40 < 2 ^ 40 - 1 + (2 : Nat) := by
  decide

theorem meets_HostRequestsComplete_aperture :
    hosted.reach 608 (0x100_0000_0000 + 7) rW = (hosted, .ok (.hbm 0 7)) ∧ hosted.reach 608 (0x100_0000_0000 + 7) rR = (hosted, .ok (.hbm 0 7)) ∧
    hosted.physOffline (.hbm 0 7) = false ∧ 0 < (512 : Nat) ∧ 7 % 4096 + 512 ≤ (4096 : Nat) ∧ 7 + 512 ≤ (2 ^ 40 : Nat) := by
  refine ⟨?_, ?_, ?_, ?_, ?_, ?_⟩ <;> first | decide | exact reach_of (by decide +kernel) (by decide +kernel) | rfl

/-- A RED of word 0x100 of the store of core 1 in the sluice of hall 0. -/
def packet (n dst : Nat) : Packet :=
  { id := n, cls := 1, op := 0, h := localAddr 1 0x100, width := 8, value := 1, who := [(0, n)], dstHall := dst, dstPort := 0 }
/-- Packets 1 and 2 at the head of a stage of the sluice of hall 0. -/
def sluiced (stage dst : Nat) (two : Bool) : State :=
  { house (task []) with
    net := { sluice := { hall := 0, stage := stage, line := 0, pkt := packet 1 dst } ::
      if two then [{ hall := 0, stage := stage, line := 0, pkt := packet 2 dst }] else [] } }

theorem meets_NetworkAndLinks :
    ((sluiced 7 0 false).net.sluice.filter fun e => e.hall == 0 && e.stage == 7 && switchOf e.line == 0) = [{ hall := 0, stage := 7, line := 0, pkt := packet 1 0 }] ∧
    ((sluiced 7 0 false).net.sluice.filter fun e => e.hall == 31 && e.stage == 7 && switchOf e.line == 127) = [] ∧
    ((sluiced 6 0 true).net.sluice.filter fun e => e.hall == 0 && e.stage == 6 && switchOf e.line == 0) =
      [{ hall := 0, stage := 6, line := 0, pkt := packet 1 0 }, { hall := 0, stage := 6, line := 0, pkt := packet 2 0 }] ∧
    combines (packet 1 0) (packet 2 0) = true ∧ combines (packet 1 0) { packet 2 0 with op := 1 } = false ∧ (sluiced 6 0 true).net.waitsAt 0 6 0 < 16 ∧
    (packet 1 0).who = (0, 1) :: [] ∧ (packet 1 0).cls < 4 ∧ (packet 1 0).cls ≠ 2 ∧ (packet 1 0).op ≠ 64 ∧ attachOf 0 (packet 1 0).dstPort = none ∧
    (packet 1 0).on = none ∧ (packet 1 0).back = none ∧ ({ packet 1 0 with back := some 8 } : Packet).back = some 8 ∧ ({ packet 1 0 with op := 64 } : Packet).op = 64 := by
  decide

/-- The first comes first; of two that come in one cycle, the one whose line the shuffle makes even. -/
theorem meets_NetworkAndLinks_before :
    ({ hall := 0, stage := 6, line := 0, pkt := packet 2 0 } : SwEntry).before { hall := 0, stage := 6, line := 0, pkt := packet 1 0 } = false ∧
    ({ hall := 0, stage := 6, line := 0, pkt := packet 1 0 } : SwEntry).before { hall := 0, stage := 6, line := 128, pkt := packet 2 0 } = true := by
  decide

/-- Packets 1 and 2 have been combined in hall 0, for two accesses of context 0, or for fetch-and-adds of contexts 0 and 1. -/
def split (op : Nat) : WaitEntry :=
  { hall := 0, stage := 6, switch := 0, packet := 1, op := op, width := 8, a := 1, first := [(0, 1)], second := [(if op = 32 then 1 else 0, 2)] }
/-- The house with that entry. -/
def splitting (op : Nat) : State :=
  { State.reset with
    ctxs := [(0, { task [] with relaxed := [{ pending 1 with id := 1 }, { pending 1 with id := 2 }], amo := some { id := 1, d := 3, h := 0, place := .house 0 } }),
             (1, { task [] with amo := some { id := 2, d := 23, h := 0, place := .house 0 } })]
    net := { waits := [split op] } }

theorem meets_NetworkAndLinks_split :
    (splitting 0).net.waits.find? (·.packet == 1) = some (split 0) ∧ (splitting 0).net.packets = [] ∧ (splitting 0).net.arrived = [] ∧
    ((splitting 0).ctx 0).relaxedAt 1 = some { pending 1 with id := 1 } ∧ ((splitting 0).ctx 0).relaxedAt 2 = some { pending 1 with id := 2 } ∧
    (splitting 32).net.waits.find? (·.packet == 1) = some (split 32) ∧ ((splitting 32).ctx 0).amo = some { id := 1, d := 3, h := 0, place := .house 0 } ∧
    ((splitting 32).ctx 1).amo = some { id := 2, d := 23, h := 0, place := .house 0 } := by
  decide +kernel

/-- Packet 1 at the router of a hall, of a class. -/
def meshed (hall cls : Nat) : State :=
  { house (task []) with net := { mesh := [(hall, { packet 1 0 with cls := cls, srcHall := hall })], passed := [(3, 32)] } }

theorem meets_NetworkAndLinks_mesh :
    (meshed 1 0).net.mesh.find? (fun e => e.1 == 1 && e.2.id == 1) = some (1, { packet 1 0 with cls := 0, srcHall := 1 }) ∧
    ((neighbours 1).filter fun x => decide (meshHops x 0 < meshHops 1 0)).head? = some 0 ∧ tfind (meshed 1 0).net.routes (32 * 1 + 0) = none ∧
    (meshed 1 0).waitingAt 1 1 = [] ∧ directionOf 1 0 = 1 ∧ neighbour 1 1 = some 0 ∧ (meshed 1 0).held 1 { packet 1 0 with cls := 0, srcHall := 1 } = false ∧
    (meshed 1 0).linkTakes 1 0 (packet 1 0) = true ∧
    ({ meshed 1 0 with net := { (meshed 1 0).net with holding := true } } : State).held 1 { packet 1 0 with cls := 0, srcHall := 1 } = true ∧
    ({ meshed 1 0 with net := { (meshed 1 0).net with links := [(linkOf 1 0, { retraining := true })] } } : State).linkTakes 1 0 (packet 1 0) = false ∧
    tget 0 (meshed 0 0).net.passed (4 * 0 + 3) = 32 ∧ tget 0 (meshed 0 0).net.passed (4 * 0 + 2) < 32 := by
  decide +kernel

/-- Packet 1 on the link from a hall to its neighbour in direction 1, from 1 to 0 or from 5 to 4, on its way to hall 0. -/
def linked (from' hall : Nat) (net : Net) : State :=
  { house (task []) with net := { net with links := [(linkOf from' hall, { retry := [(from', { packet 1 0 with dir := some 1 })] })] } }

theorem meets_NetworkAndLinks_on :
    (linked 1 0 {}).net.mesh = [] ∧ (linked 1 0 {}).onLink 1 1 = some (linkOf 1 0, 1, { packet 1 0 with dir := some 1 }) ∧ linkOf 1 0 < 52 ∧ neighbour 1 1 = some 0 ∧
    ((linked 1 0 {}).link (linkOf 1 0)).up = true ∧ ((linked 1 0 {}).link (linkOf 1 0)).retraining = false ∧
    ((linked 1 0 {}).link (linkOf 1 0)).leads 1 { packet 1 0 with dir := some 1 } = true ∧ (linked 5 4 {}).onLink 5 1 = some (linkOf 5 4, 5, { packet 1 0 with dir := some 1 }) ∧
    neighbour 5 1 = some 4 ∧ ((linked 5 4 {}).choose 4 { packet 1 0 with dir := some 1 }).2 = some 1 ∧ (packet 1 0).leg ≠ 2 ∧ neighbour 4 1 = some 1 ∧
    tget false (linked 5 4 {}).net.token (4 * 4 + 1) = false ∧ (linked 5 4 {}).linkTakes 4 1 { packet 1 0 with dir := some 1 } = true ∧
    tget false (linked 5 4 { token := [(17, true)] }).net.token (4 * 4 + 1) = true := by
  decide +kernel

/-- Packet 1 for port 248 of hall 0, behind which lie gable ford 52 and its memory, in the last stage of the sluice of hall 0; or on that link, in one of the two ways. -/
def gable (tag : Option Nat) : State :=
  let p := { packet 1 0 with dstPort := 248 }
  { house (task []) with
    net := match tag with
      | none => { sluice := [{ hall := 0, stage := 7, line := 0, pkt := p }] }
      | some t => { links := [(52, { retry := [(t, p)] })] } }

theorem meets_NetworkAndLinks_gable :
    ((gable none).net.sluice.filter fun e => e.hall == 0 && e.stage == 7 && switchOf e.line == 0) = [{ hall := 0, stage := 7, line := 0, pkt := { packet 1 0 with dstPort := 248 } }] ∧
    attachOf 0 248 = some 52 ∧ ((gable none).link 52).up = true ∧ ((gable none).link 52).room 0 { packet 1 0 with dstPort := 248 } = true ∧ (gable none).net.mesh = [] ∧
    (({ gable none with net := { (gable none).net with links := [(52, { retraining := true })] } } : State).link 52).room 0 { packet 1 0 with dstPort := 248 } = false ∧
    (gable (some 0)).onLink 0 1 = some (52, 0, { packet 1 0 with dstPort := 248 }) ∧ (gable (some 32)).onLink 0 1 = some (52, 32, { packet 1 0 with dstPort := 248 }) ∧
    ((gable (some 0)).link 52).leads 0 { packet 1 0 with dstPort := 248 } = true ∧ ((gable (some 32)).link 52).leads 32 { packet 1 0 with dstPort := 248 } = true ∧
    ((gable (some 0)).link 52).retraining = false ∧ (sluiced 6 0 true).urgent (packet 2 0) = false ∧ ({ packet 1 1 with dstPort := 0 } : Packet).dstHall ≠ 0 := by
  decide +kernel

theorem meets_NetworkAndLinks_ways :
    (meshed 1 0).passable 1 0 = true ∧ (packet 1 0).splits = false ∧ (gable none).passable 0 1 = true ∧
    ((linked 1 0 {}).link (linkOf 1 0)).retry.all (fun x => decide (x.2.id = 1) && x.1 == 1) = true ∧
    ((linked 5 4 {}).link (linkOf 5 4)).retry.all (fun x => decide (x.2.id = 1) && x.1 == 5) = true := by
  decide +kernel

theorem meets_NetworkAndLinks_recalibrating :
    (({ house (task []) with net := { links := [(71, { recal := 1 })] } } : State).link 71).recal ≠ 0 ∧ ((house (task [])).link 71).halfBegun + 125000 ≤
      ({ house (task []) with clock := { cc := 125000 } } : State).clock.cc := by
  decide

theorem meets_NetworkAndLinks_links :
    ((house (task [])).link 71).retraining = false ∧ (({ house (task []) with net := { links := [(71, { retraining := true })] } } : State).link 71).retraining = true ∧
    (({ house (task []) with net := { links := [(71, { retraining := true })] } } : State).link 71).begun + 125000 ≤
      ({ house (task []) with clock := { cc := 125000 } } : State).clock.cc ∧
    ((house (task [])).link 0).up = true ∧ ((house (task [])).link 0).halfA = true ∧ ((house (task [])).link 0).recal = 0 ∧
    (({ house (task []) with net := { links := [(0, { up := false })] } } : State).link 0).up = false ∧
    (({ house (task []) with net := { links := [(71, { recal := 1 })] } } : State).link 71).recal = (if false then 2 else 1) ∧
    (({ house (task []) with net := { links := [(71, { recal := 2 })] } } : State).link 71).recal = (if true then 2 else 1) ∧
    (house (task [])).attic.holding = false ∧ (house (task [])).net.mesh = [] ∧ (house (task [])).net.links = [] ∧ (72 : Nat) ≤ 72 := by
  decide

/-- A plain request that was lost: its link is out, and 20 µs have passed; it waits with what its bundle has begun, or it travels. -/
def lostRequest (travels : Bool) : State :=
  { house { task [] with status := .waiting .reply, flying := if travels then some (localAddr 1 0x100) else none } with
    clock := { cc := 25000 }, before := if travels then [] else [(0, { ctx := task [], at' := localAddr 1 0x100 })], net := { links := [(0, { up := false })] } }

theorem meets_NetworkAndLinks_timeout :
    [true, false].all (fun travels => let s := lostRequest travels
      decide ((s.ctx 0).status = .waiting .reply ∧ s.net.links = [(0, { up := false })] ∧ s.net.packets = [] ∧ s.net.arrived = [] ∧ s.agenda = [] ∧
        (s.ctx 0).parkedAt + 25000 ≤ s.clock.cc ∧ (s.ctx 0).lateFault = none ∧ (s.ctx 0).lnum ≠ 0)) = true ∧
    tfind (lostRequest false).before 0 = some { ctx := task [], at' := localAddr 1 0x100 } ∧ (task []).lnum ≠ 0 ∧ ((lostRequest false).ctx 0).flying = none ∧
    ((lostRequest true).ctx 0).flying = some (localAddr 1 0x100) ∧ tfind (lostRequest true).before 0 = none := by
  decide +kernel

/-- Task 5 stopped on a trap, with a handler or none, and its launch with one entry of fault area at 0x8000 of the store of core 0. -/
def faulting (hnd : Word) : State :=
  { house { task [] with status := .faulted { kind := 15 }, hnd := hnd } with
    launches := [(1, { live := 1, wings := [0], farea := localAddr 0 0x8000, fcap := 1 })] }

theorem meets_FaultsAreHandedOver :
    ((faulting 1).ctx 0).status = .faulted { kind := 15 } ∧ ((faulting 1).ctx 0).relaxed = [] ∧ ((faulting 1).ctx 0).frontQ = [] ∧ ((faulting 1).ctx 0).image = 0 ∧ (faulting 1).copiesOf 0 ((faulting 1).ctx 0).gid = [] ∧
    (faulting 1).tilesOf 0 ((faulting 1).ctx 0).gid = [] ∧ ((faulting 1).ctx 0).asked = none ∧ (faulting 1).attic.dump.requested = false ∧
    (faulting 1).gangsOf ((faulting 1).ctx 0).lnum ((faulting 1).ctx 0).grp = [] ∧ ((faulting 1).ctx 0).rlog = [] ∧ ((faulting 1).ctx 0).pinned = false ∧
    ((faulting 1).ctx 0).others = [] ∧ (faulting 1).rooms = [] ∧
    (faulting 1).launch? ((faulting 1).ctx 0).lnum = some { live := 1, wings := [0], farea := localAddr 0 0x8000, fcap := 1 } ∧
    ((faulting 1).ctx 0).hnd ≠ 0 ∧ ((faulting 0).ctx 0).hnd = 0 ∧ ({ live := 1, wings := [0] } : Launch).serialsLeft ((faulting 1).hallOf (coreOf 0) / 4) = true := by
  decide

theorem meets_FaultsAreHandedOver_entry :
    ∃ u js, (faulting 1).freeEntries 0 { live := 1, wings := [0], farea := localAddr 0 0x8000, fcap := 1 } 1 0 = .ok u js ∧ decide (js = [0]) = true := by
  exact house_ex _ (by decide +kernel)

/-- No entry of the fault area is free, and no spawn serial is left. -/
theorem meets_FaultsAreHandedOver_none :
    (∃ u js, (faulting 1).freeEntries 0 { live := 1, wings := [0], farea := localAddr 0 0x8000, fcap := 0 } 1 0 = .ok u js ∧ decide (js = []) = true) ∧
    ({ live := 1, wings := [0], spawnNext := 0x1_0000_0000_0000 } : Launch).serialsLeft 0 = false := by
  exact ⟨house_ex _ (by decide +kernel), by decide⟩

/-- Two members of gang group 0 of launch 1: the one in slot 0 stopped on a trap, the one in slot 1 ready, and another on its way. -/
def ganged : State :=
  { house { task [] with status := .faulted { kind := 15 }, grp := 0x8000 } with
    ctxs := [(0, { task [] with status := .faulted { kind := 15 }, grp := 0x8000 }), (1, { task [] with grp := 0x8000 })]
    launches := [(1, { live := 3, wings := [0], groups := [{ first := 0, gang := true, count := 3, stride := 1, bar := 0 }] })]
    flights := [(3, { target := 1, origin := 0, task := { task [] with grp := 0x8000 } })] }

theorem meets_ContextsAreStopped :
    6143 < 6144 ∧ 0x3_FFFF < 0x4_0000 ∧ 0 < (15 : Nat) ∧
    (({ State.reset with ctxs := [(16 * 6143 + 15, task [])] } : State).ctx (16 * 6143 + 15)).status = .ready ∧ (task []).lnum ≠ 0 ∧ (task []).lateFault = none ∧
    (ganged.ctx 0).status = .faulted { kind := 15 } ∧ (ganged.ctx 1).status = .ready ∧
    1 ∈ ganged.gangMembers 1 (ganged.gangClosure 1 1 (ganged.gangsOf 1 (ganged.ctx 0).grp)) ∧
    ganged.gangFlying 1 (ganged.gangClosure 1 1 (ganged.gangsOf 1 (ganged.ctx 0).grp)) = true := by
  decide

theorem meets_ContextsAreStopped_memory :
    (∀ k, k < 16 → (({ State.reset with ctxs := [(16 * 6143 + 15, task [])] } : State).ctx (16 * 6143 + k)).status ≠ .waiting .reply ∧
      (({ State.reset with ctxs := [(16 * 6143 + 15, task [])] } : State).ctx (16 * 6143 + k)).status ≠ .waiting .mfield) ∧
    State.reset.parked = [] ∧ ganged.parked = [] ∧ (house (task [])).parked = [] ∧ ((house (task [])).ctxs.map (·.1)).Pairwise (· < ·) ∧
    (house (task [])).ctxs.all (fun e => decide (e.2.status = .ready)) = true := by
  decide

/-- A bundle whose request travels has begun nothing. -/
theorem meets_ContextsAreStopped_travelling :
    let s := house { task [] with status := .waiting .reply, flying := some (localAddr 1 0x100) }
    (s.ctx 0).status = .waiting .reply ∧ (s.ctx 0).flying.isSome = true ∧ (s.ctx 0).given = none ∧ tfind s.before 0 = none := by
  decide

theorem meets_ContextsAreStopped_untold :
    ({ house (task []) with preempts := [{ kind := 0, halls := 0, which := 0, service := true, command := true }] } : State).preempts.find?
      (fun p => p.kind == 0 && p.halls == 0 && p.which == 0 && !(house (task [])).removal p) =
        some { kind := 0, halls := 0, which := 0, service := true, command := true } ∧
    ({ kind := 0, halls := 0, which := 0, service := true, command := true } : Preempt).told = false := by
  decide

theorem meets_ContextsAreStopped_preempt :
    preemptOk 4 0xFFFF_FFFF 0x0001_0000_0000_0005 = true ∧ preemptOk 5 0 0 = false ∧ (house (task [])).preempts = [] ∧ (house (task [])).flights = [] ∧
    (house (task [])).attic.holding = false ∧ (house (task [])).attic.releasing = [] ∧ (house (task [])).attic.releases = [] ∧ (house (task [])).halls = [] ∧
    covers { kind := 4, halls := 0xFFFF_FFFF, which := 0x0001_0000_0000_0005, service := false } ((house (task [])).hallOf (coreOf 0)) ((house (task [])).ctx 0).gid
      ((house (task [])).ctx 0).queue = true ∧
    ({ house (task []) with preempts := [{ kind := 0, halls := 0, which := 0, service := true, told := true }] } : State).preempts.find?
      (fun p => p.kind == 0 && p.halls == 0 && p.which == 0 && !(house (task [])).removal p) = some { kind := 0, halls := 0, which := 0, service := true, told := true } := by
  decide

/-- A context halted for a pre-emption or for debug, in a hall whose state pool has one block, which the port's TLB maps to HBM. -/
def halted (park : Nat) : State :=
  { house { task [] with status := .halted park } with
    ctxs := [(1, { task [] with status := .halted park })]
    halls := [(0, { poolBase := 0x100_0000_0000, poolCount := 1 })]
    tlbs := [(1024, [{ base := 1024, size := 30, leaf := 0xF_0000_0000_0002 }])] }

theorem meets_ContextsAreStopped_image :
    ((halted 2).ctx 1).status = .halted 2 ∧ ((halted 2).ctx 1).relaxed = [] ∧ ((halted 2).ctx 1).frontQ = [] ∧ (halted 2).copiesOf 1 ((halted 2).ctx 1).gid = [] ∧
    (halted 2).tilesOf 1 ((halted 2).ctx 1).gid = [] ∧ ((halted 2).ctx 1).asked = none ∧ ((halted 2).ctx 1).image = 0 ∧ ((halted 2).ctx 1).rlog = [] ∧
    ((halted 2).ctx 1).pinned = false ∧ slotOf 1 ≠ 0 ∧ ((halted 4).hall 0).freeBlock = some 0 := by
  decide

theorem meets_ContextsAreStopped_block :
    (∃ u ps, ((halted 2).takeCommands 1).blockPages 0 0x100_0000_0000 rR = .ok u ps ∧ decide (ps.length = 16) = true) ∧
      (∃ u ps, ((halted 2).takeCommands 1).blockPages 0 0x100_0000_0000 rW = .ok u ps ∧ decide (ps.length = 16) = true) ∧
      (halted 2).incomplete 1 = false := by
  exact ⟨house_ex _ (by decide +kernel), house_ex _ (by decide +kernel), by decide⟩

theorem meets_ContextsAreStopped_frozen :
    ({ faulting 0 with attic := { dump := { requested := true } } } : State).attic.dump.requested = true ∧ (faulting 0).attic.dump.requested = false ∧ ((faulting 0).hall 0).freeze.length < 64 := by
  decide

theorem meets_ContextsAreStopped_freezes :
    (faulting 0).freezes 0 = false ∧ ({ faulting 0 with attic := { dump := { requested := true } } } : State).freezes 0 = true ∧
    ({ faulting 0 with attic := { dump := { requested := true, before := [0] } } } : State).freezes 0 = false := by
  decide

/-- A context halted for debug, whose image stands at 0x8000 of the store of core 0. -/
def debugged : State := withImage (house { task [] with status := .halted 4, image := localAddr 0 0x8000 }) 0x8000

theorem meets_StoppedTasksGoOn_reload :
    (debugged.ctx 0).status = .halted 4 ∧ (debugged.ctx 0).image ≠ 0 ∧ (debugged.ctx 0).pinned = false ∧ (debugged.ctx 0).parkedPc = none ∧
    (debugged.ctx 0).asked = none ∧ tfind debugged.images (debugged.ctx 0).image = some { gid := 0x0001_0000_0000_0007, lrec := 0, queue := 0, hall := 0 } ∧
    imageOk [] { gid := 0x0001_0000_0000_0007, lrec := 0, queue := 0, hall := 0 } = false ∧ ((house (task [])).ctx 0).image = 0 := by
  decide

theorem meets_StoppedTasksGoOn_image :
    ∃ u ws, debugged.houseRead 0 (localAddr 0 0x8000) 64 = .ok u ws ∧
      (imageOk ws { gid := 0x0001_0000_0000_0007, lrec := 0, queue := 0, hall := 0 } &&
        match u.blockOk 0 ws (localAddr 0 0x8000) with | .ok _ b => b | _ => false) = true := by
  exact house_ex _ (by decide +kernel)

theorem meets_StoppedTasksGoOn_claims :
    ((house { task [] with status := .waiting .reestablish, want := 1 }).ctx 0).status = .waiting .reestablish ∧
    ((house { task [] with want := 1 }).ctx 0).lanes ≠ claimLanes ((house { task [] with want := 1 }).ctx 0).want ∧
    ((house { task [] with want := 0x1_0000 }).ctx 0).lanes = claimLanes ((house { task [] with want := 0x1_0000 }).ctx 0).want ∧
    ((house { task [] with want := 0x1_0000 }).ctx 0).tile ≠ claimSet ((house { task [] with want := 0x1_0000 }).ctx 0).want ∧
    ((house (task [])).room 0).vwait.any (·.1 == 0) = false ∧ ((house (task [])).room 0).twait.any (·.1 == 0) = false := by
  decide

/-- A handler of launch 1 with the address of the image of entry 0 of its fault area in g1. -/
def handling : State :=
  { (withImage (house (task [(1, word (localAddr 0 0x8040))])) 0x8040).store (localAddr 0 0x8000) 8 1 with
    launches := [(1, { live := 2, used := 1, farea := localAddr 0 0x8000, fcap := 1 })] }

theorem meets_StoppedTasksGoOn :
    handling.Quiet ∧ handling.src = handling.me ∧ handling.me.status.going = true ∧
    handling.launch? handling.src.lnum = some { live := 2, used := 1, farea := localAddr 0 0x8000, fcap := 1 } ∧ localAddr 0 0x8000 + 64 ≤ (handling.rg 1).toNat ∧
    ((handling.rg 1).toNat - 64 - localAddr 0 0x8000) % 576 = 0 ∧ ((handling.rg 1).toNat - 64 - localAddr 0 0x8000) / 576 < 1 ∧
    tfind handling.images (handling.rg 1).toNat = some { gid := 0x0001_0000_0000_0007, lrec := 0, queue := 0, hall := 0 } ∧
    fld (0x0001_0000_0000_0007 : Word) 63 48 = handling.src.lnum := by
  refine ⟨?_, ?_, ?_, ?_, ?_, ?_, ?_, ?_, ?_⟩ <;> first | decide | exact And.intro (by decide) (by decide)

theorem meets_StoppedTasksGoOn_entry :
    (∃ u hd, handling.ownSpan (localAddr 0 0x8000) rR 8 = .ok u hd ∧ decide (((hd.take 1).map fun p => handling.get p 1) ≠ [0]) = true) ∧
      (∃ u ps, handling.ownSpan (localAddr 0 0x8040) rR 64 = .ok u ps ∧
        (imageOk (ps.map fun p => handling.loadW p.key) { gid := 0x0001_0000_0000_0007, lrec := 0, queue := 0, hall := 0 } &&
          (imgWord (ps.map fun p => handling.loadW p.key) 0x180 == handling.src.lrec) && (imgWord (ps.map fun p => handling.loadW p.key) 0x188 == 0)) = true) ∧
      ∃ u qs, handling.ownSpan (localAddr 0 0x8000) rW 1 = .ok u qs ∧ decide (qs.length = 1) = true := by
  exact ⟨house_ex _ (by decide +kernel), house_ex _ (by decide +kernel), house_ex _ (by decide +kernel)⟩

/-- Hall 31 with a trace ring of 64 KiB at the beginning of paged space, in HBM; and a dump in a state. -/
def traced (wr : Nat) (dump : Dump) : State :=
  { house (task []) with
    halls := [(31, { ring := { base := 0x100_0000_0000, size := 0x1_0000, wr := wr } })]
    tlbs := [(31 * 16 * 2048 + 1024, [{ base := 1024, size := 30, leaf := 0xF_0000_0000_0002 }])]
    attic := { dump := dump } }

theorem meets_ObservationAndDumps :
    ((traced 0xFFE0 {}).hall 31).ring.full = true ∧ ((traced 0 {}).hall 31).ring.full = false ∧ ((traced 0 {}).hall 31).ring.dropped = 0 ∧
    fld (8 : Word) 63 58 = 0 ∧ fld (8 : Word) 2 0 = 0 ∧ fld (7 : Word) 2 0 ≠ 0 ∧ fld (0xC000_0000_0000_00FF : Word) 61 48 = 0 ∧ fld (0xC000_0000_0000_00FF : Word) 15 8 = 0 ∧
    (traced 0 {}).attic.dump.running = false ∧ (traced 0 { status := 3, requested := true, writer := 15 }).attic.dump.running = true ∧ (traced 0 {}).attic.dump.taken = false ∧ (traced 0 { taken := true, writer := 15 }).attic.dump.taken = true ∧
    (traced 0 { status := 3, requested := true }).attic.dump.progress.toNat < (1 : Word).toNat ∧ (traced 0 { status := 3, requested := true, writer := 15 }).attic.dump.requested = true ∧
    (traced 0 { status := 3, requested := true, writer := 15 }).attic.dump.writer = 15 ∧
    dumpOrder.find? (fun k => !(([] : List (Nat × Nat)).any fun x => x.1 == k)) = some 3 ∧ (dumpOrder.all fun k => dumpOrder.any (· == k)) = true ∧
    (traced 0 { status := 3, beatAt := 1 }).now < (traced 0 { status := 3, beatAt := 1 }).attic.dump.beatAt + 100000000 := by
  decide

theorem meets_ObservationAndDumps_holding :
    (traced 0 { status := 3, requested := true, writer := 15 }).attic.holding = false ∧
    ({ house (task []) with attic := { holding := true } } : State).attic.holding = true := by
  decide

/-- A context parked on a translation fault at a bundle that entry 0 of its hall's stop table names. -/
def parkedStop : State :=
  { house { task [] with status := .waiting (.translation 0x100_0000_0000 .load .invalid) } with
    halls := (List.range 32).map fun h => (h, { stops := [(0, { who := 0x0001_0000_0000_0005, hdr := word (localAddr 0 0), ctl := 0xC000_0000_0000_0000 })] }) }

theorem meets_ObservationAndDumps_stop :
    (State.stopped? { parkedStop with cur := 0 }).isSome = true ∧ (parkedStop.ctx 0).status = .waiting (.translation 0x100_0000_0000 .load .invalid) ∧
    fld (word (localAddr 0 0)) 63 58 = 0 ∧ fld (word (localAddr 0 0)) 2 0 = 0 ∧ fld (0xC000_0000_0000_0000 : Word) 61 48 = 0 := by
  decide +kernel

theorem meets_ObservationAndDumps_ring :
    ∃ u x, (traced 0 {}).houseWrite 31 0x100_0000_0000 [1, 2, 3, 4] = .ok u x ∧ decide (u.cur = 0) = true := by
  exact house_ex (fun u _ => decide (u.cur = 0)) (by decide +kernel)

theorem meets_ObservationAndDumps_keeper :
    ∃ x, keepTree 0x100_0000_0000 treeHouse = .ok x ∧ decide (x.2.cur = 0) = true := by
  exact except_ex _ (by decide +kernel)

theorem meets_HouseCommands :
    (2 ^ 57) % 2 ^ (16 + 41) = 0 ∧ 2 ^ 57 + 2 ^ (16 + 41) ≤ 2 ^ 58 ∧ unitOf 0x100_0000_0000 = .paged ∧ 0x100_0000_0000 % 0x10_0000 = 0 ∧
    ((house (task [])).hall 31).poolUsed = [] ∧ ((halted 2).hall 0).poolCount ≤ 65535 ∧ (halted 2).inHbm 0 0x100_0000_0000 (0x10_0000 * 1) [rR, rW] = true ∧ (house (task [])).attic.holding = false ∧
    ({ house (task []) with attic := { holding := true } } : State).attic.holding = true ∧ (32 : Nat) < ((traced 0 {}).hall 31).ring.size ∧
    ((house (task [])).hall 31).images = [] ∧ ((house (task [])).hall 31).service = .inService ∧ (house (task [])).hallUp 31 = true ∧
    (({ house (task []) with halls := [(31, { service := .leaving })] } : State).hall 31).service = .leaving ∧ (house (task [])).drained 31 = true ∧
    (({ house (task []) with halls := [(31, { service := .offline })] } : State).hall 31).service = .offline ∧
    (({ house (task []) with halls := [(31, { poolUsed := [0] })] } : State).hall 31).poolUsed ≠ [] ∧ (house (task [])).root.1 ≠ 23 ∧ 23 ∉ (house (task [])).retired ∧
    ((house (task [])).core (192 * 31 + 191)).closed = false ∧ ((house (task [])).ctx (16 * (192 * 31 + 191))).status = .vacant ∧
    ((house (task [])).ctx (16 * (192 * 31 + 191))).image = 0 := by
  decide +kernel

theorem meets_HouseCommands_adding :
    (splitting 32).adding (0, 1) = false ∧
    ({ splitting 32 with net := { arrived := [{ packet 1 0 with op := 32, who := [(0, 1)] }] } } : State).adding (0, 1) = true ∧
    ((splitting 32).ctx 0).amo = some { id := 1, d := 3, h := 0, place := .house 0 } ∧
    ((house (task [])).attic.cmds.filter fun c => c.event == some (.hallService 31 false)).length ≤ 1 := by
  decide +kernel

/-- An image of hall 0 at the end of the block at 0x100_0010_0000 of paged space; the pools of hall 0 and hall 1 have a block each at the beginning of paged space. -/
def pooled : State :=
  { house (task []) with
    halls := [(0, { images := [0x100_001F_FE00] }), (1, { poolBase := 0x100_0000_0000, poolCount := 1 })]
    images := [(0x100_001F_FE00, { gid := 0x0001_0000_0000_0007, lrec := 0, queue := 0, hall := 0 })]
    tlbs := [(1024, [{ base := 1024, size := 30, leaf := 0xF_0000_0000_0002 }]), (16 * 2048 + 1024, [{ base := 1024, size := 30, leaf := 0xF_0000_0000_0002 }])] }

theorem meets_HouseCommands_images :
    pooled.hallUp 1 = true ∧ tfind pooled.images 0x100_001F_FE00 = some { gid := 0x0001_0000_0000_0007, lrec := 0, queue := 0, hall := 0 } ∧
    (pooled.hall 1).freeBlock = some 0 ∧ (pooled.hall 0).images = [0x100_001F_FE00] ∧ (pooled.hall 0).service ≠ .leaving ∧
    (pooled.hall 1).block 0 + 0xF_FE00 ≠ 0x100_001F_FE00 ∧ 0xF_FE00 ≤ (0x100_001F_FE00 : Nat) ∧
    ({ house (task []) with wings := [(7, { up := false })] } : State).hallUp 31 = false ∧
    ({ pooled with images := [] } : State).moveAll 0 1 (pooled.hall 0).images = none ∧ pooled.attic.holding = false ∧
    (({ house (task []) with halls := [(0, { service := .leaving })] } : State).hall 0).service = .leaving ∧
    ({ State.reset with halls := [(0, { service := .leaving })] } : State).drained 0 = true := by
  decide +kernel

theorem meets_HouseCommands_blocks :
    ∃ u ps, pooled.blockPages 0 0x100_0010_0000 rR = .ok u ps ∧
      (match pooled.blockPages 1 0x100_0000_0000 rW with
        | .ok _ qs => decide (ps = (List.range 16).map (fun i => Phys.hbm 0 (0x10_0000 + 0x1_0000 * i)) ∧ qs = (List.range 16).map fun i => Phys.hbm 0 (0x1_0000 * i))
        | _ => false) = true := by
  exact house_ex _ (by decide +kernel)

/-- System core 15 has named a descriptor at 0x40 of its memory, of the command of a code. -/
def commanded (code : Word) : State :=
  { house (task []) with attic := { cmds := [{ core := 15, desc := 0x40 }], memory := [(8, code), (9, 0x100_0000_0000), (10, 0x1_0000)] } }

theorem meets_HouseCommands_registers :
    ((commanded 1).attic.cmds.find? fun c => c.core == 15) = some { core := 15, desc := 0x40 } ∧ ((commanded 1).attic.cmds.find? fun c => c.core == 0) = none ∧
    commandOf ((commanded 1).attic.descriptor 0x40) = some (.invalidateTranslations 0x100_0000_0000 0x1_0000) ∧
    commandOf ((commanded 14).attic.descriptor 0x40) = none ∧ commandOf ((commanded 0).attic.descriptor 0x40) = none ∧
    fld (word 256) 63 8 ≠ 0 ∧
    (match Command.perform (commanded 1) (.invalidateTranslations 0x100_0000_0000 0x1_0000) with | .next _ => true | _ => false) = true := by
  decide +kernel

theorem meets_HouseCommands_tables :
    (∀ k, memLoad ([] : List Host.Cell) (hbmKey 0 k) 8 = 0) ∧ tableNames [] 23 [0, 1, 2, 3] 0 0 = false := by
  have h : ∀ st k, memLoad ([] : List Host.Cell) (hbmKey st k) 8 = 0 := by
    intro st k
    have hb : ∀ j, memGet ([] : List Host.Cell) (hbmKey st k + j) = 0 := by
      intro j
      have hk : ¬ (0x4_0000_0000 ≤ hbmKey st k + j ∧ hbmKey st k + j < 0x4_0200_0000 ∧ (hbmKey st k + j) % 16 = 8) := by unfold hbmKey; omega
      simp [memGet, tget, tfind, blank, if_neg hk]
    simp only [memLoad, Nat.add_assoc]
    have h0 := hb 0
    simp only [Nat.add_zero] at h0
    simp [h0, hb]
  refine ⟨h 0, ?_⟩
  have hn : ∀ ls st addr, tableNames ([] : List Host.Cell) 23 ls st addr = false := by
    intro ls; induction ls with
    | nil => intros; rfl
    | cons l ls ih =>
      intro st addr
      simp only [tableNames, List.any_eq_false, h]
      intro i _
      have hz : fld (word 0) 1 0 = 0 := by decide
      simp [hz]
  exact hn _ _ _

theorem meets_HouseCommands_hearths :
    (∃ u ws, (house (task [])).houseRead 0 (localAddr 0 0x4000) 8 = .ok u ws ∧ (ws.drop 3).all (· == 0) = true) ∧
      ∃ u ss, (house (task [])).houseRead 0 (localAddr 0 0) 16 = .ok u ss ∧ decide (localAddr 0 0x4000 % 64 = 0) = true := by
  exact ⟨house_ex _ (by decide +kernel), house_ex (fun _ _ => decide (localAddr 0 0x4000 % 64 = 0)) (by decide +kernel)⟩

theorem meets_TimeAndEbbs :
    (house (task [])).attic.holding = false ∧ (house (task [])).clock.active = none ∧ ({ house (task []) with clock := { active := some 1 } } : State).clock.active = some 1 ∧
    0xC000_0000 ≤ (0xD999_999A : Nat) ∧ (0xBFFF_FFFF : Nat) < 0xC000_0000 ∧ (house (task [])).clock.timeState = 3 ∧ (house (task [])).clock.ebbFixed = false ∧
    (house (task [])).clock.launched = false ∧ (house (task [])).halls = [] ∧ (house (task [])).clock.counterSet = false ∧
    ({ house (task []) with clock := { ebbFixed := true, counterSet := true, launched := true, timeState := 0 } } : State).clock.timeState ≠ 3 ∧
    (0 + 2 ^ 62) / 2 ^ 32 / 2 ^ 30 ≠ 0 / 2 ^ 32 / 2 ^ 30 ∧ (15 + 1) % 16 = 0 := by
  decide

theorem meets_TimeAndEbbs_ports :
    (house (task [])).attic.cmds = [] ∧ ({ house (task []) with clock := { active := some 1 } } : State).clock.active = some 1 ∧ (1 : Nat) ≠ 0 ∧
    (house (task [])).clock.active = none := by
  decide

theorem meets_TimeAndEbbs_ebb :
    (house (task [])).now / 2 ^ (house (task [])).clock.ebbE = (house (task [])).clock.ebbSeen ∧
    ({ house (task []) with clock := { ebbSeen := 5 } } : State).now / 2 ^ 30 ≠ ({ house (task []) with clock := { ebbSeen := 5 } } : State).clock.ebbSeen ∧
    ((house { task [] with status := .waiting (.ebb 0) }).ctx 0).status = .waiting (.ebb 0) ∧ ((house (task [])).ctx 0).given = none ∧
    ((house (task [])).hall 31).pendFade.find? (·.1 == 262143) = none := by
  decide

theorem meets_ResetAndBoot :
    (house (task [])).attic.running = false ∧ (house (task [])).attic.holding = false ∧ (house (task [])).attic.rollback ≤ 0 ∧
    ({ house (task []) with attic := { rollback := 1 } } : State).attic.rollback > 0 ∧ ({ house (task []) with attic := { running := true, unconfirmed := true } } : State).attic.unconfirmed = true ∧
    0 + 12500000000 ≤ ({ house (task []) with clock := { cc := 12500000000 } } : State).clock.cc ∧ (house (task [])).clock.cc < 0 + 12500000000 ∧ (house (task [])).attic.go = false ∧
    ({ house (task []) with attic := { running := true } } : State).attic.keyErased = false ∧ ({ house (task []) with attic := { alarmLevel := 2 } } : State).attic.alarmLevel = 2 ∧
    ({ house (task []) with attic := { holding := true, keyErased := true } } : State).attic.keyErased = true ∧ ((house (task [])).ctx 0).status = .ready := by
  decide

theorem meets_AbsentUnitsStop :
    6240 ≤ (6240 : Nat) ∧ 609 ≤ (609 : Nat) ∧ 72 ≤ (72 : Nat) ∧ 6144 ≤ (6144 : Nat) ∧ 768 ≤ (768 : Nat) := by
  decide

theorem meets_StepRunsTheDecodedBundle :
    ∃ t, (∃ core, ready.agenda = [] ∧ ready.nextCore = some core ∧ exec (.issueCycle core) { ready with looked := core :: ready.looked } = .next t) ∧
      t.latch = some 0 ∧ (decodeBundle (t.ctx 0).bits).toOption = some (.nopS, .nopV) := by
  have h : (match exec (.issueCycle 0) { ready with looked := [0] } with
      | .next t => decide (t.latch = some 0 ∧ (decodeBundle (t.ctx 0).bits).toOption = some (.nopS, .nopV))
      | _ => false) = true := by decide +kernel
  cases e : exec (.issueCycle 0) { ready with looked := [0] } with
  | next t => rw [e] at h; exact ⟨t, ⟨0, rfl, by decide, e⟩, by simpa using h⟩
  | fault f => rw [e] at h; simp at h
  | refused r => rw [e] at h; simp at h

theorem meets_StepRunsTheDecodedBundle_bank :
    (ready.begin 0).losesPort .nopS .nopV = false ∧
    (State.begin { roaming with cores := [(1, { busy := 2 ^ 32 - 1 })] } 0).losesPort (.ldI 3 1 3 0 0 0) .nopV = true := by
  decide +kernel

/-- A load of paged space travels to its port; one of the core's own store executes at once, and so does one whose reply has come. -/
theorem meets_StepRunsTheDecodedBundle_travels :
    (match exec (.ldI 3 1 3 0 0 0) (paged (task [(1, at' 5 0)]) 0) with
      | .next t => t.travels' 0 (task []) && !t.travels' 0 { task [] with flying := some 0x100_0000_0000 }
      | _ => false) = true ∧
    (match exec (.ldI 3 1 3 0 0 0) (house (task [(1, at' 0 0x100)])) with
      | .next t => t.travels' 0 (task [])
      | _ => true) = false := by
  decide +kernel

theorem meets_StepRunsTheDecodedBundle_tick :
    ∃ t, State.reset.agenda = [] ∧ State.reset.nextCore = none ∧ exec .counterTick { State.reset with looked := [] } = .next t ∧ t.latch = none := by
  exact ⟨_, rfl, rfl, rfl, rfl⟩

theorem meets_EncodedSyllablesDecodeBack :
    (Instr.add 23 0 23).wf = true ∧ (Instr.vcvt 1 6 15 15 3 9 1 5).wf = true ∧ Instr.counterTick.wf = true := by
  decide

theorem meets_DecodedWordsAreEncodings :
    (decodeS 0x0430_8007).toOption = some (.addImm 3 1 7) ∧ (decodeV 0x4A40_8000).toOption = some (.tmma 2 1) := by
  decide

theorem meets_StepsKeepMemoryInForm :
    State.reset.MemOk ∧ ready.MemOk := by
  exact ⟨rfl, by unfold State.MemOk; decide⟩

theorem meets_StepsKeepMemoryInForm_step :
    ∃ t, step ready = .next t := by
  have h : (match step ready with | .next _ => true | _ => false) = true := by decide +kernel
  cases e : step ready with
  | next t => exact ⟨t, rfl⟩
  | fault f => rw [e] at h; simp at h
  | refused r => rw [e] at h; simp at h

theorem meets_RepresentableValuesAreKept :
    (fmt 6).val 0x3F80_0000 = .fin false 0x80_0000 (-23) ∧ 0x3F80_0000 < 2 ^ Machine.tyWidth 6 := by
  decide

/-- 12 R278: a load from the destination of the issuer's own TSCL.st sees a free value; a store to the source of its TSCL spoils the command. -/
theorem test_tile_hazards : after (.ldN 3 1 3 0 0 127) (tiledMem (.tsclSt 0 1)) (fun t => t.fresh == 1) = true ∧
    after (.st 3 1 3 0 0 127) (tiledMem (.tscl 0 1)) (fun t => (t.room 0).tileQ.all (·.spoilt)) = true := by decide +kernel

/-- 25 R431: HSTAT shows a running attic, the latched alarm level and the erased key. -/
theorem test_hstat : (({ house (task []) with attic := { running := true, alarm := 2, keyErased := true } } : State).register 8) = 0x19 := by decide

end Sys2Proof.Tests
end

section
/-! O59. Memory stands in its canonical form (`State.MemOk`) after every step. Only `State.store` and the clearing of a store or of a hall's
stations write memory; everything else leaves it as it stands. For each operation `f` of the house one lemma says that it keeps the form:
`State.MemOk.f` where it gives a state, so that the lemmas follow one another as the operations do (`hs.setHall.post`), and `f_memOk` where it
gives an answer. The lemmas stand in the order of the model, and each follows the branches of its operation. -/

namespace Sys2Proof.Machine

/-- Memory stands in its canonical form in the state that an instruction answers, if it answers one. -/
def ResOk : Res → Prop
  | .next t => t.MemOk
  | _ => True

/-- Memory stands in its canonical form in the state that there may be. -/
def OptOk : Option State → Prop
  | some t => t.MemOk
  | none => True

/-- Memory stands in its canonical form in the state of a result that is no error. -/
def ExcOk {ε : Type} : Except ε State → Prop
  | .ok t => t.MemOk
  | .error _ => True

/-- The state of an access that has been prepared, or that stops. -/
def Go.state : Go → State
  | .go s _ => s
  | .stop s => s

/-- The state in which the lanes of a vector access have been translated, or that leaves them. -/
def Lanes.state : Lanes → State
  | .ok s _ => s
  | .no r => r.state

/-- The state that a step of a tile command leaves. -/
def TStep.state : TStep → State
  | .more s => s
  | .last s => s
  | .wait s _ _ _ => s
  | .bad s _ => s
  | .later s => s

/-- The state after a fetch. -/
def Fetch.state : Fetch → State
  | .got s _ _ => s
  | .stop s => s

theorem State.MemOk.of_mem {s t : State} (h : s.MemOk) (e : t.mem = s.mem) : t.MemOk := by
  unfold State.MemOk
  rw [e]
  exact h

theorem State.MemOk.of_frame {s t u : State} (h : s.MemOk) (e : t = u) (hm : u.mem = s.mem) : t.MemOk := by
  subst e
  exact h.of_mem hm

/-! The state of a pair or of an answer, read from the equation that a case split leaves. -/

theorem State.MemOk.of_fst {α : Type} {x : State × α} {t : State} {a : α} (e : x = (t, a)) (h : x.1.MemOk) : t.MemOk := by subst e; exact h

theorem State.MemOk.of_ok {α : Type} {x : House α} {t : State} {a : α} (e : x = .ok t a) (h : x.state.MemOk) : t.MemOk := by subst e; exact h

theorem State.MemOk.of_wait {α : Type} {x : House α} {t : State} {n : Nat} {why : XReason} (e : x = .wait t n why) (h : x.state.MemOk) :
    t.MemOk := by subst e; exact h

theorem State.MemOk.of_bad {α : Type} {x : House α} {t : State} (e : x = .bad t) (h : x.state.MemOk) : t.MemOk := by subst e; exact h

theorem State.MemOk.of_go {x : Go} {t : State} {p : Phys} (e : x = .go t p) (h : x.state.MemOk) : t.MemOk := by subst e; exact h

theorem State.MemOk.of_stop {x : Go} {t : State} (e : x = .stop t) (h : x.state.MemOk) : t.MemOk := by subst e; exact h

theorem State.MemOk.of_done {x : Perf} {t : State} (e : x = .done t) (h : x.state.MemOk) : t.MemOk := by subst e; exact h

theorem State.MemOk.of_held {x : Perf} {t : State} {n : Nat} {acc : AccKind} {why : XReason} (e : x = .held t n acc why) (h : x.state.MemOk) :
    t.MemOk := by subst e; exact h

theorem State.MemOk.of_failed {x : Perf} {t : State} {k r n : Nat} (e : x = .bad t k r n) (h : x.state.MemOk) : t.MemOk := by subst e; exact h

theorem State.MemOk.of_got {x : Fetch} {t : State} {w : Word} {n : Nat} (e : x = .got t w n) (h : x.state.MemOk) : t.MemOk := by subst e; exact h

theorem State.MemOk.of_fetch_stop {x : Fetch} {t : State} (e : x = .stop t) (h : x.state.MemOk) : t.MemOk := by subst e; exact h

theorem State.MemOk.of_lanes_ok {x : Lanes} {t : State} {l : List Phys} (e : x = .ok t l) (h : x.state.MemOk) : t.MemOk := by subst e; exact h

theorem State.MemOk.of_lanes_no {x : Lanes} {r : Perf} (e : x = .no r) (h : x.state.MemOk) : r.state.MemOk := by subst e; exact h

theorem State.MemOk.of_tile_more {x : TStep} {t : State} (e : x = .more t) (h : x.state.MemOk) : t.MemOk := by subst e; exact h

theorem State.MemOk.of_tile_last {x : TStep} {t : State} (e : x = .last t) (h : x.state.MemOk) : t.MemOk := by subst e; exact h

theorem State.MemOk.of_tile_wait {x : TStep} {t : State} {n : Nat} {acc : AccKind} {why : XReason} (e : x = .wait t n acc why)
    (h : x.state.MemOk) : t.MemOk := by subst e; exact h

theorem State.MemOk.of_tile_bad {x : TStep} {t : State} {n : Nat} (e : x = .bad t n) (h : x.state.MemOk) : t.MemOk := by subst e; exact h

theorem State.MemOk.of_tile_later {x : TStep} {t : State} (e : x = .later t) (h : x.state.MemOk) : t.MemOk := by subst e; exact h

theorem ResOk.of_next {r : Res} {t : State} (e : r = .next t) (h : ResOk r) : t.MemOk := by subst e; exact h

theorem OptOk.of_some {r : Option State} {t : State} (e : r = some t) (h : OptOk r) : t.MemOk := by subst e; exact h

theorem optOk_of {r : Option State} (h : ∀ t, r = some t → t.MemOk) : OptOk r := by
  cases r with
  | none => trivial
  | some t => exact h t rfl

theorem ExcOk.of_ok {ε : Type} {r : Except ε State} {t : State} (e : r = .ok t) (h : ExcOk r) : t.MemOk := by subst e; exact h

theorem memOk_ite {c : Prop} {_ : Decidable c} {s t : State} (hs : s.MemOk) (ht : t.MemOk) : (if c then s else t).MemOk := by
  split
  · exact hs
  · exact ht

theorem resOk_ite {c : Prop} {_ : Decidable c} {r q : Res} (hr : ResOk r) (hq : ResOk q) : ResOk (if c then r else q) := by
  split
  · exact hr
  · exact hq

theorem memOk_foldl {α : Type} {f : State → α → State} {l : List α} {s : State} (hf : ∀ t, t.MemOk → ∀ a, (f t a).MemOk)
    (h : s.MemOk) : (l.foldl f s).MemOk := by
  induction l generalizing s with
  | nil => exact h
  | cons a l ih => exact ih (hf s h a)

variable {s : State}

theorem State.MemOk.store {s : State} {key n v : Nat} (h : s.MemOk) : (s.store key n v).MemOk := State.wf_store s key n v h

theorem memOk_id (t : State) (ht : t.MemOk) : (id t).MemOk := ht

theorem optOk_map {α : Type} {o : Option α} {f : α → State} (h : ∀ a, (f a).MemOk) : OptOk (o.map f) := by
  cases o with
  | none => trivial
  | some a => exact h a

/-- A state that may come of an attempt, and the one that stands if it does not. -/
theorem OptOk.getD {o : Option State} {t : State} (h : OptOk o) (ht : t.MemOk) : (o.getD t).MemOk := by
  cases o with
  | none => exact ht
  | some u => exact h

theorem optOk_findSome {α : Type} {f : α → Option State} {l : List α} (h : ∀ a, OptOk (f a)) : OptOk (l.findSome? f) := by
  induction l with
  | nil => trivial
  | cons a l ih =>
    rw [List.findSome?_cons]
    split
    · rename_i e
      exact (h a).of_some e
    · exact ih

theorem memOk_clear {lo hi : Nat} {t : State} (hs : s.MemOk) (e : t.mem = clearMem s.mem lo hi) : t.MemOk := by
  unfold State.MemOk
  rw [e]
  exact wf_tclear _ lo hi hs

theorem State.MemOk.setHall {h f} (hs : s.MemOk) : (s.setHall h f).MemOk := hs.of_mem rfl

theorem State.MemOk.setRoom {r f} (hs : s.MemOk) : (s.setRoom r f).MemOk := hs.of_mem rfl

theorem State.MemOk.setCore {k f} (hs : s.MemOk) : (s.setCore k f).MemOk := hs.of_mem rfl

theorem State.MemOk.setCtx {c f} (hs : s.MemOk) : (s.setCtx c f).MemOk := hs.of_mem rfl

theorem State.MemOk.setLaunch {n f} (hs : s.MemOk) : (s.setLaunch n f).MemOk := by
  unfold State.setLaunch
  split
  · exact hs.of_mem rfl
  · exact hs

end Sys2Proof.Machine

end

section
/-! Memory and paging: what an access finds at its place. -/

namespace Sys2Proof.Machine

variable {s : State}

theorem State.MemOk.setFull {h b} (hs : s.MemOk) : (s.setFull h b).MemOk := hs.of_mem rfl

theorem State.MemOk.lookup {port h} (hs : s.MemOk) : (s.lookup port h).1.MemOk := hs.of_frame (State.lookup_frame ..) rfl

theorem State.MemOk.reach {port h right} (hs : s.MemOk) : (s.reach port h right).1.MemOk := hs.of_mem (State.reach_mem ..)

end Sys2Proof.Machine

end

section
/-! Packets entering the network. -/

namespace Sys2Proof.Machine

variable {s : State}

theorem State.MemOk.post {e} (hs : s.MemOk) : (s.post e).MemOk := hs.of_mem rfl

theorem State.MemOk.postAll {es} (hs : s.MemOk) : (s.postAll es).MemOk := hs.of_mem rfl

theorem State.MemOk.finished {e result value} (hs : s.MemOk) : (s.finished e result value).MemOk := by
  unfold State.finished
  extract_lets
  split
  · exact hs.of_mem rfl
  · exact hs.of_mem rfl

theorem State.MemOk.setLink {n f} (hs : s.MemOk) : (s.setLink n f).MemOk := hs.of_mem rfl

theorem State.MemOk.choose {hall p} (hs : s.MemOk) : (s.choose hall p).1.MemOk := hs.of_frame (State.choose_frame ..) rfl

theorem State.MemOk.enterSluice {hall line p} (hs : s.MemOk) : (s.enterSluice hall line p).MemOk := hs.of_frame (State.enterSluice_frame ..) rfl

theorem State.MemOk.putOn {link tag ford p} (hs : s.MemOk) : (s.putOn link tag ford p).MemOk := hs.setLink.post

theorem State.MemOk.losePacket {p} (hs : s.MemOk) : (s.losePacket p).MemOk := hs.of_frame (State.losePacket_frame ..) rfl

theorem State.MemOk.offer {link tag p} (hs : s.MemOk) : (s.offer link tag p).MemOk := memOk_ite hs.losePacket (memOk_ite hs.putOn (hs.of_mem rfl))

theorem State.MemOk.sendFrom {ford source target p} (hs : s.MemOk) : (s.sendFrom ford source target p).MemOk := by
  unfold State.sendFrom
  extract_lets _ t
  have ht : t.MemOk := hs.of_mem rfl
  split
  · exact ht.offer
  · exact ht.enterSluice

theorem State.MemOk.send {source target p} (hs : s.MemOk) : (s.send source target p).MemOk := hs.sendFrom

theorem State.MemOk.convey {source target bytes cargo back} (hs : s.MemOk) : (s.convey source target bytes cargo back).MemOk := memOk_ite
    hs.postAll hs.send

theorem State.MemOk.request {ctx h bytes back cargo} (hs : s.MemOk) : (s.request ctx h bytes back cargo).MemOk := hs.of_frame
    (State.request_frame ..) rfl

theorem State.MemOk.answer {ctx h bytes e} (hs : s.MemOk) : (s.answer ctx h bytes e).MemOk := by
  unfold State.answer
  split
  · exact hs.post
  · exact hs.send

theorem State.MemOk.linkDown {n} (hs : s.MemOk) : (s.linkDown n).MemOk := by
  unfold State.linkDown
  split
  · extract_lets t u
    have ht : t.MemOk := hs.setLink
    have hu : u.MemOk := memOk_foldl (fun _ hv _ => hv.losePacket) ht
    exact memOk_ite (State.MemOk.postAll (hu.of_mem rfl)) hu.postAll

theorem State.MemOk.tendLinks (hs : s.MemOk) : s.tendLinks.MemOk := by
  unfold State.tendLinks
  extract_lets t
  have ht : t.MemOk := memOk_foldl (fun _ hu _ => memOk_ite hu (memOk_ite hu.linkDown.post (memOk_ite hu.setLink.postAll hu))) hs
  exact memOk_ite ht.post ht

theorem State.MemOk.beginHalf {n phase} (hs : s.MemOk) : (s.beginHalf n phase).MemOk := State.MemOk.setLink (hs.of_mem rfl)

theorem State.MemOk.endRecal {n result} (hs : s.MemOk) : (s.endRecal n result).MemOk := hs.setLink.finished

theorem State.MemOk.tendHalves (hs : s.MemOk) : s.tendHalves.MemOk := by
  unfold State.tendHalves
  refine memOk_foldl (fun _ ht _ => ?_) hs
  refine memOk_ite ht (memOk_ite ht.endRecal ?_)
  split
  · extract_lets u
    have hu : u.MemOk := ht.setLink
    exact memOk_ite hu.beginHalf hu.endRecal
  · exact ht

theorem State.MemOk.endPurges (hs : s.MemOk) : s.endPurges.MemOk := by
  unfold State.endPurges
  extract_lets _ _ t
  have ht : t.MemOk := hs.of_mem rfl
  exact memOk_foldl (fun _ hu _ => hu.finished) ht

end Sys2Proof.Machine

end

section
/-! The shared operations of the meanings: registers, waits, faults, trace records, parking and waking. -/

namespace Sys2Proof.Machine

variable {s : State}

theorem State.MemOk.setMe {f} (hs : s.MemOk) : (s.setMe f).MemOk := hs.setCtx

theorem State.MemOk.wr {r v} (hs : s.MemOk) : (s.wr r v).MemOk := hs.setMe

theorem State.MemOk.free (hs : s.MemOk) : s.free.2.MemOk := hs.of_mem rfl

theorem State.MemOk.bump {core number amount} (hs : s.MemOk) : (s.bump core number amount).MemOk := hs.setCore

theorem State.MemOk.traceTo {hall kind source gtid payload} (hs : s.MemOk) : (s.traceTo hall kind source gtid payload).MemOk := hs.convey

theorem State.MemOk.traceCtx {ctx kind payload} (hs : s.MemOk) : (s.traceCtx ctx kind payload).MemOk := hs.traceTo.bump

theorem State.MemOk.noteWait {ctx w} (hs : s.MemOk) : (s.noteWait ctx w).MemOk := hs.setCore

theorem State.MemOk.hold {w} (hs : s.MemOk) : (s.hold w).MemOk := hs.setMe.noteWait

theorem command_memOk {go : Res} (hs : s.MemOk) (hg : ResOk go) : ResOk (command s go) := resOk_ite hs hg

theorem State.MemOk.parkHeld {ctx} (hs : s.MemOk) : (s.parkHeld ctx).MemOk := hs.setCtx.noteWait

theorem State.MemOk.defer {e} (hs : s.MemOk) : (s.defer e).MemOk := hs.of_mem rfl

theorem State.MemOk.tryLater (hs : s.MemOk) : s.tryLater.MemOk := hs.hold.defer

theorem State.MemOk.toward {h bytes back} (hs : s.MemOk) : (s.toward h bytes back).MemOk := hs.of_frame (State.toward_frame ..) rfl

theorem State.MemOk.sendOut (hs : s.MemOk) : s.sendOut.MemOk := hs.of_frame (State.sendOut_frame ..) rfl

theorem State.MemOk.await (hs : s.MemOk) : s.await.MemOk := memOk_ite hs (memOk_ite hs.setMe.noteWait.sendOut hs)

theorem State.MemOk.raiseAt {ctx f} (hs : s.MemOk) : (s.raiseAt ctx f).MemOk := hs.of_mem (State.raiseAt_mem ..)

theorem State.MemOk.raise {f} (hs : s.MemOk) : (s.raise f).MemOk := hs.of_mem (State.raise_mem ..)

theorem State.MemOk.illegal (hs : s.MemOk) : s.illegal.MemOk := hs.raise

theorem State.MemOk.privilege (hs : s.MemOk) : s.privilege.MemOk := hs.raise

theorem State.MemOk.operand {field r reason} (hs : s.MemOk) : (s.operand field r reason).MemOk := hs.raise

theorem State.MemOk.claimFault {parts} (hs : s.MemOk) : (s.claimFault parts).MemOk := hs.raise

theorem State.MemOk.porchFault (hs : s.MemOk) : s.porchFault.MemOk := hs.raise

theorem State.MemOk.hearthEvent {core kind addr slot} (hs : s.MemOk) : (s.hearthEvent core kind addr slot).MemOk := hs.of_frame
    (State.hearthEvent_frame ..) rfl

theorem State.MemOk.freed {core} (hs : s.MemOk) : (s.freed core).MemOk := hs.of_frame (State.freed_frame ..) rfl

theorem State.MemOk.vacate {ctx} (hs : s.MemOk) : (s.vacate ctx).MemOk := State.MemOk.freed (hs.of_mem rfl)

theorem State.MemOk.checkLog {go : State → State} (hs : s.MemOk) (hg : ∀ t, t.MemOk → (go t).MemOk) : (s.checkLog go).MemOk := memOk_ite
    (hg _ hs) hs.raise

theorem State.MemOk.migrationPacket {core id owner bytes} (hs : s.MemOk) : (s.migrationPacket core id owner bytes).MemOk := memOk_ite hs.post hs.send

theorem State.MemOk.depart {owner} (hs : s.MemOk) : (s.depart owner).MemOk := hs.of_mem (State.depart_mem ..)

theorem State.MemOk.parkTranslation {h acc why} (hs : s.MemOk) : (s.parkTranslation h acc why).MemOk := hs.of_frame
    (State.parkTranslation_frame ..) rfl

theorem State.MemOk.takeBanks {core bs} (hs : s.MemOk) : (s.takeBanks core bs).MemOk := memOk_ite hs hs.setCore

theorem State.MemOk.useBank {h} (hs : s.MemOk) : (s.useBank h).MemOk := hs.of_frame (State.useBank_frame ..) rfl

theorem State.MemOk.useBanks {ks} (hs : s.MemOk) : (s.useBanks ks).MemOk := memOk_foldl (fun _ ht _ => ht.useBank) hs

theorem State.MemOk.prepare {h right acc m} (hs : s.MemOk) : (s.prepare h right acc m).state.MemOk := by
  unfold State.prepare
  split
  · rename_i e
    exact (hs.reach.of_fst e).parkTranslation
  · rename_i e
    split
    · exact (hs.reach.of_fst e).raise
    · split
      · exact (hs.reach.of_fst e).raise
      · extract_lets _ u
        have hu : u.MemOk := (hs.reach.of_fst e).useBank
        split
        · exact (hs.reach.of_fst e).depart
        · split
          · exact (hs.reach.of_fst e).hold
          · exact memOk_ite hu.toward (memOk_ite hu.toward hu.toward)

theorem State.MemOk.parkAt {h k} (hs : s.MemOk) : (s.parkAt h k).MemOk := hs.of_frame (State.parkAt_frame ..) rfl

theorem State.MemOk.endWait {q} (hs : s.MemOk) : (s.endWait q).MemOk := memOk_ite hs.store hs

theorem State.MemOk.unpark {ctx} (hs : s.MemOk) : (s.unpark ctx).MemOk := hs.of_mem rfl

theorem State.MemOk.withdraw {ctx} (hs : s.MemOk) : (s.withdraw ctx).MemOk := memOk_foldl (fun _ ht _ => ht.endWait) hs.unpark

theorem State.MemOk.wakeAll {v l} (hs : s.MemOk) : (s.wakeAll v l).MemOk := hs.of_mem (State.wakeAll_mem ..)

theorem State.MemOk.reeval {h} (hs : s.MemOk) : (s.reeval h).MemOk := hs.wakeAll

theorem State.MemOk.put {p n v} (hs : s.MemOk) : (s.put p n v).MemOk := State.wf_put _ _ _ _ hs

theorem State.MemOk.fencePoint {n} {go : State → State} (hs : s.MemOk)
    (hg : ∀ t, t.MemOk → (go t).MemOk) : (s.fencePoint n go).MemOk := memOk_ite hs.hold (hs.checkLog (fun _ ht => hg _ ht))

theorem State.MemOk.scoped {n} {go : State → State} (hs : s.MemOk) (hg : ∀ t, t.MemOk → (go t).MemOk) : (s.scoped n go).MemOk := memOk_ite
    (hg _ hs) (hs.fencePoint (fun _ ht => hg _ ht))

theorem State.MemOk.release {go : State → State} (hs : s.MemOk) (hg : ∀ t, t.MemOk → (go t).MemOk) : (s.release go).MemOk := memOk_ite hs.hold
    (hs.checkLog (fun _ ht => hg _ ht))

theorem State.MemOk.launchRelaxed {ctx r e} (hs : s.MemOk) : (s.launchRelaxed ctx r e).MemOk := hs.of_frame (State.launchRelaxed_frame ..) rfl

theorem State.MemOk.relax {op h done e} (hs : s.MemOk) : (s.relax op h done e).MemOk := hs.of_frame (State.relax_frame ..) rfl

theorem State.MemOk.enter {target} (hs : s.MemOk) : (s.enter target).MemOk := hs.setMe

end Sys2Proof.Machine

end

section
/-! Operand forms, and where the commands of the tile queue read and write. -/

namespace Sys2Proof.Machine

variable {s : State}

theorem State.MemOk.seen {ctx h n v} (hs : s.MemOk) : (s.seen ctx h n v).2.MemOk := hs.of_mem (State.seen_mem ..)

theorem State.MemOk.seenWords {ctx n l} (hs : s.MemOk) : (s.seenWords ctx n l).2.MemOk := by
  induction l generalizing s n with
  | nil => exact hs
  | cons v l ih => exact ih hs.seen

theorem State.MemOk.soil {ctx h n} (hs : s.MemOk) : (s.soil ctx h n).MemOk := hs.of_mem (State.soil_mem ..)

end Sys2Proof.Machine

end

section
/-! The stations: full/empty words, futures, landing words, atomics and relaxed accesses. -/

namespace Sys2Proof.Machine

variable {s : State}

theorem State.MemOk.feChanged {h} (hs : s.MemOk) : (s.feChanged h).MemOk := hs.of_mem (State.feChanged_mem ..)

theorem State.MemOk.feFill {h v} (hs : s.MemOk) : (s.feFill h v).MemOk := State.wf_feFill _ _ _ hs

theorem State.MemOk.fePut {h v} (hs : s.MemOk) : OptOk (s.fePut h v) := by
  unfold State.fePut
  split
  · trivial
  · exact hs.feFill

theorem State.MemOk.devicePut {h v} (hs : s.MemOk) : (s.devicePut h v).MemOk := State.wf_devicePut _ _ _ hs

theorem State.MemOk.feEmpty {h} (hs : s.MemOk) : (s.feEmpty h).MemOk := State.wf_feEmpty _ _ hs

theorem State.MemOk.feForce {h v} (hs : s.MemOk) : (s.feForce h v).MemOk := memOk_ite hs.store.feChanged hs.feFill

theorem State.MemOk.futSet {handle v} (hs : s.MemOk) : ExcOk (s.futSet handle v) := by
  unfold State.futSet
  extract_lets _ _ t
  have ht : t.MemOk := hs.store.store
  split
  · trivial
  · split
    · trivial
    · exact ht.wakeAll

theorem State.MemOk.fillOf {handle v} (hs : s.MemOk) : OptOk (s.fillOf handle v) := optOk_of fun _ e => State.wf_fillOf _ e hs

theorem State.MemOk.complete {hall source gtid handle v} (hs : s.MemOk) : (s.complete hall source gtid handle v).MemOk := State.wf_complete _ _ _
    _ _ _ hs

theorem State.MemOk.futNew {hall} (hs : s.MemOk) : (s.futNew hall).2.MemOk := State.wf_futNew _ _ hs

theorem State.MemOk.dropAll {handle l} (hs : s.MemOk) : (s.dropAll handle l).MemOk := hs.of_mem (State.dropAll_mem ..)

theorem State.MemOk.futDrop {handle} (hs : s.MemOk) : ExcOk (s.futDrop handle) := by
  unfold State.futDrop
  extract_lets _ _ t
  have ht : t.MemOk := hs.store
  split
  · trivial
  · exact ht.dropAll

theorem State.MemOk.landing {h n} (hs : s.MemOk) : OptOk (s.landing h n) := by
  unfold State.landing
  extract_lets
  split
  · trivial
  · exact hs.store.reeval

theorem State.MemOk.settleMark {hall w} (hs : s.MemOk) : (s.settleMark hall w).MemOk := State.wf_settleMark _ _ _ hs

theorem State.MemOk.markAt {h} (hs : s.MemOk) : (s.markAt h).1.MemOk := State.wf_markAt _ _ hs

theorem State.MemOk.deliver {ctx f} (hs : s.MemOk) : (s.deliver ctx f).MemOk := hs.of_mem (State.deliver_mem ..)

theorem State.MemOk.wrCtx {ctx d v} (hs : s.MemOk) : (s.wrCtx ctx d v).MemOk := hs.deliver

theorem State.MemOk.lanePlaces {core right l} (hs : s.MemOk) : (s.lanePlaces core right l).state.MemOk := by
  induction l generalizing s with
  | nil => exact hs
  | cons h l ih =>
    unfold State.lanePlaces
    split
    · rename_i e
      exact hs.reach.of_fst e
    · rename_i t p e
      have ht : t.MemOk := hs.reach.of_fst e
      split
      · exact ht
      · split
        · exact ht
        · split
          · rename_i e'
            exact (ih ht).of_lanes_ok e'
          · rename_i e'
            exact (ih ht).of_lanes_no e'

theorem State.MemOk.loadLanes {ctx v l l1} (hs : s.MemOk) : (s.loadLanes ctx v l l1).MemOk := hs.of_mem (State.loadLanes_mem ..)

theorem State.MemOk.storeLanes {ctx l l1} (hs : s.MemOk) : (s.storeLanes ctx l l1).MemOk := State.wf_storeLanes _ _ _ _ hs

theorem State.MemOk.performLoads {ctx v ls} (hs : s.MemOk) : (s.performLoads ctx v ls).state.MemOk := State.wf_performLoads _ _ _ _ hs

theorem State.MemOk.performStores {ctx ls} (hs : s.MemOk) : (s.performStores ctx ls).state.MemOk := State.wf_performStores _ _ _ hs

theorem State.MemOk.perform {ctx r} (hs : s.MemOk) : (s.perform ctx r).state.MemOk := State.wf_perform _ _ _ hs

theorem State.MemOk.logFault {ctx r reason} (hs : s.MemOk) : (s.logFault ctx r reason).MemOk := by
  unfold State.logFault
  split
  · exact hs.setCtx

theorem State.MemOk.kick {ctx} (hs : s.MemOk) : (s.kick ctx).MemOk := by
  unfold State.kick
  extract_lets
  split
  · exact hs.of_mem rfl
  · exact hs.of_mem rfl
  · exact memOk_ite hs.setCtx hs
  · exact memOk_ite hs hs.setCtx
  · exact hs.post
  · exact hs.post
  · exact hs.post
  · exact hs

end Sys2Proof.Machine

end

section
/-! Atomics, fences, full/empty words, futures and barriers. -/

namespace Sys2Proof.Machine

variable {s : State}

theorem stationOp_memOk {a k size right c sc pre} {go : Nat → Phys → State → State} (hs : s.MemOk)
    (hg : ∀ n p t, t.MemOk → (go n p t).MemOk) : ResOk (stationOp a k size right c sc s pre go) := by
  unfold stationOp
  split
  · exact hs.raise
  · split
    · exact hs.raise
    · show State.MemOk _
      refine hs.scoped (fun _ ht => ?_)
      split
      · rename_i e2
        exact ht.prepare.of_stop e2
      · rename_i e2
        exact hg _ _ _ (ht.prepare.of_go e2)

theorem State.MemOk.resume {d v} (hs : s.MemOk) : (s.resume d v).MemOk := hs.setMe.wr

theorem State.MemOk.reply {d v} (hs : s.MemOk) : (s.reply d v).MemOk := hs.wr.await

theorem State.MemOk.notPerformed {h} (hs : s.MemOk) : (s.notPerformed h).MemOk := hs.raise

theorem State.MemOk.sendAdd {d h size v p dst on} (hs : s.MemOk) : (s.sendAdd d h size v p dst on).MemOk := by
  unfold State.sendAdd
  refine memOk_ite hs ?_
  extract_lets _ t
  have ht : t.MemOk := hs.setMe.noteWait
  exact State.MemOk.send (ht.of_mem rfl)

theorem execAmo_memOk {d a b n z o} (hs : s.MemOk) : ResOk (execAmo d a b n z o s) := by
  unfold execAmo
  extract_lets
  refine stationOp_memOk hs (fun _ _ _ ht => ?_)
  refine memOk_ite ht.notPerformed ?_
  split
  · exact ht.sendAdd
  · exact ht.put.setMe.reply

theorem execAmocas_memOk {d a b n z} (hs : s.MemOk) : ResOk (execAmocas d a b n z s) := by
  unfold execAmocas
  extract_lets
  refine stationOp_memOk hs (fun _ _ _ ht => ?_)
  extract_lets _ u
  have hu : u.MemOk := memOk_ite ht.put ht
  exact hu.reply

theorem execRed_memOk {a b z o} (hs : s.MemOk) : ResOk (execRed a b z o s) := by
  unfold execRed
  extract_lets
  split
  · exact hs.raise
  · refine resOk_ite hs.hold ?_
    split
    · extract_lets t
      have ht : t.MemOk := hs.relax
      exact ht.put
    · exact hs.relax

theorem qfence_memOk {a own n} (hs : s.MemOk) : ResOk (qfence a own n s) := by
  refine resOk_ite hs.operand (resOk_ite hs.hold ?_)
  split
  · exact hs.setRoom.raise
  · exact hs.checkLog memOk_id

theorem feOp_memOk {a i n op} {go : Nat → State → State} (hs : s.MemOk)
    (hg : ∀ n1 t, t.MemOk → (go n1 t).MemOk) : ResOk (feOp a i n op s go) := stationOp_memOk hs (fun _ _ _ ht => hg _ _ ht.toward)

theorem execTake_memOk {d a n i} (hs : s.MemOk) : ResOk (execTake d a n i s) := by
  unfold execTake
  split
  · exact hs.resume
  · refine feOp_memOk hs (fun _ _ ht => ?_)
    split
    · rename_i e
      exact State.MemOk.reply (State.wf_feTake _ e ht)
    · exact ht.parkAt

theorem State.MemOk.putOrPark {h v} (hs : s.MemOk) : (s.putOrPark h v).MemOk := by
  unfold State.putOrPark
  extract_lets
  split
  · exact hs.parkAt
  · split
    · rename_i e'
      exact (hs.fePut.of_some e').await
    · exact hs.parkAt

theorem State.MemOk.resumed (hs : s.MemOk) : s.resumed.MemOk := hs.setMe

theorem execPut_memOk {d a n i} (hs : s.MemOk) : ResOk (execPut d a n i s) := by
  unfold execPut
  split
  · exact hs.resumed
  · exact feOp_memOk hs (fun _ _ ht => ht.putOrPark)

theorem execFereadD_memOk {d a n i} (hs : s.MemOk) : ResOk (execFereadD d a n i s) := by
  unfold execFereadD
  split
  · exact hs.resume
  · exact feOp_memOk hs (fun _ _ ht => memOk_ite ht.reply ht.parkAt)

theorem State.MemOk.uncovered {h} (hs : s.MemOk) : (s.uncovered h).MemOk := hs.raise

theorem futOp_memOk {bad a addr hall n bytes back} {go : State → State} (hs : s.MemOk)
    (hg : ∀ t, t.MemOk → (go t).MemOk) : ResOk (futOp bad a addr hall n bytes back s go) := by
  unfold futOp
  exact resOk_ite hs.operand (resOk_ite hs.uncovered (resOk_ite hs.raise (hs.scoped (fun _ ht => hg _ ht.toward))))

theorem State.MemOk.futureFault {reason handle} (hs : s.MemOk) : (s.futureFault reason handle).MemOk := hs.raise

theorem execFutnew_memOk {d a n} (hs : s.MemOk) : ResOk (execFutnew d a n s) := by
  unfold execFutnew
  extract_lets
  exact futOp_memOk hs fun _ ht => ht.futNew.reply

theorem execFutset_memOk {a b n} (hs : s.MemOk) : ResOk (execFutset a b n s) := by
  unfold execFutset
  extract_lets
  refine futOp_memOk hs (fun _ ht => ?_)
  split
  · rename_i e'
    exact (ht.futSet.of_ok e').await
  · exact ht.futureFault

theorem execFutget_memOk {d a n} (hs : s.MemOk) : ResOk (execFutget d a n s) := by
  unfold execFutget
  split
  · exact hs.resume
  · exact futOp_memOk hs (fun _ ht => memOk_ite ht.futureFault (memOk_ite ht.reply (memOk_ite ht.parkAt ht.store.parkAt)))

theorem execFutdrop_memOk {a n} (hs : s.MemOk) : ResOk (execFutdrop a n s) := by
  unfold execFutdrop
  extract_lets
  refine futOp_memOk hs (fun _ ht => ?_)
  split
  · rename_i e'
    exact (ht.futDrop.of_ok e').await
  · exact ht.futureFault

theorem wordOp_memOk {a n} {go : Nat → State → State} (hs : s.MemOk)
    (hg : ∀ n1 t, t.MemOk → (go n1 t).MemOk) : ResOk (wordOp a n s go) := stationOp_memOk hs (fun _ _ _ ht => hg _ _ ht)

theorem State.MemOk.barrierFault {reason h phase} (hs : s.MemOk) : (s.barrierFault reason h phase).MemOk := hs.raise

theorem execArrive_memOk {d a b n} (hs : s.MemOk) : ResOk (execArrive d a b n s) := by
  unfold execArrive
  extract_lets
  refine resOk_ite hs.operand ?_
  exact wordOp_memOk hs fun _ _ ht => memOk_ite ht.barrierFault (memOk_ite ht.barrierFault (memOk_ite ht.store.reeval.reply ht.store.reply))

theorem execWaitb_memOk {d a b n} (hs : s.MemOk) : ResOk (execWaitb d a b n s) := by
  unfold execWaitb
  split
  · exact hs.resume
  · extract_lets
    refine resOk_ite hs.operand ?_
    exact wordOp_memOk hs fun _ _ ht => memOk_ite ht.barrierFault (memOk_ite ht.reply ht.parkAt)

theorem execWaitl_memOk {d a b n} (hs : s.MemOk) : ResOk (execWaitl d a b n s) := by
  unfold execWaitl
  split
  · exact hs.resume
  · extract_lets
    refine resOk_ite hs.operand ?_
    exact wordOp_memOk hs fun _ _ ht => memOk_ite ht.reply ht.parkAt

theorem execLandset_memOk {a b w} (hs : s.MemOk) : ResOk (execLandset a b w s) := by
  unfold execLandset
  extract_lets
  refine resOk_ite hs.operand ?_
  exact wordOp_memOk hs fun _ _ ht => ht.store.reeval.soil.toward.await

end Sys2Proof.Machine

end

section
/-! The syllables of the lane pool. -/

namespace Sys2Proof.Machine

variable {s : State}

theorem withLanes_memOk {go : State → State} (hs : s.MemOk) (hg : ∀ t, t.MemOk → (go t).MemOk) : ResOk (withLanes s go) := resOk_ite
    hs.porchFault (resOk_ite hs.claimFault (hg _ hs))

theorem State.MemOk.raiseFlags {fl} (hs : s.MemOk) : (s.raiseFlags fl).MemOk := hs.setMe

theorem laneOp_memOk {m d f} (hs : s.MemOk) : ResOk (laneOp m d s f) := by
  unfold laneOp
  exact withLanes_memOk hs fun _ ht => ht.setMe.raiseFlags

theorem elemOp_memOk {m t d a b f} (hs : s.MemOk) : ResOk (elemOp m t d a b s f) := laneOp_memOk hs

theorem elemOp3_memOk {m t d a b f} (hs : s.MemOk) : ResOk (elemOp3 m t d a b s f) := laneOp_memOk hs

theorem execVfma_memOk {m t d a b r} (hs : s.MemOk) : ResOk (execVfma m t d a b r s) := by
  unfold execVfma
  exact elemOp3_memOk hs

theorem execVfms_memOk {m t d a b r} (hs : s.MemOk) : ResOk (execVfms m t d a b r s) := by
  unfold execVfms
  exact elemOp3_memOk hs

theorem packed_memOk {m t d a b sat f} (hs : s.MemOk) : ResOk (packed m t d a b sat s f) := elemOp_memOk hs

theorem execVcmp_memOk {m t a b c} (hs : s.MemOk) : ResOk (execVcmp m t a b c s) := by
  unfold execVcmp
  exact withLanes_memOk hs fun _ hu => hu.setMe.raiseFlags

theorem withBlocks_memOk {go : State → State} (hs : s.MemOk) (hg : ∀ t, t.MemOk → (go t).MemOk) : ResOk (withBlocks s go) := withLanes_memOk hs
    (fun _ ht => memOk_ite ht.claimFault (hg _ ht))

theorem execVqmx_memOk {t d a b} (hs : s.MemOk) : ResOk (execVqmx t d a b s) := by
  unfold execVqmx
  refine withBlocks_memOk hs (fun _ hu => ?_)
  extract_lets _ _ _ _ _ _ v
  have hv : v.MemOk := hu.setMe
  exact hv.setMe.raiseFlags

theorem execVdqmx_memOk {t d a b} (hs : s.MemOk) : ResOk (execVdqmx t d a b s) := by
  unfold execVdqmx
  exact withBlocks_memOk hs fun _ hu => hu.setMe.raiseFlags

theorem execVins_memOk {b1 v a b} (hs : s.MemOk) : ResOk (execVins b1 v a b s) := by
  unfold execVins
  exact withLanes_memOk hs fun _ ht => memOk_ite ht.claimFault ht.setMe

theorem execVext_memOk {t v a b} (hs : s.MemOk) : ResOk (execVext t v a b s) := by
  unfold execVext
  exact withLanes_memOk hs fun _ hu => memOk_ite hu.claimFault hu.wr

theorem execVvote_memOk {m v a o} (hs : s.MemOk) : ResOk (execVvote m v a o s) := by
  unfold execVvote
  exact withLanes_memOk hs fun _ ht => ht.wr

theorem execVred_memOk {m t v a o} (hs : s.MemOk) : ResOk (execVred m t v a o s) := by
  unfold execVred
  exact withLanes_memOk hs fun _ hu => hu.wr.raiseFlags

theorem execVscan_memOk {m t d a e o} (hs : s.MemOk) : ResOk (execVscan m t d a e o s) := by
  unfold execVscan
  exact withLanes_memOk hs fun _ hu => hu.setMe.raiseFlags

end Sys2Proof.Machine

end

section
/-! Loads and stores, tag tables and segments. -/

namespace Sys2Proof.Machine

variable {s : State}

theorem relaxedScalar_memOk {a h right op e} {here : State → State} (hs : s.MemOk)
    (hg : ∀ t, t.MemOk → (here t).MemOk) : (relaxedScalar a h right op e s here).MemOk := by
  unfold relaxedScalar
  refine memOk_ite hs.hold ?_
  split
  · exact hs.depart
  · exact memOk_ite (hg _ hs.relax) hs.relax

theorem loadOp_memOk {d a k size signed r} (hs : s.MemOk) : ResOk (loadOp d a k size signed r s) := by
  unfold loadOp
  split
  · exact hs.raise
  · split
    · show State.MemOk _
      exact relaxedScalar_memOk hs fun _ ht => ht.seen.wr
    · split
      · rename_i e2
        exact hs.prepare.of_stop e2
      · rename_i e2
        exact (hs.prepare.of_go e2).toward.seen.reply

theorem storeOp_memOk {d a k size r sc} (hs : s.MemOk) : ResOk (storeOp d a k size r sc s) := by
  unfold storeOp
  split
  · exact hs.raise
  · extract_lets
    show State.MemOk _
    refine hs.scoped (fun _ ht => ?_)
    refine memOk_ite (relaxedScalar_memOk ht (fun _ hu => hu.put.soil)) ?_
    split
    · rename_i e2
      exact ht.prepare.of_stop e2
    · rename_i e2
      exact (ht.prepare.of_go e2).put.soil.await

theorem plainLanes_memOk {ls bytes back} {go : State → Perf} (hs : s.MemOk)
    (hg : ∀ t, t.MemOk → (go t).state.MemOk) : (plainLanes ls bytes back s go).MemOk := by
  unfold plainLanes
  refine memOk_ite hs.hold ?_
  split
  · rename_i e'
    exact ((hg _ hs).of_done e').useBanks.toward.await
  · rename_i e'
    exact ((hg _ hs).of_held e').parkTranslation
  · rename_i e'
    exact ((hg _ hs).of_failed e').raise

theorem relaxedLanes_memOk {α : Type} {ls : List (α × Nat)} {right op e} {here : List (α × Nat) → State → State} (hs : s.MemOk)
    (hg : ∀ l t, t.MemOk → (here l t).MemOk) : (relaxedLanes ls right op e s here).MemOk := by
  unfold relaxedLanes
  extract_lets
  refine memOk_ite hs.hold ?_
  split
  · rename_i e1
    exact State.MemOk.parkTranslation (hs.lanePlaces.of_lanes_no e1 : State.MemOk _)
  · exact hs.relax
  · rename_i t _ e1
    have ht : t.MemOk := hs.lanePlaces.of_lanes_ok e1
    exact memOk_ite (hg _ _ ht.relax) (hg _ _ ht.relax)

theorem vloadOp_memOk {m v a r off} (hs : s.MemOk) : ResOk (vloadOp m v a r s off) := by
  unfold vloadOp
  refine withLanes_memOk hs (fun _ ht => ?_)
  split
  · exact ht.raise
  · exact memOk_ite (plainLanes_memOk ht (fun _ hu => hu.performLoads)) (relaxedLanes_memOk ht (fun _ _ hu => hu.loadLanes))

theorem vstoreOp_memOk {m v a sc r off} (hs : s.MemOk) : ResOk (vstoreOp m v a sc r s off) := by
  unfold vstoreOp
  refine withLanes_memOk hs (fun _ ht => ?_)
  split
  · exact ht.raise
  · extract_lets
    refine ht.scoped (fun _ hu => ?_)
    exact memOk_ite (plainLanes_memOk hu (fun _ hw => hw.performStores)) (relaxedLanes_memOk hu (fun _ _ hw => hw.storeLanes))

theorem tagOp_memOk {a right} {go : Nat → Nat → State → State} (hs : s.MemOk)
    (hg : ∀ n n1 t, t.MemOk → (go n n1 t).MemOk) : ResOk (tagOp a right s go) := by
  unfold tagOp
  refine resOk_ite hs.operand ?_
  split
  · exact memOk_ite hs.operand hs.raise
  · extract_lets desc n
    clear_value n desc
    exact resOk_ite hs.operand (resOk_ite hs.raise (resOk_ite hs.operand (resOk_ite hs.raise (hg _ _ _ hs))))

theorem withSet_memOk {t e} {go : State → State} (hs : s.MemOk) (hg : ∀ u, u.MemOk → (go u).MemOk) : (withSet t e s go).MemOk := memOk_ite
    hs.raise (hg _ hs)

theorem execLkup_memOk {d a b} (hs : s.MemOk) : ResOk (execLkup d a b s) := by
  unfold execLkup
  refine tagOp_memOk hs (fun _ _ _ ht => ?_)
  extract_lets
  refine withSet_memOk ht (fun _ hu => ?_)
  extract_lets _ _ v
  have hv : v.MemOk := hu.seenWords
  split
  · exact hv.reply
  · exact hv.reply

theorem execTagset_memOk {d a b} (hs : s.MemOk) : ResOk (execTagset d a b s) := by
  unfold execTagset
  refine tagOp_memOk hs (fun _ _ _ ht => ?_)
  extract_lets
  refine memOk_ite ht.operand ?_
  refine withSet_memOk ht (fun _ hu => ?_)
  extract_lets v
  have hv : v.MemOk := hu.put
  exact hv.put.soil.await

theorem execTaginv_memOk {a b} (hs : s.MemOk) : ResOk (execTaginv a b s) := by
  unfold execTaginv
  exact tagOp_memOk hs fun _ _ _ ht => memOk_ite ht.operand (withSet_memOk ht (fun _ hu => hu.put.soil.await))

theorem execPfx_memOk {a z i} (hs : s.MemOk) : ResOk (execPfx a z i s) := by
  unfold execPfx
  split
  · exact hs
  · exact resOk_ite hs.lookup hs

theorem State.MemOk.setSeg {k g} (hs : s.MemOk) : (s.setSeg k g).MemOk := hs.setMe

theorem State.MemOk.prepare16 {h right acc m} (hs : s.MemOk) : (s.prepare16 h right acc m).state.MemOk := by
  unfold State.prepare16
  split
  · exact hs.hold
  · split
    · exact hs.raise
    · exact hs.prepare

theorem execSegld_memOk {d a} (hs : s.MemOk) : ResOk (execSegld d a s) := by
  unfold execSegld
  split
  · exact hs.raise
  · split
    · rename_i e1
      exact hs.prepare16.of_stop e1
    · rename_i e1
      extract_lets _ _ u
      have hu : u.MemOk := (hs.prepare16.of_go e1).seenWords
      exact resOk_ite hu.operand (resOk_ite hu.raise hu.setSeg.toward.await)

theorem execSegst_memOk {d a} (hs : s.MemOk) : ResOk (execSegst d a s) := by
  unfold execSegst
  split
  · exact hs.raise
  · split
    · rename_i e1
      exact hs.prepare16.of_stop e1
    · rename_i e1
      exact (hs.prepare16.of_go e1).put.soil.toward.await

end Sys2Proof.Machine

end

section
/-! House addresses, the fault area and the end of a task. -/

namespace Sys2Proof.Machine

variable {s : State}

theorem State.MemOk.houseWord {hall h right} (hs : s.MemOk) : (s.houseWord hall h right).state.MemOk := hs.of_frame (State.houseWord_frame ..) rfl

theorem State.MemOk.houseSpan {hall h right n} (hs : s.MemOk) : (s.houseSpan hall h right n).state.MemOk := hs.of_frame (State.houseSpan_frame ..) rfl

theorem State.MemOk.houseRead {hall h n} (hs : s.MemOk) : (s.houseRead hall h n).state.MemOk := hs.of_frame (State.houseRead_frame ..) rfl

theorem State.MemOk.putWords {l l1} (hs : s.MemOk) : (s.putWords l l1).MemOk := State.wf_putWords _ _ _ hs

theorem State.MemOk.houseWrite {hall h ws} (hs : s.MemOk) : (s.houseWrite hall h ws).state.MemOk := State.wf_houseWrite _ _ _ _ hs

theorem State.MemOk.askChunk {n wing} (hs : s.MemOk) : (s.askChunk n wing).MemOk := by
  unfold State.askChunk
  split
  · exact hs
  · exact hs.convey

theorem State.MemOk.tell {m} (hs : s.MemOk) : (s.tell m).MemOk := hs.of_mem rfl

theorem State.MemOk.launchWrite {n addr size v} (hs : s.MemOk) : (s.launchWrite n addr size v).MemOk := by
  unfold State.launchWrite
  split
  · exact hs
  · refine memOk_ite hs.setLaunch ?_
    split
    · rename_i e1
      exact (hs.houseWord.of_ok e1).put
    · rename_i e1
      exact (hs.houseWord.of_wait e1).setLaunch.tell
    · rename_i e1
      exact hs.houseWord.of_bad e1

theorem State.MemOk.recordWrite {n off size v} (hs : s.MemOk) : (s.recordWrite n off size v).MemOk := by
  unfold State.recordWrite
  split
  · exact hs
  · exact hs.launchWrite

theorem State.MemOk.setUsed {n f} (hs : s.MemOk) : (s.setUsed n f).MemOk := by
  unfold State.setUsed
  split
  · exact hs
  · exact hs.setLaunch.recordWrite

theorem State.MemOk.worst {n code} (hs : s.MemOk) : (s.worst n code).MemOk := hs.setLaunch

theorem State.MemOk.freeEntry {hall l j n} (hs : s.MemOk) : (s.freeEntry hall l j n).state.MemOk := by
  induction n generalizing s j with
  | zero => exact hs
  | succ n ih =>
    unfold State.freeEntry
    split
    · exact ih hs
    · split
      · rename_i e
        exact hs.houseSpan.of_wait e
      · rename_i e
        exact ih (hs.houseSpan.of_bad e)
      · rename_i t _ e
        have ht : t.MemOk := hs.houseSpan.of_ok e
        split
        · rename_i e'
          exact ht.houseRead.of_wait e'
        · rename_i e'
          exact ih (ht.houseRead.of_bad e')
        · rename_i e'
          split
          · exact ht.houseRead.of_ok e'
          · exact ih (ht.houseRead.of_ok e')

theorem State.MemOk.freeEntries {hall l n n1} (hs : s.MemOk) : (s.freeEntries hall l n n1).state.MemOk := by
  induction n generalizing s n1 with
  | zero => exact hs
  | succ n ih =>
    unfold State.freeEntries
    split
    · rename_i e
      exact hs.freeEntry.of_wait e
    · rename_i e
      exact hs.freeEntry.of_bad e
    · rename_i e
      exact hs.freeEntry.of_ok e
    · rename_i t i e
      have ht : t.MemOk := hs.freeEntry.of_ok e
      split
      · rename_i e'
        exact (ih ht).of_ok e'
      · rename_i e'
        exact (ih ht).of_wait e'
      · rename_i e'
        exact (ih ht).of_bad e'

theorem State.MemOk.takeEntry {hall entry} (hs : s.MemOk) : (s.takeEntry hall entry).MemOk := by
  unfold State.takeEntry
  extract_lets
  split
  · exact hs
  · split
    · rename_i e'
      extract_lets _ _ u
      have hu : u.MemOk := (hs.houseRead.of_ok e').of_mem rfl
      exact memOk_ite (hu.of_mem rfl) (hu.of_mem rfl)
    · exact hs

theorem State.MemOk.imageRead {hall addr r} (hs : s.MemOk) : (s.imageRead hall addr r).state.MemOk := by
  unfold State.imageRead
  split
  · exact hs.houseRead
  · exact hs

theorem State.MemOk.takeEntries {hall l js} (hs : s.MemOk) : (s.takeEntries hall l js).MemOk := memOk_foldl (fun _ ht _ => ht.takeEntry) hs

theorem State.MemOk.lateRecord {n hall f gid source} (hs : s.MemOk) : (s.lateRecord n hall f gid source).MemOk := by
  unfold State.lateRecord
  split
  · exact hs
  · extract_lets held
    have hheld : ∀ t, t.MemOk → ∀ n1 x, (held t n1 x).MemOk := fun _ ht _ _ => ht.setLaunch.tell
    split
    · rename_i e'
      exact hheld _ (hs.freeEntry.of_wait e') _ _
    · rename_i e'
      exact (hs.freeEntry.of_bad e').worst
    · rename_i e'
      exact (hs.freeEntry.of_ok e').worst
    · rename_i e'
      split
      · rename_i e1
        exact hheld _ ((hs.freeEntry.of_ok e').takeEntry.houseWrite.of_wait e1) _ _
      · rename_i e1
        exact ((hs.freeEntry.of_ok e').takeEntry.houseWrite.of_bad e1).worst
      · rename_i e1
        exact ((hs.freeEntry.of_ok e').takeEntry.houseWrite.of_ok e1).setUsed

theorem State.MemOk.forget {lrec} (hs : s.MemOk) : (s.forget lrec).MemOk := memOk_ite hs (hs.of_mem rfl)

theorem State.MemOk.regrant {room} (hs : s.MemOk) : (s.regrant room).MemOk := memOk_ite hs.post hs

theorem State.MemOk.dropClaims {ctx} (hs : s.MemOk) : (s.dropClaims ctx).MemOk := memOk_ite hs.setCtx.regrant hs

theorem State.MemOk.dropRequests {ctx} (hs : s.MemOk) : (s.dropRequests ctx).MemOk := memOk_ite hs hs.setRoom.regrant

theorem State.MemOk.retired' {gid} (hs : s.MemOk) : (s.retired' gid).MemOk := by
  unfold State.retired'
  extract_lets
  split
  · exact hs
  · extract_lets _ t u v
    have ht : t.MemOk := hs.setLaunch
    have hu : u.MemOk := ht.recordWrite
    have hv : v.MemOk := by
      unfold v
      split
      · exact memOk_ite hu.convey hu
      · exact hu
    exact memOk_ite hv.post hv

theorem State.MemOk.flushFails {room hall gid} (hs : s.MemOk) : (s.flushFails room hall gid).MemOk := by
  unfold State.flushFails
  extract_lets _ t
  have ht : t.MemOk := memOk_ite hs hs.setRoom
  refine memOk_foldl (fun _ hu _ => ?_) ht
  exact hu.lateRecord

theorem State.MemOk.flushAll {hall gid} (hs : s.MemOk) : (s.flushAll hall gid).MemOk := memOk_foldl (fun _ ht _ => ht.flushFails) hs

theorem State.MemOk.finishTask {ctx v} (hs : s.MemOk) : (s.finishTask ctx v).MemOk := by
  unfold State.finishTask
  extract_lets _ _ _ t u w x y
  have ht : t.MemOk := hs.dropClaims
  have hu : u.MemOk := ht.flushAll
  have hw : w.MemOk := memOk_ite hu (hu.fillOf.getD hu.traceCtx)
  have hx : x.MemOk := hw.retired'
  have hy : y.MemOk := memOk_ite hx hx.postAll
  exact memOk_ite hy.vacate hy.setCtx.hearthEvent

end Sys2Proof.Machine

end

section
/-! Control transfers, spawn serials and replays. -/

namespace Sys2Proof.Machine

variable {s : State}

theorem State.MemOk.addSpawn {hall st} (hs : s.MemOk) : (s.addSpawn hall st).MemOk := by
  unfold State.addSpawn
  extract_lets
  split
  · exact hs
  · extract_lets t u _ v
    have ht : t.MemOk := hs.setLaunch.recordWrite
    have hu : u.MemOk := ht.setLaunch
    have hv : v.MemOk := ht.setLaunch
    split
    · exact hu.setHall.post
    · exact memOk_ite hv.convey hv

theorem execSpawn_memOk {d a b} (hs : s.MemOk) : ResOk (execSpawn d a b s) := by
  unfold execSpawn
  refine resOk_ite hs.privilege ?_
  show State.MemOk _
  refine hs.release (fun _ ht => ?_)
  split
  · exact ht
  · exact memOk_ite ht.operand ht.addSpawn

theorem execLaunch_memOk {d a b} (hs : s.MemOk) : ResOk (execLaunch d a b s) := by
  unfold execLaunch
  split
  · exact hs.resumed
  · extract_lets
    exact resOk_ite hs.operand (resOk_ite hs.operand (resOk_ite hs.uncovered (resOk_ite hs.raise hs.toward.putOrPark)))

theorem State.MemOk.releaseNode {replay node} (hs : s.MemOk) : (s.releaseNode replay node).MemOk := by
  unfold State.releaseNode
  split
  · exact hs
  · extract_lets _ _ t
    have ht : t.MemOk := hs.setHall
    exact ht.devicePut

theorem State.MemOk.graphField {h i f} (hs : s.MemOk) : (s.graphField h i f).MemOk := hs.store

theorem State.MemOk.startReplay {graph hall future} (hs : s.MemOk) : (s.startReplay graph hall future).MemOk := by
  unfold State.startReplay
  extract_lets done _ t u _ v
  have hdone : ∀ w, w.MemOk → (done w).MemOk := fun _ hw => memOk_ite hw hw.complete
  have ht : t.MemOk := hs.of_mem rfl
  have hu : u.MemOk := memOk_ite ht.post ht
  have hv : v.MemOk := hu.graphField
  split
  · exact hdone _ hu
  · split
    · exact hdone _ hu
    · extract_lets _ _ w
      have hw : w.MemOk := hv.of_mem rfl
      exact memOk_ite (hdone _ hu) (memOk_foldl (fun _ hy _ => hy.releaseNode) hw)

theorem execGreplay_memOk {d a} (hs : s.MemOk) : ResOk (execGreplay d a s) := by
  unfold execGreplay
  split
  · exact memOk_ite hs.operand hs.raise
  · split
    · exact hs.release (fun _ ht => ht.startReplay)
    · exact hs.operand

end Sys2Proof.Machine

end

section
/-! Front accumulators and banks. -/

namespace Sys2Proof.Machine

variable {s : State}

theorem State.MemOk.setFront {n f} (hs : s.MemOk) : (s.setFront n f).MemOk := hs.setRoom

theorem State.MemOk.landFronts {ctx n} (hs : s.MemOk) : (s.landFronts ctx n).MemOk := by
  unfold State.landFronts
  extract_lets _ t
  have ht : t.MemOk := hs.setCtx
  exact memOk_ite hs ht.setRoom

theorem State.MemOk.sendFront {n cfg} (hs : s.MemOk) : (s.sendFront n cfg).MemOk := by
  unfold State.sendFront
  extract_lets _ t
  have ht : t.MemOk := hs.setMe
  exact State.MemOk.post (ht.of_mem rfl)

theorem State.MemOk.frontFault {n reason index} (hs : s.MemOk) : (s.frontFault n reason index).MemOk := hs.raise

theorem frontOp_memOk {go : State → State} (hs : s.MemOk) (hg : ∀ t, t.MemOk → (go t).MemOk) : ResOk (frontOp s go) := resOk_ite hs.porchFault
    (hg _ hs.landFronts)

theorem liveFront_memOk {sc n} {go : Front → State → State} (hs : s.MemOk)
    (hg : ∀ f t, t.MemOk → (go f t).MemOk) : (liveFront sc n s go).MemOk := hs.scoped (fun _ ht => memOk_ite ht.frontFault (hg _ _ ht))

theorem execFput_memOk {d a b sc n} (hs : s.MemOk) : ResOk (execFput d a b sc n s) := by
  unfold execFput
  refine frontOp_memOk hs (fun _ ht => ?_)
  refine liveFront_memOk ht (fun _ _ hu => ?_)
  refine memOk_ite hu.frontFault ?_
  split
  · exact hu.frontFault
  · exact hu.setFront.reply

theorem execFread_memOk {d a sc n} (hs : s.MemOk) : ResOk (execFread d a sc n s) := by
  unfold execFread
  refine frontOp_memOk hs (fun _ ht => ?_)
  extract_lets
  refine memOk_ite ht.operand ?_
  refine liveFront_memOk ht (fun _ _ hu => ?_)
  split
  · exact hu.wr.wr.reply

theorem State.MemOk.readySpan {right acc l} (hs : s.MemOk) : (s.readySpan right acc l).1.MemOk := by
  induction l generalizing s with
  | nil => exact hs
  | cons h l ih =>
    unfold State.readySpan
    split
    · rename_i e
      exact State.MemOk.parkTranslation (hs.reach.of_fst e)
    · rename_i t p e
      have ht : t.MemOk := hs.reach.of_fst e
      split
      · exact ht.raise
      · split
        · exact ht.raise
        · split
          · exact ht.hold
          · have hr := ih (ht.useBank (h := h))
            split
            · rename_i e'
              exact hr.of_fst e'
            · exact hr

theorem imageOp_memOk {a right sc n} {go : Nat → Front → State → State} (hs : s.MemOk)
    (hg : ∀ n1 f t, t.MemOk → (go n1 f t).MemOk) : ResOk (imageOp a right sc n s go) := by
  unfold imageOp
  refine frontOp_memOk hs (fun _ ht => ?_)
  extract_lets
  split
  · exact ht.raise
  · split
    · exact ht.raise
    · exact liveFront_memOk ht (fun _ _ hu => hg _ _ _ hu)

theorem execFsave_memOk {d a sc n} (hs : s.MemOk) : ResOk (execFsave d a sc n s) := by
  unfold execFsave
  refine imageOp_memOk hs (fun _ _ _ ht => ?_)
  split
  · rename_i e
    exact ht.readySpan.of_fst e
  · rename_i e
    exact State.MemOk.reply (memOk_foldl (fun _ hv _ => hv.put) (ht.readySpan.of_fst e))

theorem State.MemOk.readImage {h} {go : Word → Word → List Word → State → State} (hs : s.MemOk)
    (hg : ∀ w w1 l t, t.MemOk → (go w w1 l t).MemOk) : (s.readImage h go).MemOk := by
  unfold State.readImage
  split
  · rename_i e
    exact hs.readySpan.of_fst e
  · rename_i e
    extract_lets
    split
    · rename_i e'
      exact (hs.readySpan.of_fst e).readySpan.of_fst e'
    · rename_i e'
      exact hg _ _ _ _ ((hs.readySpan.of_fst e).readySpan.of_fst e')

theorem execFload_memOk {d a sc n} (hs : s.MemOk) : ResOk (execFload d a sc n s) := by
  unfold execFload
  refine frontOp_memOk hs (fun _ ht => ?_)
  split
  · exact ht.raise
  · split
    · exact ht.raise
    · refine ht.scoped (fun _ hu => ?_)
      refine hu.readImage (fun _ _ _ _ hv => ?_)
      extract_lets
      split
      · exact memOk_ite hv.setFront.reply hv.frontFault
      · exact hv.frontFault

theorem execFmerge_memOk {d a sc n} (hs : s.MemOk) : ResOk (execFmerge d a sc n s) := by
  unfold execFmerge
  refine imageOp_memOk hs (fun _ _ _ ht => ?_)
  refine memOk_ite ht.frontFault ?_
  refine ht.readImage (fun _ _ _ _ hu => ?_)
  split
  · split
    · extract_lets _ _ _ v
      have hv : v.MemOk := hu.setFront
      split
      · exact hv.frontFault
      · exact hv.reply
    · exact hu.frontFault
  · exact hu.frontFault

theorem execFstat_memOk {d sc n} (hs : s.MemOk) : ResOk (execFstat d sc n s) := by
  unfold execFstat
  refine frontOp_memOk hs (fun _ ht => ?_)
  exact ht.scoped fun _ hu => hu.reply

theorem State.MemOk.forgo {i j} (hs : s.MemOk) : (s.forgo i j).MemOk := by
  unfold State.forgo
  exact memOk_ite hs.setCore.bump.tryLater hs.tryLater

theorem State.MemOk.carry {core out ks} (hs : s.MemOk) : (s.carry core out ks).MemOk := by
  unfold State.carry
  refine memOk_foldl (fun _ ht _ => ?_) hs
  extract_lets
  split
  · exact ht
  · exact memOk_ite ht.send ht.send

end Sys2Proof.Machine

end

section
/-! The copy engine. -/

namespace Sys2Proof.Machine

variable {s : State}

theorem State.MemOk.acceptCopy {q c} (hs : s.MemOk) : (s.acceptCopy q c).MemOk := by
  unfold State.acceptCopy
  extract_lets _ t
  have ht : t.MemOk := hs.setRoom
  exact memOk_ite hs.hold (memOk_ite ht.post ht)

theorem copyOp_memOk {d a b i form sv dv q} (hs : s.MemOk) : ResOk (copyOp d a b i form sv dv q s) := by
  unfold copyOp
  refine resOk_ite hs.porchFault ?_
  extract_lets
  refine resOk_ite hs.operand (resOk_ite hs.operand ?_)
  split
  · exact hs.raise
  · exact hs.raise
  · exact resOk_ite hs.operand (resOk_ite hs.operand hs.acceptCopy)

theorem execCpym_memOk {d a b v q} (hs : s.MemOk) : ResOk (execCpym d a b v q s) := by
  unfold execCpym
  refine resOk_ite hs.porchFault ?_
  extract_lets
  refine resOk_ite hs.operand ?_
  split
  · exact hs.raise
  · exact hs.raise
  · exact hs.raise
  · split
    · exact hs.raise
    · exact hs.raise
    · exact resOk_ite hs.operand hs.acceptCopy

theorem State.MemOk.places {hall right l} (hs : s.MemOk) : (s.places hall right l).state.MemOk := by
  induction l generalizing s with
  | nil => exact hs
  | cons h l ih =>
    unfold State.places
    split
    · rename_i t p e
      have ht : t.MemOk := hs.houseWord.of_ok e
      split
      · rename_i e'
        exact (ih ht).of_ok e'
      · rename_i e'
        exact (ih ht).of_wait e'
      · rename_i e'
        exact (ih ht).of_bad e'
    · rename_i e
      exact hs.houseWord.of_wait e
    · rename_i e
      exact hs.houseWord.of_bad e

theorem State.MemOk.copyPart {source p n v} (hs : s.MemOk) : (s.copyPart source p n v).MemOk := by
  unfold State.copyPart
  exact memOk_ite hs.free.put hs.put

theorem State.MemOk.copyWords {source n l l1 l2} (hs : s.MemOk) : (s.copyWords source n l l1 l2).MemOk := by
  induction l generalizing s l1 l2 with
  | nil => exact hs
  | cons p ps ih =>
    cases l2 with
    | nil => cases l1 <;> exact hs
    | cons v vs =>
      cases l1 with
      | nil => exact ih hs.copyPart
      | cons t ts => exact ih hs.copyPart.copyPart

theorem State.MemOk.sourcePlaces {hall c} (hs : s.MemOk) : (s.sourcePlaces hall c).state.MemOk := by
  unfold State.sourcePlaces
  split
  · rename_i e
    split
    · rename_i e'
      exact (hs.places.of_ok e).places.of_ok e'
    · rename_i e'
      exact (hs.places.of_ok e).places.of_wait e'
    · rename_i e'
      exact (hs.places.of_ok e).places.of_bad e'
  · rename_i e
    exact hs.places.of_wait e
  · rename_i e
    exact hs.places.of_bad e

theorem State.MemOk.targetPlaces {hall c} (hs : s.MemOk) : (s.targetPlaces hall c).state.MemOk := by
  unfold State.targetPlaces
  split
  · rename_i e
    split
    · rename_i e'
      exact (hs.places.of_ok e).places.of_ok e'
    · rename_i e'
      exact (hs.places.of_ok e).places.of_wait e'
    · rename_i e'
      exact (hs.places.of_ok e).places.of_bad e'
  · rename_i e
    exact hs.places.of_wait e
  · rename_i e
    exact hs.places.of_bad e

theorem State.MemOk.scramble {hall l} (hs : s.MemOk) : (s.scramble hall l).MemOk := by
  induction l generalizing s with
  | nil => exact hs
  | cons h l ih =>
    unfold State.scramble
    split
    · rename_i e
      exact ih (hs.houseWord.of_ok e).free.put
    · rename_i e
      exact ih (hs.houseWord.of_wait e)
    · rename_i e
      exact ih (hs.houseWord.of_bad e)

theorem State.MemOk.setHead {room q c} (hs : s.MemOk) : (s.setHead room q c).MemOk := hs.setRoom

theorem State.MemOk.parkCopy {room q c h acc why} (hs : s.MemOk) : (s.parkCopy room q c h acc why).MemOk := by
  unfold State.parkCopy
  extract_lets _ t
  have ht : t.MemOk := hs.setHead
  exact State.MemOk.tell (ht.of_mem rfl)

theorem State.MemOk.nextChunk {room q} (hs : s.MemOk) : (s.nextChunk room q).MemOk := memOk_ite hs hs.post

theorem State.MemOk.recordFailure {room f} (hs : s.MemOk) : (s.recordFailure room f).MemOk := State.MemOk.setRoom (hs.of_mem rfl)

theorem State.MemOk.copyDone {room q c} (hs : s.MemOk) : (s.copyDone room q c).MemOk := by
  unfold State.copyDone
  extract_lets t
  have ht : t.MemOk := hs.setRoom
  exact State.MemOk.forget (State.MemOk.nextChunk (memOk_ite ht.kick ht))

theorem State.MemOk.copyFail {room q c} (hs : s.MemOk) : (s.copyFail room q c).MemOk := by
  unfold State.copyFail
  extract_lets _ _ t u
  have ht : t.MemOk := hs.traceTo
  have hu : u.MemOk := memOk_ite ht.recordFailure ht.lateRecord
  exact hu.copyDone

theorem State.MemOk.plainChunk {room q c} (hs : s.MemOk) : (s.plainChunk room q c).MemOk := by
  unfold State.plainChunk
  extract_lets _ _ go
  have hgo : ∀ t, t.MemOk → (go t).MemOk := fun _ ht => memOk_ite ht.setHead.nextChunk ht.copyDone
  split
  · exact hs.copyFail
  · split
    · exact hs.copyFail
    · split
      · rename_i e1
        exact (hs.sourcePlaces.of_wait e1).parkCopy
      · rename_i e1
        exact (hs.sourcePlaces.of_bad e1).copyFail
      · rename_i e1
        split
        · rename_i e2
          exact ((hs.sourcePlaces.of_ok e1).targetPlaces.of_wait e2).parkCopy
        · rename_i e2
          exact ((hs.sourcePlaces.of_ok e1).targetPlaces.of_bad e2).copyFail
        · rename_i e2
          extract_lets _ v w
          have hv : v.MemOk := ((hs.sourcePlaces.of_ok e1).targetPlaces.of_ok e2).copyWords.useBanks
          have hw : w.MemOk := hv.carry.carry
          split
          · split
            · rename_i e4
              exact hgo _ (hw.landing.of_some e4)
            · exact hw.copyFail
          · exact hgo _ hw

theorem State.MemOk.destAt {hall c i x} (hs : s.MemOk) : (s.destAt hall c i x).state.MemOk := by
  unfold State.destAt
  split
  · exact hs
  · split
    · exact hs
    · split
      · exact hs
      · split
        · rename_i e3
          exact hs.places.of_wait e3
        · rename_i e3
          exact hs.places.of_bad e3
        · rename_i e3
          split
          · exact hs.places.of_ok e3
          · exact hs.places.of_ok e3

theorem State.MemOk.destsAt {hall c i l} (hs : s.MemOk) : (s.destsAt hall c i l).1.MemOk := by
  induction l generalizing s i with
  | nil => exact hs
  | cons x l ih =>
    unfold State.destsAt
    split
    · rename_i e
      exact hs.destAt.of_wait e
    · rename_i e
      exact ih (hs.destAt.of_bad e)
    · rename_i e
      exact ih (hs.destAt.of_ok e)

theorem State.MemOk.readList {room q c} {go : State → CopyCmd → State} (hs : s.MemOk)
    (hg : ∀ t, t.MemOk → ∀ c1, (go t c1).MemOk) : (s.readList room q c go).MemOk := by
  unfold State.readList
  extract_lets
  split
  · rename_i e
    exact (hs.houseRead.of_wait e).parkCopy
  · rename_i e
    exact (hs.houseRead.of_bad e).copyFail
  · rename_i e
    extract_lets _ _ u
    have hu : u.MemOk := (hs.houseRead.of_ok e).of_mem rfl
    split
    · exact hg _ (hs.houseRead.of_ok e) _
    · split
      · exact hg _ (hs.houseRead.of_ok e) _
      · split
        · rename_i e2
          exact ((hs.houseRead.of_ok e).houseRead.of_wait e2).parkCopy
        · rename_i e2
          exact hg _ ((hs.houseRead.of_ok e).houseRead.of_bad e2) _
        · rename_i e2
          split
          · rename_i e3
            exact (((hs.houseRead.of_ok e).houseRead.of_ok e2).destsAt.of_fst e3).parkCopy
          · rename_i e3
            exact hg _ (((hs.houseRead.of_ok e).houseRead.of_ok e2).destsAt.of_fst e3) _

theorem State.MemOk.spread {hall c source vs l} (hs : s.MemOk) : (s.spread hall c source vs l).1.MemOk := by
  induction l generalizing s with
  | nil => exact hs
  | cons d l ih =>
    cases d with
    | none => exact ih hs
    | some h =>
      unfold State.spread
      split
      · rename_i t ps e
        extract_lets u
        have hu : u.MemOk := State.MemOk.carry (State.MemOk.useBanks (State.MemOk.copyWords (hs.places.of_ok e)))
        split
        · split
          · rename_i e'
            exact ih (hu.landing.of_some e')
          · exact ih hu
        · exact ih hu
      · rename_i e
        exact ih (State.MemOk.scramble (hs.places.of_wait e))
      · rename_i e
        exact ih (State.MemOk.scramble (hs.places.of_bad e))

theorem State.MemOk.dropRefused {hall c i l} (hs : s.MemOk) : (s.dropRefused hall c i l).1.MemOk := by
  induction l generalizing i with
  | nil => exact hs
  | cons d l ih =>
    unfold State.dropRefused
    extract_lets r
    have hr : r.1.MemOk := ih
    split
    · exact hr
    · split
      · exact hr.scramble
      · exact hr

theorem State.MemOk.listStatus {room q c} (hs : s.MemOk) : (s.listStatus room q c).MemOk := by
  unfold State.listStatus
  extract_lets
  split
  · rename_i e
    exact (hs.houseRead.of_wait e).parkCopy
  · rename_i e
    exact (hs.houseRead.of_bad e).copyFail
  · rename_i e
    split
    · rename_i e'
      exact ((hs.houseRead.of_ok e).houseWrite.of_wait e').parkCopy
    · rename_i e'
      exact ((hs.houseRead.of_ok e).houseWrite.of_bad e').copyFail
    · rename_i e'
      exact memOk_ite ((hs.houseRead.of_ok e).houseWrite.of_ok e').copyDone ((hs.houseRead.of_ok e).houseWrite.of_ok e').copyFail

theorem State.MemOk.spreadChunk {room q c} (hs : s.MemOk) : (s.spreadChunk room q c).MemOk := by
  unfold State.spreadChunk
  extract_lets _ _ lose
  have hlose : ∀ t, t.MemOk → (lose t).MemOk := fun _ ht => memOk_ite ht (memOk_foldl (fun _ hu _ => hu.scramble) ht)
  split
  · exact memOk_ite hs.copyFail hs.listStatus
  · split
    · exact (hlose _ hs).listStatus
    · split
      · rename_i e1
        exact (hs.sourcePlaces.of_wait e1).parkCopy
      · rename_i e1
        exact (hlose _ (hs.sourcePlaces.of_bad e1)).listStatus
      · rename_i e1
        extract_lets
        split
        · exact (hs.sourcePlaces.of_ok e1).dropRefused.parkCopy
        · split
          · exact (hs.sourcePlaces.of_ok e1).dropRefused.useBanks.carry.spread.listStatus
          · exact (hs.sourcePlaces.of_ok e1).dropRefused.useBanks.carry.spread.setHead.nextChunk

theorem execCopyChunk_memOk {room queue} (hs : s.MemOk) : ResOk (execCopyChunk room queue s) := by
  unfold execCopyChunk
  split
  · exact hs
  · exact resOk_ite hs (resOk_ite hs.defer (resOk_ite (resOk_ite (resOk_ite hs.copyFail (hs.readList (fun _ ht _ => ht.spreadChunk)))
      hs.spreadChunk) hs.plainChunk))

end Sys2Proof.Machine

end

section
/-! The Delta. -/

namespace Sys2Proof.Machine

variable {s : State}

/-! The Delta's operations run over a state and give a result with the state that they leave, or do not commit (19 R364). -/

/-- An operation of the Delta that commits in a canonical memory leaves one. -/
structure Keeps {α : Type} (m : D α) : Prop where
  memOk : ∀ {s : State} {a : α} {t : State}, m s = .ok (a, t) → s.MemOk → t.MemOk

/-- An operation of the Delta whose result is the state of its commit: that state is one of canonical memory. -/
structure Commits (m : D State) : Prop where
  memOk : ∀ {s u t : State}, m s = .ok (u, t) → s.MemOk → u.MemOk

section
variable {α β : Type} {m : D α} {f : α → D β}

theorem keeps_pure {a : α} : Keeps (pure a : D α) := by
  refine ⟨fun e hs => ?_⟩
  cases e
  exact hs

theorem keeps_throw {e : DErr} : Keeps (throw e : D α) := by
  refine ⟨fun e => ?_⟩
  cases e

/-- What runs after a result finds the state that came with it. -/
theorem Keeps.bind (hm : Keeps m) (hf : ∀ a, Keeps (f a)) : Keeps (m >>= f) := by
  refine ⟨fun {s _ _} e hs => ?_⟩
  cases hr : m s with
  | error x =>
    have : (m >>= f) s = .error x := by simp only [Bind.bind, StateT.bind, hr, Except.bind]
    rw [this] at e
    cases e
  | ok r =>
    have : (m >>= f) s = f r.1 r.2 := by simp only [Bind.bind, StateT.bind, hr, Except.bind]
    rw [this] at e
    exact (hf r.1).memOk e (hm.memOk hr hs)

/-- What runs after `get` may rely on the state that it names. -/
theorem keeps_get_bind {f : State → D β} (hf : ∀ s, s.MemOk → Keeps (f s)) : Keeps (get >>= f) :=
  ⟨fun {s _ _} e hs => (hf s hs).memOk e hs⟩

theorem keeps_set {s : State} (hs : s.MemOk) : Keeps (set s : D PUnit) := by
  refine ⟨fun e _ => ?_⟩
  cases e
  exact hs

theorem keeps_modify {f : State → State} (hf : ∀ s, s.MemOk → (f s).MemOk) : Keeps (modify f : D PUnit) := by
  refine ⟨fun e hs => ?_⟩
  cases e
  exact hf _ hs

theorem keeps_ite {c : Prop} {_ : Decidable c} {x y : D α} (hx : Keeps x) (hy : Keeps y) : Keeps (if c then x else y) := by
  split
  · exact hx
  · exact hy

theorem keeps_forIn {γ : Type} {l : List γ} {f : γ → α → D (ForInStep α)} {a : α} (hf : ∀ x a, Keeps (f x a)) : Keeps (forIn l a f) := by
  induction l generalizing a with
  | nil => exact keeps_pure
  | cons x l ih =>
    rw [List.forIn_cons]
    refine (hf x a).bind fun r => ?_
    cases r with
    | done b => exact keeps_pure
    | yield b => exact ih

end

theorem dFree_keeps {n} : Keeps (dFree n) := by
  refine ⟨fun e hs => ?_⟩
  cases e
  exact hs.free

theorem dReach_keeps {t k h right} : Keeps (dReach t k h right) := by
  refine ⟨fun e hs => ?_⟩
  unfold dReach at e
  split at e
  · cases e
  · rename_i e'
    have hu := hs.reach.of_fst e'
    repeat' split at e
    all_goals cases e
    exact hu

theorem dPlace_keeps {t k h right} : Keeps (dPlace t k h right) :=
  keeps_ite (dReach_keeps.bind fun _ => dReach_keeps) dReach_keeps

theorem dRead_keeps {t k h n} : Keeps (dRead t k h n) :=
  keeps_ite dFree_keeps (dPlace_keeps.bind fun _ => keeps_ite (keeps_get_bind fun _ _ => keeps_pure) dFree_keeps)

theorem dGive_keeps {t v} : Keeps (dGive t v) := keeps_ite keeps_pure dFree_keeps

theorem dWrite_keeps {t k h n v} : Keeps (dWrite t k h n v) := by
  have hput : ∀ p x, Keeps (modify fun s => s.store (Phys.key p) n x : D PUnit) := fun _ _ => keeps_modify fun _ hs => hs.store
  refine keeps_ite (dPlace_keeps.bind fun p => ?_) keeps_pure
  exact keeps_ite (keeps_pure.bind fun x => hput p x) (dFree_keeps.bind fun x => hput p x)

theorem dField_keeps {t k h hi lo} : Keeps (dField t k h hi lo) := dRead_keeps.bind fun _ => keeps_pure

theorem dSet_keeps {t k h hi lo f} : Keeps (dSet t k h hi lo f) := dRead_keeps.bind fun _ => dWrite_keeps

/-- Words written one after the other. -/
theorem dWrites_keeps {l : List Nat} {t k n v} {h : Nat → Nat} :
    Keeps (forIn l PUnit.unit fun i _ => do dWrite t k (h i) n v; pure (ForInStep.yield PUnit.unit)) :=
  keeps_forIn fun _ _ => dWrite_keeps.bind fun _ => keeps_pure

theorem formatTree_keeps {d t} : Keeps (formatTree d t) :=
  dWrites_keeps.bind fun _ => dWrite_keeps.bind fun _ => dWrite_keeps.bind fun _ => dWrites_keeps.bind fun _ =>
    dWrite_keeps.bind fun _ => dWrite_keeps.bind fun _ => dWrite_keeps

/-- A tree is noted beside memory. -/
theorem noteTree_keeps {d} {t : Tree} : Keeps (do modify fun s => { s with trees := tset s.trees d t }; pure t : D Tree) :=
  Keeps.bind (keeps_modify (f := fun s => { s with trees := tset s.trees d t }) fun _ hs => hs.of_mem rfl) fun _ => keeps_pure

theorem openTree_keeps {d} : Keeps (openTree d) := by
  unfold openTree
  refine keeps_get_bind fun s _ => ?_
  extract_lets probe found src any ws
  refine dRead_keeps.bind fun w0 => dField_keeps.bind fun st => ?_
  extract_lets +onlyGivenNames kept station found_at
  have hfound : ∀ u, Keeps (found_at u) := by
    intro u
    unfold found_at
    clear_value kept
    cases kept with
    | some t => exact keeps_ite keeps_pure (keeps_get_bind fun _ _ => noteTree_keeps)
    | none =>
      refine (keeps_forIn fun _ _ => dRead_keeps.bind fun _ => keeps_pure).bind fun ws => ?_
      refine keeps_ite (keeps_get_bind fun _ _ => keeps_get_bind fun _ _ => dFree_keeps.bind fun _ => noteTree_keeps) ?_
      exact keeps_ite keeps_throw (formatTree_keeps.bind fun _ => noteTree_keeps)
  exact keeps_ite (keeps_throw.bind hfound) (hfound ())

theorem nodeGen_keeps {t i} : Keeps (nodeGen t i) := dField_keeps

theorem nodeDepth_keeps {t i} : Keeps (nodeDepth t i) := dField_keeps

theorem handleOf_keeps {t i} : Keeps (handleOf t i) := nodeGen_keeps.bind fun _ => dGive_keeps

theorem liveNode_keeps {t h} : Keeps (liveNode t h) := by
  unfold liveNode
  split
  · exact keeps_throw
  · exact dRead_keeps.bind fun _ => keeps_ite keeps_pure keeps_throw

theorem count_keeps {d t i n} : Keeps (count d t i n) := dRead_keeps.bind fun _ => dWrite_keeps

theorem pinNode_keeps {t i h} : Keeps (pinNode t i h) := by
  have hpin : Keeps (do dSet t .node (t.node i + 0x20) 31 0 (· + 1); dWrite t .node (t.node i + 0x28) 8 (← get).now) :=
    dSet_keeps.bind fun _ => keeps_get_bind fun _ _ => dWrite_keeps
  exact dField_keeps.bind fun _ => keeps_ite (keeps_throw.bind fun _ => hpin) hpin

theorem readSyms_keeps {t k a n} : Keeps (readSyms t k a n) := by
  induction n generalizing a with
  | zero => exact keeps_pure
  | succ n ih => exact dRead_keeps.bind fun _ => ih.bind fun _ => keeps_pure

theorem sameSyms_keeps {t i xs} : Keeps (sameSyms t i xs) :=
  dField_keeps.bind fun _ => dField_keeps.bind fun _ => keeps_ite keeps_pure
    (readSyms_keeps.bind fun _ => keeps_ite (dFree_keeps.bind fun _ => keeps_pure) keeps_pure)

theorem keepSlot_keeps {d t i a clean} : Keeps (keepSlot d t i a clean) := keeps_modify fun _ hs => hs.of_mem rfl

theorem dropSlot_keeps {d t i} : Keeps (dropSlot d t i) := keeps_modify fun _ hs => hs.of_mem rfl

theorem findChild_keeps {t key xs f link c} : Keeps (findChild t key xs f link c) := by
  induction f generalizing link c with
  | zero => exact keeps_pure
  | succ f ih =>
    unfold findChild
    split
    · exact keeps_pure
    · exact dField_keeps.bind fun _ => keeps_ite
        (sameSyms_keeps.bind fun _ => keeps_ite keeps_pure (dRead_keeps.bind fun _ => ih)) (dRead_keeps.bind fun _ => ih)

theorem walkTree_keeps {t input f n h c} : Keeps (walkTree t input f n h c) := by
  induction f generalizing input n h c with
  | zero => exact keeps_pure
  | succ f ih =>
    refine nodeDepth_keeps.bind fun _ => keeps_ite keeps_pure ?_
    refine readSyms_keeps.bind fun _ => dRead_keeps.bind fun _ => findChild_keeps.bind fun ⟨r, _⟩ => ?_
    cases r with
    | none => exact keeps_pure
    | some x => exact ih

theorem lookTree_keeps {d input n minimum} : Keeps (lookTree d input n minimum) := by
  refine openTree_keeps.bind fun _ => walkTree_keeps.bind fun ⟨_, _⟩ => ?_
  refine count_keeps.bind fun _ => count_keeps.bind fun _ => nodeDepth_keeps.bind fun _ => keeps_ite ?_ ?_
  · exact dGive_keeps.bind fun _ => dGive_keeps.bind fun _ => dGive_keeps.bind fun _ => keeps_pure
  · exact handleOf_keeps.bind fun _ => pinNode_keeps.bind fun _ => count_keeps.bind fun _ => dGive_keeps.bind fun _ =>
      dRead_keeps.bind fun _ => keeps_pure

theorem victim_keeps {t tier spare n} : Keeps (victim t tier spare n) := by
  induction n with
  | zero => exact keeps_pure
  | succ n ih =>
    refine ih.bind fun best => dRead_keeps.bind fun _ => dField_keeps.bind fun _ => keeps_ite ?_ keeps_pure
    refine dRead_keeps.bind fun _ => keeps_ite keeps_pure (dRead_keeps.bind fun _ => ?_)
    cases best with
    | none => exact keeps_pure
    | some x => exact keeps_pure

theorem usedRecords_keeps {d t} : Keeps (usedRecords d t) := dField_keeps.bind fun _ => keeps_pure

theorem freeSlot_keeps {d t cell a} : Keeps (freeSlot d t cell a) :=
  keeps_ite keeps_pure (dField_keeps.bind fun _ => dWrite_keeps.bind fun _ => dSet_keeps.bind fun _ => keeps_ite dSet_keeps dSet_keeps)

theorem takeSlot_keeps {d t cell} : Keeps (takeSlot d t cell) := by
  unfold takeSlot
  extract_lets +onlyGivenNames st base cap took
  refine dField_keeps.bind fun free => dField_keeps.bind fun next => ?_
  have htook : Keeps took := keeps_ite dSet_keeps dSet_keeps
  refine keeps_ite (dRead_keeps.bind fun _ => dSet_keeps.bind fun _ => htook.bind fun _ => keeps_pure) ?_
  exact keeps_ite (dSet_keeps.bind fun _ => htook.bind fun _ => keeps_pure) keeps_pure

theorem unlink_keeps {t me next f at'} : Keeps (unlink t me next f at') := by
  induction f generalizing at' with
  | zero => exact keeps_pure
  | succ f ih =>
    refine dRead_keeps.bind fun _ => ?_
    split
    · exact keeps_pure
    · exact keeps_ite dWrite_keeps ih

theorem removeNode_keeps {d t i} : Keeps (removeNode d t i) := by
  unfold removeNode
  extract_lets +onlyGivenNames a
  refine dRead_keeps.bind fun _ => ?_
  extract_lets +onlyGivenNames rest
  have hrest : ∀ u, Keeps (rest u) := fun _ =>
    dField_keeps.bind fun _ => dField_keeps.bind fun _ => freeSlot_keeps.bind fun _ => dropSlot_keeps.bind fun _ =>
      dSet_keeps.bind fun _ => dSet_keeps.bind fun _ => dField_keeps.bind fun _ => dWrite_keeps.bind fun _ =>
      dSet_keeps.bind fun _ => dSet_keeps.bind fun _ => dSet_keeps.bind fun _ => count_keeps
  split
  · exact dRead_keeps.bind fun _ => unlink_keeps.bind hrest
  · exact dRead_keeps.bind fun _ => unlink_keeps.bind hrest

theorem dCopy_keeps {t ks kd n src dst} : Keeps (dCopy t ks kd n src dst) := by
  induction n generalizing src dst with
  | zero => exact keeps_pure
  | succ n ih => exact dRead_keeps.bind fun _ => dWrite_keeps.bind fun _ => ih

theorem demoteNode_keeps {d t i spare} : Keeps (demoteNode d t i spare) := by
  unfold demoteNode
  extract_lets +onlyGivenNames n
  refine takeSlot_keeps.bind fun free => ?_
  extract_lets +onlyGivenNames rest
  have hrest : ∀ slot, Keeps (rest slot) := by
    intro slot
    unfold rest
    split
    · exact keeps_pure
    · refine dField_keeps.bind fun old => ?_
      extract_lets +onlyGivenNames move
      have hmove : ∀ u, Keeps (move u) := fun _ =>
        freeSlot_keeps.bind fun _ => dSet_keeps.bind fun _ => dWrite_keeps.bind fun _ => dWrite_keeps.bind fun _ =>
          keepSlot_keeps.bind fun _ => count_keeps.bind fun _ => keeps_pure
      exact keeps_ite (dCopy_keeps.bind hmove) (hmove ())
  split
  · exact keeps_pure.bind hrest
  · refine usedRecords_keeps.bind fun _ => victim_keeps.bind fun v => ?_
    cases v with
    | none => exact keeps_pure.bind hrest
    | some x => exact removeNode_keeps.bind fun _ => takeSlot_keeps.bind hrest

theorem takeRecord_keeps {d t} : Keeps (takeRecord d t) := by
  refine dField_keeps.bind fun _ => dField_keeps.bind fun _ => keeps_ite ?_ (keeps_ite ?_ keeps_pure)
  · exact dSet_keeps.bind fun _ => dField_keeps.bind fun _ => dSet_keeps.bind fun _ => keeps_pure
  · exact dSet_keeps.bind fun _ => dWrite_keeps.bind fun _ => keeps_pure

theorem hasRecord_keeps {d t} : Keeps (hasRecord d t) := dField_keeps.bind fun _ => dField_keeps.bind fun _ => keeps_pure

theorem hasSlot_keeps {d t} : Keeps (hasSlot d t) := dField_keeps.bind fun _ => dField_keeps.bind fun _ => keeps_pure

theorem removeVictim_keeps {d t tier p} : Keeps (removeVictim d t tier p) := by
  refine usedRecords_keeps.bind fun _ => victim_keeps.bind fun v => ?_
  cases v with
  | none => exact keeps_throw
  | some x => exact removeNode_keeps

theorem needBoth_keeps {d t p} : Keeps (needBoth d t p) := by
  unfold needBoth
  refine hasRecord_keeps.bind fun _ => ?_
  extract_lets +onlyGivenNames both slot
  have hboth : ∀ u, Keeps (both u) := by
    refine fun _ => takeRecord_keeps.bind fun _ => takeSlot_keeps.bind fun _ => ?_
    split
    · exact keeps_pure
    · exact keeps_throw
  have hslot : ∀ u, Keeps (slot u) := by
    intro u
    refine hasSlot_keeps.bind fun _ => keeps_ite (keeps_ite ?_ (removeVictim_keeps.bind hboth)) (hboth ())
    refine usedRecords_keeps.bind fun _ => victim_keeps.bind fun v => ?_
    cases v with
    | none => exact keeps_throw.bind hboth
    | some x => exact demoteNode_keeps.bind fun _ => keeps_ite (keeps_throw.bind hboth) (hboth ())
  exact keeps_ite (removeVictim_keeps.bind hslot) (hslot ())

theorem addChild_keeps {d t p key syms len data} : Keeps (addChild d t p key syms len data) := by
  unfold addChild
  refine needBoth_keeps.bind fun ⟨i, slot⟩ => dCopy_keeps.bind fun _ => dCopy_keeps.bind fun _ => ?_
  extract_lets +onlyGivenNames a
  refine nodeGen_keeps.bind fun _ => nodeDepth_keeps.bind fun _ => dRead_keeps.bind fun _ => dWrite_keeps.bind fun _ => ?_
  extract_lets +onlyGivenNames rest
  have hrest : ∀ parent, Keeps (rest parent) := fun _ =>
    dWrite_keeps.bind fun _ => dWrite_keeps.bind fun _ => dWrite_keeps.bind fun _ => dWrite_keeps.bind fun _ =>
      keeps_get_bind fun _ _ => dWrite_keeps.bind fun _ => dWrite_keeps.bind fun _ => dWrite_keeps.bind fun _ =>
      dWrite_keeps.bind fun _ => dWrites_keeps.bind fun _ => keepSlot_keeps.bind fun _ => dSet_keeps.bind fun _ =>
      dSet_keeps.bind fun _ => handleOf_keeps.bind fun _ => dWrite_keeps.bind fun _ => count_keeps.bind fun _ => keeps_pure
  exact keeps_ite (keeps_pure.bind hrest) (handleOf_keeps.bind hrest)

theorem dSpan_keeps {a n} : Keeps (dSpan a n) := by
  refine ⟨fun e hs => ?_⟩
  unfold dSpan at e
  repeat' split at e
  all_goals cases e
  exact hs

theorem putTree_keeps {d block} : Keeps (putTree d block) := by
  unfold putTree
  refine openTree_keeps.bind fun t => dRead_keeps.bind fun parent => dRead_keeps.bind fun sa => dRead_keeps.bind fun pa =>
    dRead_keeps.bind fun lw => ?_
  extract_lets +onlyGivenNames len
  refine dSpan_keeps.bind fun syms => dSpan_keeps.bind fun data => ?_
  extract_lets +onlyGivenNames under named
  have hunder : ∀ p, Keeps (under p) := by
    intro p
    unfold under
    refine nodeDepth_keeps.bind fun _ => ?_
    extract_lets +onlyGivenNames search
    have hsearch : ∀ u, Keeps (search u) := by
      intro u
      unfold search
      refine readSyms_keeps.bind fun _ => dField_keeps.bind fun _ => dRead_keeps.bind fun _ => findChild_keeps.bind fun ⟨r, _⟩ => ?_
      refine count_keeps.bind fun _ => ?_
      cases r with
      | some x => exact handleOf_keeps.bind fun _ => pinNode_keeps.bind fun _ => count_keeps.bind fun _ => keeps_pure
      | none =>
        refine keeps_get_bind fun s hs => ?_
        split
        · rename_i e
          exact (keeps_set (addChild_keeps.memOk e hs)).bind fun _ => keeps_pure
        · exact dGive_keeps.bind fun _ => keeps_pure
        · exact keeps_throw
    exact keeps_ite (keeps_throw.bind hsearch) (hsearch ())
  have hnamed : ∀ u, Keeps (named u) := fun _ => keeps_ite (keeps_pure.bind hunder) (liveNode_keeps.bind hunder)
  exact keeps_ite (keeps_throw.bind hnamed) (hnamed ())

theorem relTree_keeps {d h} : Keeps (relTree d h) :=
  openTree_keeps.bind fun _ => liveNode_keeps.bind fun _ => dField_keeps.bind fun _ =>
    keeps_ite (keeps_throw.bind fun _ => dSet_keeps) dSet_keeps

theorem touchTree_keeps {d h} : Keeps (touchTree d h) :=
  openTree_keeps.bind fun _ => liveNode_keeps.bind fun _ => keeps_get_bind fun _ _ => dWrite_keeps

theorem statTree_keeps {d b} : Keeps (statTree d b) := by
  unfold statTree
  refine openTree_keeps.bind fun t => ?_
  extract_lets +onlyGivenNames give
  have hgive : ∀ v, Keeps (give v) := fun _ => dGive_keeps
  exact keeps_ite (dRead_keeps.bind hgive) (keeps_ite (dField_keeps.bind hgive) (keeps_ite (dField_keeps.bind hgive)
    (keeps_ite (dField_keeps.bind hgive) (dField_keeps.bind hgive))))

theorem keepTree_keeps {d} : Keeps (keepTree d) := by
  refine keeps_get_bind fun _ _ => ?_
  split
  · exact keeps_pure
  · refine dField_keeps.bind fun _ => keeps_ite keeps_pure (usedRecords_keeps.bind fun _ => victim_keeps.bind fun v => ?_)
    cases v with
    | some x => exact removeNode_keeps
    | none =>
      refine keeps_ite (victim_keeps.bind fun v => ?_) keeps_pure
      cases v with
      | none => exact keeps_pure
      | some x => exact demoteNode_keeps.bind fun _ => keeps_pure

theorem commit_commits {α : Type} {m : D α} {f : α → State → State} (hm : Keeps m) (hf : ∀ a t, t.MemOk → (f a t).MemOk) :
    Commits (commit m f) := by
  refine ⟨fun {s _ _} e hs => ?_⟩
  cases hr : m s with
  | error x =>
    have : commit m f s = .error x := by simp only [commit, Bind.bind, StateT.bind, hr, Except.bind]
    rw [this] at e
    cases e
  | ok r =>
    have : commit m f s = .ok (f r.1 r.2, r.2) := by simp only [commit, Bind.bind, StateT.bind, hr]; rfl
    rw [this] at e
    cases e
    exact hf _ _ (hm.memOk hr hs)

theorem deltaOp_memOk {a sc} {pre : State → Option State} {op : Nat → D State} (hs : s.MemOk) (hg1 : ∀ t, t.MemOk → OptOk (pre t))
    (hg2 : ∀ n, Commits (op n)) : ResOk (deltaOp a sc s pre op) := by
  unfold deltaOp
  split
  · exact hs.raise
  · split
    · rename_i e1
      exact (hg1 _ hs).of_some e1
    · refine hs.scoped (fun _ ht => ?_)
      split
      · rename_i e2
        exact ((hg2 _).memOk e2 ht.toward).await.post
      · exact ht.parkTranslation
      · exact ht.raise
      · exact ht.raise
      · exact ht

theorem execDlook_memOk {d a b sc} (hs : s.MemOk) : ResOk (execDlook d a b sc s) := by
  unfold execDlook
  extract_lets cw n input h
  refine deltaOp_memOk hs (fun t ht => ?_) fun _ => commit_commits lookTree_keeps fun _ _ ht => ht.wr.wr.wr
  clear_value h input
  split
  · exact ht.operand
  · split
    · trivial
    · split
      · exact ht.raise
      · exact optOk_map fun _ => ht.raise

theorem execDput_memOk {d a b sc} (hs : s.MemOk) : ResOk (execDput d a b sc s) := by
  unfold execDput
  extract_lets block h
  refine deltaOp_memOk hs (fun t ht => ?_) fun _ => commit_commits putTree_keeps fun _ _ ht => ht.wr.wr
  clear_value h block
  split
  · exact ht.raise
  · exact optOk_map fun _ => ht.raise

theorem execDrel_memOk {a b sc} (hs : s.MemOk) : ResOk (execDrel a b sc s) :=
  deltaOp_memOk hs (fun _ _ => trivial) fun _ => commit_commits relTree_keeps fun _ _ ht => ht

theorem execDstat_memOk {d a b sc} (hs : s.MemOk) : ResOk (execDstat d a b sc s) := by
  refine deltaOp_memOk hs (fun _ ht => ?_) fun _ => commit_commits statTree_keeps fun _ _ ht => ht.wr
  split
  · exact ht.operand
  · trivial

theorem execDtouch_memOk {a b sc} (hs : s.MemOk) : ResOk (execDtouch a b sc s) :=
  deltaOp_memOk hs (fun _ _ => trivial) fun _ => commit_commits touchTree_keeps fun _ _ ht => ht

end Sys2Proof.Machine

end

section
/-! The tile engine. -/

namespace Sys2Proof.Machine

variable {s : State}

theorem State.MemOk.tileOperand {n d} (hs : s.MemOk) : (s.tileOperand n d).MemOk := hs.raise

theorem withParts_memOk {parts} {go : State → State} (hs : s.MemOk) (hg : ∀ t, t.MemOk → (go t).MemOk) : ResOk (withParts parts s go) :=
    resOk_ite hs.porchFault (resOk_ite hs.claimFault (hg _ hs))

theorem State.MemOk.acceptTile {i span stride control descs} (hs : s.MemOk) : (s.acceptTile i span stride control descs).MemOk := by
  unfold State.acceptTile
  extract_lets _ _ t
  have ht : t.MemOk := hs.setRoom
  exact memOk_ite hs.hold (memOk_ite hs (memOk_ite ht.post ht))

theorem withSpan_memOk {g n right paged} {go : Nat → State} (hs : s.MemOk) (hg : ∀ n1, (go n1).MemOk) : (withSpan g n right paged s go).MemOk := by
  unfold withSpan
  extract_lets
  refine memOk_ite hs.operand ?_
  split
  · exact hs.raise
  · exact hg _

theorem rowsOp_memOk {i a g h right least} (hs : s.MemOk) : ResOk (rowsOp i a g h right least s) := by
  unfold rowsOp
  exact withParts_memOk hs fun _ ht => memOk_ite ht.operand (withSpan_memOk ht (fun _ => ht.acceptTile))

theorem execTldx_memOk {a g h} (hs : s.MemOk) : ResOk (execTldx a g h s) := by
  unfold execTldx
  refine withParts_memOk hs (fun _ ht => ?_)
  extract_lets
  refine memOk_ite ht.tileOperand (memOk_ite ht.operand (memOk_ite ht.operand ?_))
  split
  · exact ht.raise
  · exact ht.acceptTile

theorem execTlw_memOk {b c} (hs : s.MemOk) : ResOk (execTlw b c s) := by
  unfold execTlw
  exact withParts_memOk hs fun _ ht => memOk_ite ht.tileOperand ht.acceptTile

theorem execTmma_memOk {a c} (hs : s.MemOk) : ResOk (execTmma a c s) := by
  unfold execTmma
  exact withParts_memOk hs fun _ ht => memOk_ite ht.tileOperand (memOk_ite ht.tileOperand (memOk_ite ht.tileOperand ht.acceptTile))

theorem execTmmaW_memOk {a b c n} (hs : s.MemOk) : ResOk (execTmmaW a b c n s) := by
  unfold execTmmaW
  extract_lets
  refine withParts_memOk hs (fun _ ht => ?_)
  split
  · exact ht.tileOperand
  · exact ht.acceptTile

theorem execTdrain_memOk {c g h sc t} (hs : s.MemOk) : ResOk (execTdrain c g h sc t s) := by
  unfold execTdrain
  exact withParts_memOk hs fun _ hu => memOk_ite hu.operand (withSpan_memOk hu (fun _ => hu.acceptTile))

theorem execTdrainByp_memOk {a c sc z} (hs : s.MemOk) : ResOk (execTdrainByp a c sc z s) := by
  unfold execTdrainByp
  exact withParts_memOk hs fun _ ht => memOk_ite ht.tileOperand (memOk_ite ht.tileOperand ht.acceptTile)

theorem State.MemOk.setTile {room f} (hs : s.MemOk) : (s.setTile room f).MemOk := hs.setRoom

theorem stepped_memOk {k n} (hs : s.MemOk) : (stepped k n s).state.MemOk := by
  unfold stepped
  split
  · exact hs
  · exact hs

theorem State.MemOk.tileRead {hall ks} {go : State → List Nat → TStep} (hs : s.MemOk)
    (hg : ∀ t, t.MemOk → ∀ l, (go t l).state.MemOk) : (s.tileRead hall ks go).state.MemOk := by
  unfold State.tileRead
  split
  · exact hs
  · split
    · rename_i e'
      exact hg _ (hs.places.of_ok e').useBanks _
    · rename_i e'
      exact hs.places.of_wait e'
    · rename_i e'
      exact hs.places.of_bad e'

theorem State.MemOk.tileWrite {hall core ks vs} {go : State → TStep} (hs : s.MemOk)
    (hg : ∀ t, t.MemOk → (go t).state.MemOk) : (s.tileWrite hall core ks vs go).state.MemOk := by
  unfold State.tileWrite
  split
  · exact hs
  · split
    · rename_i e'
      exact hg _ (hs.places.of_ok e').putWords.useBanks.carry
    · rename_i e'
      exact hs.places.of_wait e'
    · rename_i e'
      exact hs.places.of_bad e'

theorem State.MemOk.tldxStep {room c a} (hs : s.MemOk) : (s.tldxStep room c a).state.MemOk := by
  unfold State.tldxStep
  extract_lets
  refine hs.tileRead (fun _ ht _ => ?_)
  extract_lets u
  have hu : u.MemOk := ht.setTile
  exact stepped_memOk hu

theorem last_memOk (hs : s.MemOk) : (TStep.last s).state.MemOk := hs

theorem State.MemOk.tileDo {room c} (hs : s.MemOk) : (s.tileDo room c).state.MemOk := by
  unfold State.tileDo
  extract_lets
  split
  · exact hs.tileRead fun _ ht _ => stepped_memOk ht.setTile
  · exact hs.tileWrite fun _ ht => stepped_memOk ht
  · exact hs.tldxStep
  · exact hs.tileRead fun _ ht _ => last_memOk ht.setTile
  · exact hs.tileWrite fun _ ht => last_memOk ht
  · exact last_memOk hs.setTile
  · exact stepped_memOk hs.setTile
  · exact stepped_memOk hs.setTile
  · exact last_memOk hs.setTile
  · exact last_memOk hs.setTile
  · extract_lets _ _ go
    have hgo : ∀ t, t.MemOk → (go t).state.MemOk := by
      intro _ ht
      unfold go
      split
      · exact ht
      · exact memOk_ite ht.setTile ht
    refine hs.tileWrite (fun _ ht => ?_)
    split
    · split
      · exact ht
      · split
        · rename_i e
          exact hgo _ (ht.landing.of_some e)
        · exact ht
    · exact hgo _ ht
  · extract_lets t
    have ht : t.MemOk := hs.setTile
    split
    · exact ht
    · exact last_memOk ht.setTile
  · exact hs

theorem State.MemOk.tileLoss {room c} (hs : s.MemOk) : (s.tileLoss room c).MemOk := by
  unfold State.tileLoss
  extract_lets _ freed
  have hfreed : ∀ n1 x, (freed n1 x).MemOk := by
    intro _ _
    unfold freed
    extract_lets t
    have ht : t.MemOk := hs.setTile
    exact ht.of_mem rfl
  split
  · exact hfreed _ _
  · exact hfreed _ _
  · exact hfreed _ _
  · exact hs.scramble

theorem State.MemOk.tileOn {room} (hs : s.MemOk) : (s.tileOn room).MemOk := memOk_ite hs.post hs

theorem State.MemOk.tileDone {room c} (hs : s.MemOk) : (s.tileDone room c).MemOk := by
  unfold State.tileDone
  extract_lets t u v
  have ht : t.MemOk := memOk_ite hs.tileLoss hs
  have hu : u.MemOk := ht.setRoom
  have hv : v.MemOk := memOk_ite hu.kick hu
  exact hv.regrant.tileOn.forget

theorem State.MemOk.tileFail {room c reason} (hs : s.MemOk) : (s.tileFail room c reason).MemOk := by
  unfold State.tileFail
  extract_lets t u _ v w
  have ht : t.MemOk := hs.tileLoss
  have hu : u.MemOk := ht.setRoom
  have hv : v.MemOk := hu.recordFailure
  have hw : w.MemOk := memOk_ite (memOk_ite hv.setCtx.kick hv) hu.lateRecord
  exact hw.regrant.tileOn.forget

theorem execTileStep_memOk {room} (hs : s.MemOk) : ResOk (execTileStep room s) := by
  unfold execTileStep
  refine resOk_ite hs ?_
  split
  · exact hs
  · refine resOk_ite hs ?_
    split
    · rename_i e2
      exact (hs.tileDo.of_tile_more e2).setRoom.tileOn
    · rename_i e2
      exact (hs.tileDo.of_tile_last e2).tileDone
    · rename_i e2
      extract_lets _ w
      have hw : w.MemOk := (hs.tileDo.of_tile_wait e2).setRoom
      exact State.MemOk.tileOn (State.MemOk.tell (hw.of_mem rfl))
    · rename_i e2
      exact (hs.tileDo.of_tile_bad e2).tileFail
    · rename_i e2
      exact (hs.tileDo.of_tile_later e2).defer

end Sys2Proof.Machine

end

section
/-! Images, stopping, hand-over and gang stops. -/

namespace Sys2Proof.Machine

variable {s : State}

theorem State.MemOk.blockPages {hall base right} (hs : s.MemOk) : (s.blockPages hall base right).state.MemOk := by
  unfold State.blockPages
  split
  · rename_i e
    split
    · exact hs.places.of_ok e
    · exact hs.places.of_ok e
  · exact hs.places

theorem State.MemOk.bput {ps o n v} (hs : s.MemOk) : (s.bput ps o n v).MemOk := hs.store

theorem State.MemOk.bfree {ps o n} (hs : s.MemOk) : (s.bfree ps o n).MemOk := by
  induction n generalizing s o with
  | zero => exact hs
  | succ n ih => exact ih hs.free.bput

theorem State.MemOk.bputs {ps o t a n} (hs : s.MemOk) : (s.bputs ps o t a n).MemOk := memOk_foldl (fun _ hu _ => hu.bput) hs

theorem State.MemOk.bputWs {ps o l} (hs : s.MemOk) : (s.bputWs ps o l).MemOk := by
  induction l generalizing s o with
  | nil => exact hs
  | cons w l ih => exact ih hs.bput

theorem State.MemOk.saveBlock {ctx ps image} (hs : s.MemOk) : (s.saveBlock ctx ps image).MemOk := by
  unfold State.saveBlock
  extract_lets _ _ u v w x y t1
  have hu : u.MemOk := hs.bfree
  have hv : v.MemOk := hu.bputWs
  have hw : w.MemOk := memOk_foldl (fun _ ht2 _ => memOk_foldl (fun _ ht3 _ => ht3.bput) ht2) hv
  have hx : x.MemOk := by
    unfold x
    refine memOk_foldl (fun _ ht2 _ => ?_) hw
    exact ht2.bputs.bputs.bput
  have hy : y.MemOk := by
    unfold y
    refine memOk_foldl (fun _ ht2 _ => ?_) hx
    extract_lets _ t3 t4 t5 t6
    have ht3 : t3.MemOk := memOk_foldl (fun _ ht7 _ => ht7.bput) ht2
    have ht4 : t4.MemOk := ht3.bputs.bputs
    have ht5 : t5.MemOk := ht4.bput
    have ht6 : t6.MemOk := ht5.bputs.bputs
    exact ht6.bput.bput
  have ht1 : t1.MemOk := memOk_foldl (fun _ ht2 _ => ht2.bputWs) hy
  exact memOk_foldl (fun _ ht2 _ => ht2.bputWs) ht1

theorem State.MemOk.loadBlock {ctx ps} (hs : s.MemOk) : (s.loadBlock ctx ps).MemOk := hs.setCtx.setTile

theorem State.MemOk.retryImages {hall} (hs : s.MemOk) : (s.retryImages hall).MemOk := by
  unfold State.retryImages
  refine memOk_foldl (fun _ ht _ => ?_) hs
  split
  · split
    · exact ht.post
    · exact ht.post
    · exact ht
  · exact ht

theorem State.MemOk.freeBlock {block} (hs : s.MemOk) : (s.freeBlock block).MemOk := by
  unfold State.freeBlock
  refine memOk_foldl (fun _ ht _ => ?_) hs
  exact memOk_ite ht.setHall.retryImages ht

theorem State.MemOk.takeCommands {ctx} (hs : s.MemOk) : (s.takeCommands ctx).MemOk := by
  unfold State.takeCommands
  extract_lets _ _ _ _ _ _ t
  have ht : t.MemOk := hs.setRoom
  exact memOk_ite hs ht.setCtx

theorem State.MemOk.returnCopies {room cs} (hs : s.MemOk) : (s.returnCopies room cs).MemOk := memOk_foldl (fun _ ht _ => ht.setRoom.post) hs

theorem State.MemOk.rejoin {ctx} (hs : s.MemOk) : (s.rejoin ctx).MemOk := by
  unfold State.rejoin
  extract_lets _ _ _ _ t u v
  have ht : t.MemOk := hs.setRoom
  have hu : u.MemOk := ht.returnCopies
  have hv : v.MemOk := memOk_ite hu hu.post
  exact memOk_ite hs hv.setCtx

theorem State.MemOk.halt {ctx park} (hs : s.MemOk) : (s.halt ctx park).MemOk := by
  unfold State.halt
  extract_lets _ t now u v
  have ht : t.MemOk := hs.setCtx
  have hnow : ∀ w, w.MemOk → ∀ n, (now w n).MemOk := fun _ hw _ => hw.setCtx.takeCommands.post
  have hu : u.MemOk := memOk_ite hs.setCtx.regrant hs
  have hv : v.MemOk := hu.dropRequests.dropClaims
  split
  · exact hs
  · exact hs
  · exact hs.post
  · exact hs.post
  · exact hnow _ hs _
  · exact ht.takeCommands
  · exact ht.takeCommands
  · split
    · exact ht
    · split
      · exact memOk_ite ht (memOk_ite (hnow _ hv _) hv.setHall.vacate)
      · exact hnow _ hu.dropRequests _
      · exact hnow _ hu.setCtx _
      · exact hnow _ hu.withdraw _

theorem State.MemOk.boundary {ctx} (hs : s.MemOk) : (s.boundary ctx).MemOk := by
  unfold State.boundary
  extract_lets
  refine memOk_ite hs ?_
  split
  · exact hs.setCtx.raiseAt
  · exact memOk_ite (memOk_ite hs.parkHeld hs) hs.setCtx.halt

theorem State.MemOk.stopWith {ctx f} (hs : s.MemOk) : (s.stopWith ctx f).MemOk := by
  unfold State.stopWith
  extract_lets
  split
  · exact hs
  · exact hs
  · exact hs.setCtx
  · exact memOk_ite (memOk_ite hs.raiseAt hs) hs.setCtx
  · exact hs.setCtx
  · exact hs.setCtx
  · exact hs.raiseAt
  · exact memOk_ite hs.setCtx (State.MemOk.raiseAt (State.MemOk.dropRequests (State.MemOk.withdraw (memOk_ite hs.regrant hs))))

theorem State.MemOk.killTask {hall source core gid doneFuture} (hs : s.MemOk) : (s.killTask hall source core gid doneFuture).MemOk := by
  unfold State.killTask
  extract_lets t u v
  have ht : t.MemOk := hs.flushAll
  have hu : u.MemOk := ht.traceTo
  have hv : v.MemOk := by
    unfold v
    refine memOk_ite ht ?_
    split
    · rename_i e'
      exact ht.fillOf.of_some e'
    · split
      · exact hu.bump
      · exact hu
  exact hv.retired'

theorem State.MemOk.leave {ctx} (hs : s.MemOk) : (s.leave ctx).MemOk := hs.dropClaims.vacate.hearthEvent

theorem State.MemOk.dropImage {ctx} (hs : s.MemOk) : (s.dropImage ctx).MemOk := memOk_ite hs (State.MemOk.freeBlock (hs.of_mem rfl))

theorem State.MemOk.dropImage' {ctx} (hs : s.MemOk) : (s.dropImage' ctx).MemOk := memOk_ite hs.dropImage.setCtx hs

theorem State.MemOk.killCtx {ctx} (hs : s.MemOk) : (s.killCtx ctx).MemOk := by
  unfold State.killCtx
  extract_lets _ t
  have ht : t.MemOk := hs.returnCopies
  exact ht.killTask.dropImage.leave

theorem State.MemOk.askAttic {ctx h why} (hs : s.MemOk) : (s.askAttic ctx h why).MemOk := State.MemOk.tell (State.MemOk.setCtx (hs.of_mem rfl))

theorem State.MemOk.keepBlock {ctx image} (hs : s.MemOk) : (s.keepBlock ctx image).MemOk := by
  unfold State.keepBlock
  extract_lets _ t
  have ht : t.MemOk := by
    unfold t
    split
    · rename_i e
      exact (hs.blockPages.of_ok e).bput
    · exact hs
  exact State.MemOk.setCtx (ht.of_mem rfl)

theorem State.MemOk.withBlock {ctx image} {go : State → Nat → List Phys → State} (hs : s.MemOk)
    (hg : ∀ t, t.MemOk → ∀ n l, (go t n l).MemOk) : (s.withBlock ctx image go).MemOk := by
  unfold State.withBlock
  extract_lets
  refine memOk_ite (hg _ hs _ _) (memOk_ite (hg _ hs.keepBlock _ _) ?_)
  split
  · exact hs.tell
  · extract_lets
    split
    · rename_i e2
      exact (hs.blockPages.of_wait e2).askAttic
    · rename_i e2
      exact (hs.blockPages.of_bad e2).tell
    · rename_i e2 _
      exact (hs.blockPages.of_ok e2).askAttic
    · rename_i e2 _
      exact (hs.blockPages.of_ok e2).tell
    · rename_i e3
      extract_lets v
      have hv : v.MemOk := (hs.blockPages.of_ok e3).setHall
      exact hg _ (memOk_ite hv.saveBlock hv.bfree) _ _

theorem State.MemOk.haltFlying {lnum park js} (hs : s.MemOk) : (s.haltFlying lnum park js).MemOk := hs.of_mem rfl

theorem State.MemOk.resumeOf {a r} (hs : s.MemOk) : (s.resumeOf a r).1.MemOk := by
  unfold State.resumeOf
  extract_lets
  split
  · exact hs.of_mem rfl
  · exact hs

theorem State.MemOk.requeue {hall a alone} (hs : s.MemOk) : (s.requeue hall a alone).MemOk := by
  unfold State.requeue
  split
  · exact hs
  · split
    · rename_i e'
      split
      · exact (hs.resumeOf.of_fst e').setHall.post

theorem State.MemOk.poolImage {ctx park} (hs : s.MemOk) : (s.poolImage ctx park).MemOk := by
  unfold State.poolImage
  extract_lets _ _ t
  have ht : t.MemOk := memOk_ite hs hs.setCtx.tell
  refine memOk_ite hs (memOk_ite hs.raiseAt (ht.withBlock fun _ hu _ _ => ?_))
  extract_lets _ _ v w _ y
  have hv : v.MemOk := hu.bputWs
  clear_value v
  have hw : w.MemOk := hv.of_mem rfl
  have hy : y.MemOk := memOk_ite hw.setHall hw.requeue
  exact memOk_ite hy.leave hw.setCtx

theorem State.MemOk.spawnHandler {hall c hnd g1 g2 head} (hs : s.MemOk) : (s.spawnHandler hall c hnd g1 g2 head).MemOk := hs.addSpawn

theorem State.MemOk.recordOthers {hall c source} (hs : s.MemOk) : (s.recordOthers hall c source).MemOk := memOk_foldl (fun _ ht _ => ht.lateRecord) hs

theorem State.MemOk.houseWords {hall h ws} (hs : s.MemOk) : (s.houseWords hall h ws).MemOk := by
  unfold State.houseWords
  split
  · rename_i e
    exact hs.houseWrite.of_ok e
  · rename_i e
    exact hs.houseWrite.of_wait e
  · rename_i e
    exact hs.houseWrite.of_bad e

theorem State.MemOk.freeze {ctx f} (hs : s.MemOk) : (s.freeze ctx f).MemOk := by
  unfold State.freeze
  extract_lets _ t _ _ _ u
  have ht : t.MemOk := hs.setHall
  have hu : u.MemOk := ht.of_mem rfl
  exact hu.setCtx.post

theorem State.MemOk.handOver {ctx f} (hs : s.MemOk) : (s.handOver ctx f).MemOk := by
  unfold State.handOver
  extract_lets
  split
  · exact hs.leave
  · split
    · rename_i e'
      exact (hs.freeEntries.of_wait e').askAttic
    · rename_i e'
      exact (hs.freeEntries.of_bad e').worst.killCtx
    · rename_i e'
      refine memOk_ite (hs.freeEntries.of_ok e').worst.killCtx ?_
      extract_lets _ _ _ u _ v w x
      have hu : u.MemOk := (hs.freeEntries.of_ok e').takeEntries
      have hv : v.MemOk := hu.houseWords
      have hw : w.MemOk := hv.setUsed.recordOthers
      have hx : x.MemOk := hw.traceTo
      split
      · refine hu.dropImage'.withBlock (fun _ hy _ _ => ?_)
        extract_lets t1 t2 t3 t4 t5 t6
        have ht1 : t1.MemOk := hy.houseWords
        have ht2 : t2.MemOk := ht1.of_mem rfl
        have ht3 : t3.MemOk := ht2.houseWords
        have ht4 : t4.MemOk := memOk_ite ht3.houseWords ht3
        have ht5 : t5.MemOk := ht4.setUsed.recordOthers
        have ht6 : t6.MemOk := ht5.spawnHandler
        exact ht6.leave
      · exact hx.killCtx

theorem State.MemOk.blocksFor {ctx l} (hs : s.MemOk) : (s.blocksFor ctx l).1.MemOk := by
  induction l generalizing s with
  | nil => exact hs
  | cons m l ih =>
    unfold State.blocksFor
    extract_lets
    split
    · exact ih hs
    · split
      · exact hs.tell
      · split
        · rename_i e
          exact State.MemOk.askAttic (hs.blockPages.of_wait e)
        · rename_i e
          exact State.MemOk.tell (hs.blockPages.of_bad e)
        · rename_i e
          exact ih (hs.blockPages.of_ok e)

theorem State.MemOk.writeMembers {l stop can logs l1} (hs : s.MemOk) : (s.writeMembers l stop can logs l1).MemOk := by
  induction l1 generalizing s with
  | nil => exact hs
  | cons x l1 ih =>
    unfold State.writeMembers
    extract_lets _ _ _ _ _ log f
    refine memOk_ite (ih (State.MemOk.withBlock hs.dropImage' fun v hv _ _ => ?_)) (ih hs.houseWords.traceTo.setUsed.killCtx)
    extract_lets w x y z
    have hw : w.MemOk := hv.houseWords
    have hx : x.MemOk := hw.of_mem rfl
    have hy : y.MemOk := hx.houseWords
    have hz : z.MemOk := by
      unfold z
      clear_value f log
      split
      · exact hy.houseWords
      · exact hy
    exact hz.setUsed.leave

theorem State.MemOk.stopMember {ctx} (hs : s.MemOk) : (s.stopMember ctx).MemOk := memOk_ite hs.setCtx.post hs.halt

theorem State.MemOk.endMembers {lnum ms} (hs : s.MemOk) : (s.endMembers lnum ms).MemOk := memOk_foldl (fun _ ht _ => ht.killCtx) hs.setLaunch.worst

theorem State.MemOk.gangStop {ctx} (hs : s.MemOk) : (s.gangStop ctx).MemOk := by
  unfold State.gangStop
  extract_lets
  split
  · extract_lets _ _ t u
    have ht : t.MemOk := hs.haltFlying
    have hu : u.MemOk := by
      unfold u
      refine memOk_foldl (fun _ hv _ => ?_) ht
      exact memOk_ite hv.takeCommands hv.stopMember
    split
    · exact hu
    · split
      · rename_i e2
        exact (hu.freeEntries.of_wait e2).askAttic
      · rename_i e2
        exact (hu.freeEntries.of_bad e2).endMembers
      · rename_i e2
        split
        · exact (hu.freeEntries.of_ok e2).endMembers
        · split
          · rename_i e4
            exact (hu.freeEntries.of_ok e2).blocksFor.of_fst e4
          · rename_i e4
            extract_lets _ _ x y t1 _ t2 t3 t4
            have hx : x.MemOk := ((hu.freeEntries.of_ok e2).blocksFor.of_fst e4).takeEntries
            have hy : y.MemOk := hx.writeMembers
            have ht1 : t1.MemOk := hy.setLaunch
            have ht2 : t2.MemOk := ht1.houseWords
            have ht3 : t3.MemOk := ht2.setUsed
            have ht4 : t4.MemOk := memOk_foldl (fun _ ht5 _ => ht5.recordOthers) ht3
            exact memOk_ite ht4.spawnHandler ht4
  · exact hs

theorem State.MemOk.reportPreempts (hs : s.MemOk) : s.reportPreempts.MemOk := by
  unfold State.reportPreempts
  extract_lets _ _ _ t u
  have ht : t.MemOk := memOk_foldl (fun _ hv _ => hv.finished) (hs.of_mem rfl)
  have hu : u.MemOk := ht.postAll
  exact hu.postAll

theorem execFaultHandover_memOk {ctx} (hs : s.MemOk) : ResOk (execFaultHandover ctx s) := by
  unfold execFaultHandover
  extract_lets _ t
  have ht : t.MemOk := hs.takeCommands
  split
  · exact resOk_ite ht (resOk_ite ht.freeze (resOk_ite ht.gangStop ht.handOver))
  · exact hs

theorem execImageWrite_memOk {ctx} (hs : s.MemOk) : ResOk (execImageWrite ctx s) := by
  unfold execImageWrite
  extract_lets _ t
  have ht : t.MemOk := hs.takeCommands
  split
  · split
    · exact ht
    · split
      · split
        · exact ht.gangStop
        · exact ht
      · exact resOk_ite ht ht.poolImage
  · exact hs

theorem State.MemOk.blockOk {hall ws a} (hs : s.MemOk) : (s.blockOk hall ws a).state.MemOk := by
  unfold State.blockOk
  extract_lets
  split
  · exact hs
  · split
    · rename_i e'
      exact hs.houseRead.of_ok e'
    · rename_i e'
      exact hs.houseRead.of_wait e'
    · rename_i e'
      exact hs.houseRead.of_bad e'

theorem State.MemOk.haltStarted {ctx} (hs : s.MemOk) : (s.haltStarted ctx).MemOk := memOk_ite hs.halt hs

theorem State.MemOk.loadImage {ctx ws r a} (hs : s.MemOk) : (s.loadImage ctx ws r a).MemOk := memOk_ite
    (State.MemOk.rejoin (State.MemOk.freeBlock (hs.of_mem rfl))) (State.MemOk.post (hs.of_mem rfl))

theorem State.MemOk.land {id f ctx} (hs : s.MemOk) : (s.land id f ctx).MemOk := by
  unfold State.land
  extract_lets t
  have ht : t.MemOk := hs.of_mem rfl
  exact ht.bump.boundary

theorem State.MemOk.takeBack {core l} (hs : s.MemOk) : (s.takeBack core l).MemOk := by
  induction l generalizing s with
  | nil => exact hs
  | cons i l ih =>
    unfold State.takeBack
    extract_lets cell t
    split
    · exact ih hs
    · have ht : t.MemOk := hs.of_mem rfl
      split
      · exact ih ht.setCore
      · exact ih ht.setHall

end Sys2Proof.Machine

end

section
/-! Placement in a hall. -/

namespace Sys2Proof.Machine

variable {s : State}

theorem State.MemOk.holdOver {hall t h why} (hs : s.MemOk) : (s.holdOver hall t h why).MemOk := hs.setLaunch.tell

theorem State.MemOk.overflow {hall t} (hs : s.MemOk) : (s.overflow hall t).MemOk := by
  unfold State.overflow
  extract_lets lost
  have hlost : ∀ u, u.MemOk → (lost u).MemOk := fun _ hu => hu.worst.setLaunch.killTask
  split
  · exact hs
  · split
    · rename_i e'
      exact (hs.freeEntry.of_wait e').holdOver
    · rename_i e'
      exact hlost _ (hs.freeEntry.of_bad e')
    · rename_i e'
      exact hlost _ (hs.freeEntry.of_ok e')
    · rename_i e'
      extract_lets _ _ v w x y t1 t2
      have hv : v.MemOk := (hs.freeEntry.of_ok e').takeEntry.setLaunch.recordWrite
      have hw : w.MemOk := hv.houseWords
      have hx : x.MemOk := hw.of_mem rfl
      have hy : y.MemOk := hx.houseWords
      have ht1 : t1.MemOk := hv.houseWords
      have ht2 : t2.MemOk := ht1.setUsed.traceTo
      exact memOk_ite hy.setUsed.spawnHandler ht2.killTask

theorem State.MemOk.refreshQueues {hall} (hs : s.MemOk) : (s.refreshQueues hall).MemOk := by
  unfold State.refreshQueues
  extract_lets _ _ _ _ _ v w
  have hv : v.MemOk := hs.setHall
  have hw : w.MemOk := memOk_foldl (fun _ hx _ => hx.store) hv
  exact memOk_foldl (fun _ hx _ => hx.store) hw

theorem State.MemOk.arbitrate {core} (hs : s.MemOk) : (s.arbitrate core).MemOk := by
  unfold State.arbitrate
  extract_lets qs c t owners short excess slots gain give
  clear_value give gain
  split
  · split
    · exact hs.setCore
    · exact hs
  · exact hs

theorem State.MemOk.countRotation {core} (hs : s.MemOk) : (s.countRotation core).MemOk := by
  unfold State.countRotation
  extract_lets t
  have ht : t.MemOk := memOk_foldl (fun _ hu _ => hu.bump) hs.bump
  exact ht.setCore

theorem State.MemOk.lend {ctx} (hs : s.MemOk) : (s.lend ctx).MemOk := by
  unfold State.lend
  extract_lets
  split
  · exact memOk_ite hs hs.setCtx.hearthEvent
  · exact hs

theorem execRotationBoundary_memOk {hall} (hs : s.MemOk) : ResOk (execRotationBoundary hall s) := by
  unfold execRotationBoundary
  refine resOk_ite trivial ?_
  extract_lets t u v w x
  have ht : t.MemOk := memOk_foldl (fun _ hy _ => hy.countRotation) hs
  have hu : u.MemOk := ht.refreshQueues
  have hv : v.MemOk := memOk_ite hu (memOk_foldl (fun _ hy _ => hy.arbitrate) hu)
  have hw : w.MemOk := hv.refreshQueues
  have hx : x.MemOk := memOk_foldl (fun _ hy _ => hy.lend) hw
  exact memOk_ite hx hx.post

theorem State.MemOk.sendStart {core slot t} (hs : s.MemOk) : (s.sendStart core slot t).MemOk := by
  unfold State.sendStart
  extract_lets _ u v
  have hu : u.MemOk := hs.setCore
  have hv : v.MemOk := hu.of_mem rfl
  split
  · exact hv.hearthEvent
  · exact hv.hearthEvent

theorem State.MemOk.inboxStart {hall} (hs : s.MemOk) : OptOk (s.inboxStart hall) := by
  unfold State.inboxStart
  split
  · trivial
  · exact hs.setCore.sendStart

theorem State.MemOk.landHalted {hall} (hs : s.MemOk) : OptOk (s.landHalted hall) := by
  refine optOk_findSome fun c => ?_
  extract_lets core t
  have ht : t.MemOk := hs.takeBack.setCore
  split
  · trivial
  · split
    · trivial
    · split
      · trivial
      · exact optOk_map fun _ => State.MemOk.land (State.MemOk.setCore (memOk_ite ht.dropClaims ht))

theorem State.MemOk.placeAll {hall l} (hs : s.MemOk) : (s.placeAll hall l).MemOk := by
  induction l generalizing s with
  | nil => exact hs
  | cons x l ih =>
    unfold State.placeAll
    split
    · exact ih hs.sendStart.setHall
    · exact hs

theorem execSlotEvent_memOk {hall} (hs : s.MemOk) : ResOk (execSlotEvent hall s) := by
  unfold execSlotEvent
  have hland : OptOk (if (s.hall hall).service = .leaving then s.landHalted hall else none) := by
    split
    · exact hs.landHalted
    · trivial
  split
  · trivial
  · split
    · exact hs.setHall.feFill.post
    · split
      · split
        · rename_i e
          exact State.MemOk.post (hland.of_some e)
        · exact hs
      · split
        · rename_i e
          exact (hs.inboxStart.of_some e).post
        · split
          · exact hs.setHall.overflow.askChunk.post
          · extract_lets t
            have ht : t.MemOk := hs.refreshQueues
            split
            · exact ht.placeAll.post
            · exact ht

end Sys2Proof.Machine

end

section
/-! Control registers, claims and the hearth. -/

namespace Sys2Proof.Machine

variable {s : State}

theorem execMovcRead_memOk {d c} (hs : s.MemOk) : ResOk (execMovcRead d c s) :=
  resOk_ite hs.wr <| resOk_ite hs.wr <| resOk_ite hs.wr <| resOk_ite hs.wr <| resOk_ite hs.wr <| resOk_ite hs.wr <| resOk_ite hs.wr <|
    resOk_ite hs.wr <| resOk_ite hs.wr <| resOk_ite hs.wr <| resOk_ite hs.illegal <| resOk_ite hs.claimFault hs.wr

theorem execMovcWrite_memOk {c b} (hs : s.MemOk) : ResOk (execMovcWrite c b s) := by
  unfold execMovcWrite
  extract_lets
  exact resOk_ite (resOk_ite hs.setMe hs.illegal) (resOk_ite (resOk_ite hs.setMe hs.illegal)
      (resOk_ite (resOk_ite hs.setMe hs.illegal) (resOk_ite hs.setMe
          (resOk_ite hs.setMe (resOk_ite hs.illegal (resOk_ite hs.claimFault (resOk_ite hs.setMe hs.illegal)))))))

theorem execClaimv_memOk {d a} (hs : s.MemOk) : ResOk (execClaimv d a s) := by
  unfold execClaimv
  split
  · exact hs.setMe.resume
  · refine resOk_ite hs.porchFault ?_
    extract_lets _ _ _ _ t
    have ht : t.MemOk := hs.setRoom
    exact resOk_ite hs.operand (resOk_ite hs.setMe.regrant.wr (resOk_ite hs.setMe.wr ht.hold.regrant))

theorem State.MemOk.grantTile {ctx set} (hs : s.MemOk) : (s.grantTile ctx set).MemOk := by
  unfold State.grantTile
  extract_lets _ _ _ t
  have ht : t.MemOk := hs.setTile
  exact ht.setCtx

theorem execClaimt_memOk {d a} (hs : s.MemOk) : ResOk (execClaimt d a s) := by
  unfold execClaimt
  split
  · extract_lets t
    have ht : t.MemOk := hs.grantTile
    exact ht.resume
  · refine resOk_ite hs.porchFault ?_
    extract_lets _ _ _ _ t _ u
    have ht : t.MemOk := hs.grantTile
    have hu : u.MemOk := hs.setRoom
    exact resOk_ite hs.operand (resOk_ite hs.wr (resOk_ite ht.wr hu.hold.regrant))

theorem State.MemOk.slotFault {event slot} (hs : s.MemOk) : (s.slotFault event slot).MemOk := hs.raise

theorem hearthOp_memOk {go : State → State} (hs : s.MemOk) (hg : ∀ t, t.MemOk → (go t).MemOk) : ResOk (hearthOp s go) := resOk_ite
    (hg _ hs) hs.privilege

theorem State.MemOk.startTask {ctx t regs} (hs : s.MemOk) : (s.startTask ctx t regs).MemOk := by
  unfold State.startTask
  extract_lets _ u v
  have hu : u.MemOk := hs.of_mem rfl
  have hv : v.MemOk := by
    unfold v
    split
    · split
      · extract_lets w
        have hw : w.MemOk := hu.setLaunch.recordWrite
        exact memOk_ite hw.askChunk hw
      · exact hu
    · exact hu
  split
  · split
    · exact memOk_ite hv.setLaunch.raiseAt hv.haltStarted
    · exact hv.haltStarted
  · exact hv.haltStarted

theorem State.MemOk.useCopy {addr k} (hs : s.MemOk) : (s.useCopy addr k).MemOk := memOk_ite hs (hs.of_mem rfl)

theorem addPin_memOk {d h t b} (hs : s.MemOk) (e : s.addPin d h = .ok (t, b)) : t.MemOk := by
  have hpin : Keeps (do let t ← openTree d; let i ← liveNode t h; pinNode t i h) :=
    openTree_keeps.bind fun _ => liveNode_keeps.bind fun _ => pinNode_keeps
  unfold State.addPin at e
  extract_lets go at e
  split at e
  · rename_i e'
    cases e
    exact hpin.memOk e' hs
  · cases e
  · cases e
    exact hs

theorem resumePin_memOk {t u regs} (hs : s.MemOk) (e : s.resumePin t = .ok (u, regs)) : u.MemOk := by
  unfold State.resumePin at e
  split at e
  · cases e
    exact hs
  · split at e
    · cases e
      exact hs
    · split at e
      · cases e
        exact hs
      · extract_lets r at e
        clear_value r
        split at e
        · cases e
          exact hs.setLaunch
        · split at e
          · rename_i e'
            cases e
            exact addPin_memOk hs e'
          · rename_i e'
            cases e
            exact addPin_memOk hs e'
          · cases e

theorem execSlotstart_memOk {a} (hs : s.MemOk) : ResOk (execSlotstart a s) := by
  refine hearthOp_memOk hs (fun _ ht => ?_)
  extract_lets _ _ _ _ _ _ u
  have hu : u.MemOk := ht.setCore
  refine memOk_ite hu.slotFault (memOk_ite hu.takeBack.await (memOk_ite ?_ ?_))
  · split
    · exact hu.slotFault
    · split
      · exact State.MemOk.await (State.MemOk.land (hu.of_mem rfl))
      · split
        · exact hu.parkTranslation
        · rename_i e
          exact State.MemOk.await (State.MemOk.startTask ((resumePin_memOk hu e).of_mem rfl))
  · split
    · exact hu.slotFault
    · split
      · rename_i e
        exact (hu.imageRead.of_wait e).parkTranslation
      · rename_i e
        exact (hu.imageRead.of_bad e).slotFault
      · rename_i v _ e
        have hv : v.MemOk := hu.imageRead.of_ok e
        split
        · rename_i e'
          exact (hv.blockOk.of_wait e').parkTranslation
        · rename_i e'
          exact (hv.blockOk.of_bad e').slotFault
        · rename_i w _ e'
          have hw : w.MemOk := hv.blockOk.of_ok e'
          refine memOk_ite hw.slotFault ?_
          extract_lets x y z
          have hx : x.MemOk := State.MemOk.useCopy (hw.of_mem rfl)
          have hy : y.MemOk := hx.loadImage
          have hz : z.MemOk := by
            unfold z
            split
            · exact hy.raiseAt
            · exact hy.haltStarted
          exact hz.await

theorem execSlotreap_memOk {a} (hs : s.MemOk) : ResOk (execSlotreap a s) := by
  unfold execSlotreap
  refine hearthOp_memOk hs (fun _ ht => ?_)
  extract_lets _ _ done
  have hdone : ∀ u, u.MemOk → (done u).MemOk := fun _ hu => hu.setCore
  split
  · exact ht.slotFault
  · split
    · exact (hdone _ ht.dropClaims).vacate
    · exact (hdone _ ht).freed
    · exact ht.slotFault

theorem execSlotreapSave_memOk {a b} (hs : s.MemOk) : ResOk (execSlotreapSave a b s) := by
  unfold execSlotreapSave
  refine hearthOp_memOk hs (fun _ ht => ?_)
  extract_lets
  refine memOk_ite ht.slotFault ?_
  split
  · refine memOk_ite ht.tryLater (memOk_ite ht.raiseAt ?_)
    split
    · rename_i e3
      exact (ht.houseWrite.of_wait e3).parkTranslation
    · rename_i e3
      exact (ht.houseWrite.of_bad e3).slotFault
    · rename_i e3
      extract_lets _ _ _ _ v w
      have hv : v.MemOk := (ht.houseWrite.of_ok e3).of_mem rfl
      have hw : w.MemOk := memOk_ite hv.requeue hv
      exact hw.vacate.await
  · refine memOk_ite ht.setCtx.tryLater (memOk_ite ht.raiseAt ?_)
    split
    · rename_i e3
      exact (ht.houseWrite.of_wait e3).parkTranslation
    · rename_i e3
      exact (ht.houseWrite.of_bad e3).slotFault
    · rename_i e3
      extract_lets v
      have hv : v.MemOk := (ht.houseWrite.of_ok e3).of_mem rfl
      exact hv.requeue.vacate.await
  · exact ht.slotFault

theorem execSlotown_memOk {d a} (hs : s.MemOk) : ResOk (execSlotown d a s) := by
  unfold execSlotown
  exact hearthOp_memOk hs fun _ ht => memOk_ite ht.slotFault (memOk_ite ht.wr ht.wr)

theorem State.MemOk.ownSpan {h right n} (hs : s.MemOk) : (s.ownSpan h right n).state.MemOk := by
  induction n generalizing s h with
  | zero => exact hs
  | succ n ih =>
    unfold State.ownSpan
    split
    · exact hs
    · split
      · rename_i e
        exact hs.reach.of_fst e
      · rename_i t p e
        have ht : t.MemOk := hs.reach.of_fst e
        split
        · exact ht
        · split
          · rename_i e'
            exact (ih ht).of_ok e'
          · rename_i e'
            exact (ih ht).of_wait e'
          · rename_i e'
            exact (ih ht).of_bad e'

theorem withOwn_memOk {h n right a} {go : State → List Phys → State} (hs : s.MemOk)
    (hg : ∀ t, t.MemOk → ∀ l, (go t l).MemOk) : (withOwn h n right s a go).MemOk := by
  unfold withOwn
  split
  · rename_i e
    exact (hs.ownSpan.of_wait e).parkTranslation
  · rename_i e
    exact (hs.ownSpan.of_bad e).raise
  · rename_i e
    exact hg _ (hs.ownSpan.of_ok e) _

theorem State.MemOk.gangGo {lnum stop} (hs : s.MemOk) : (s.gangGo lnum stop).MemOk := by
  unfold State.gangGo
  extract_lets mine held all t ts
  have ht : t.MemOk := memOk_foldl (fun _ hu _ => hu.setHall) hs
  clear_value ts all held
  cases held with
  | nil => exact hs
  | cons x l => exact memOk_ite hs ht.setHall.post

theorem imageEnd_memOk {a} {go : Nat → ImgRec → List Word → State → State} (hs : s.MemOk)
    (hg : ∀ n i l t, t.MemOk → (go n i l t).MemOk) : ResOk (imageEnd a s go) := by
  refine hs.release (fun t ht => ?_)
  extract_lets h bad x e
  have hbad : ∀ {u : State} {k}, u.MemOk → (bad u k).MemOk := State.MemOk.raise
  split
  · exact hbad ht
  · refine memOk_ite (hbad ht) (withOwn_memOk ht fun u hu l => memOk_ite (hbad hu) (withOwn_memOk hu fun v hv ps => ?_))
    extract_lets ws
    split
    · exact hbad hv
    · refine memOk_ite (hbad hv) ?_
      split
      · rename_i e'
        exact (hv.blockOk.of_wait e').parkTranslation
      · rename_i e'
        exact hbad (hv.blockOk.of_bad e')
      · rename_i w good e'
        have hw : w.MemOk := hv.blockOk.of_ok e'
        refine memOk_ite (hbad hw) (withOwn_memOk hw fun y hy qs => ?_)
        extract_lets log y1 y2 y3
        have hy1 : y1.MemOk := hy.putWords
        have hy2 : y2.MemOk := by
          unfold y2
          clear_value log
          cases log with
          | none => exact hy1
          | some j => exact hy1.houseWords
        have hy3 : y3.MemOk := hy2.setUsed
        exact (hg _ _ _ _ hy3).await

theorem execTaskres_memOk {a} (hs : s.MemOk) : ResOk (execTaskres a s) := by
  unfold execTaskres
  refine imageEnd_memOk hs (fun _ _ _ _ ht => ?_)
  split
  · exact ht.requeue
  · exact ht.setHall.gangGo

theorem execTaskkill_memOk {a} (hs : s.MemOk) : ResOk (execTaskkill a s) := by
  unfold execTaskkill
  refine imageEnd_memOk hs (fun _ _ _ _ ht => ?_)
  extract_lets u v w
  have hu : u.MemOk := State.MemOk.returnCopies (ht.of_mem rfl)
  have hv : v.MemOk := memOk_ite hu hu.freeBlock
  have hw : w.MemOk := hv.killTask
  split
  · exact hw.gangGo
  · exact hw

theorem State.MemOk.serveLanes {room} (hs : s.MemOk) : OptOk (s.serveLanes room) := by
  unfold State.serveLanes
  split
  · trivial
  · extract_lets _ _ _ t u
    have ht : t.MemOk := hs.setRoom
    have hu : u.MemOk := ht.setCtx
    split
    · trivial
    · split
      · exact ht.setCtx.post
      · exact hu.of_mem rfl

theorem State.MemOk.serveTiles {room} (hs : s.MemOk) : OptOk (s.serveTiles room) := by
  unfold State.serveTiles
  split
  · trivial
  · extract_lets _ _ t u
    have ht : t.MemOk := hs.setRoom
    have hu : u.MemOk := ht.setCtx
    split
    · trivial
    · split
      · exact ht.grantTile.post
      · exact hu.of_mem rfl

theorem execClaimGrant_memOk {room} (hs : s.MemOk) : ResOk (execClaimGrant room s) := by
  unfold execClaimGrant
  split
  · rename_i e
    exact (hs.serveLanes.of_some e).post
  · split
    · rename_i e'
      exact (hs.serveTiles.of_some e').post
    · exact hs

theorem execClaimReestablish_memOk {ctx} (hs : s.MemOk) : ResOk (execClaimReestablish ctx s) := by
  unfold execClaimReestablish
  extract_lets
  refine resOk_ite hs (resOk_ite (resOk_ite hs hs.setRoom.post) (resOk_ite (resOk_ite hs hs.setRoom.post) ?_))
  split
  · rename_i e2
    exact (hs.blockPages.of_wait e2).askAttic
  · rename_i e2
    exact hs.blockPages.of_bad e2
  · rename_i e2
    extract_lets u v w x
    have hu : u.MemOk := (hs.blockPages.of_ok e2).loadBlock
    have hv : v.MemOk := memOk_foldl (fun _ hy _ => hy.tileLoss) hu
    have hw : w.MemOk := hv.setCtx
    have hx : x.MemOk := hw.of_mem rfl
    exact hx.rejoin.freeBlock.boundary

end Sys2Proof.Machine

end

section
/-! Launches. -/

namespace Sys2Proof.Machine

variable {s : State}

theorem State.MemOk.refuseLaunch {hall v ws node code} (hs : s.MemOk) : (s.refuseLaunch hall v ws node code).MemOk := State.MemOk.post (hs.of_mem rfl)

theorem State.MemOk.discard {hall v} (hs : s.MemOk) : (s.discard hall v).MemOk := hs.traceTo

theorem State.MemOk.takeNode {hall v node} (hs : s.MemOk) : (s.takeNode hall v node).MemOk := by
  unfold State.takeNode
  split
  · exact hs.setHall
  · exact hs

theorem State.MemOk.accept {hall wd v ws gs segs node} (hs : s.MemOk) : (s.accept hall wd v ws gs segs node).MemOk := by
  unfold State.accept
  extract_lets +onlyGivenNames wings
  clear_value wings
  split
  · exact hs.refuseLaunch
  · extract_lets count l _
    split
    · exact hs.refuseLaunch
    · extract_lets t u w
      have ht : t.MemOk := hs.of_mem rfl
      have hu : u.MemOk := ht.recordWrite.recordWrite.recordWrite.recordWrite
      have hw : w.MemOk := memOk_ite hu.post (memOk_foldl (fun _ hx _ => hx.askChunk) hu)
      exact hw.post

theorem State.MemOk.keepIntake {hall wd v ws h why} (hs : s.MemOk) : (s.keepIntake hall wd v ws h why).MemOk := hs.setHall.tell

theorem State.MemOk.endIntake {hall wd} (hs : s.MemOk) : (s.endIntake hall wd).MemOk := by
  unfold State.endIntake
  extract_lets t
  have ht : t.MemOk := hs.setHall
  exact memOk_ite ht.post ht

theorem State.MemOk.checkRecord {hall wd v ws node} (hs : s.MemOk) : (s.checkRecord hall wd v ws node).MemOk := by
  unfold State.checkRecord
  extract_lets refuse
  have hrefuse : ∀ t, t.MemOk → (refuse t).MemOk := fun _ ht => ht.takeNode.refuseLaunch.endIntake
  split
  · exact hrefuse _ hs
  · split
    · rename_i e'
      exact (hs.houseRead.of_wait e').keepIntake
    · rename_i e'
      exact hrefuse _ (hs.houseRead.of_bad e')
    · rename_i e'
      split
      · exact hrefuse _ (hs.houseRead.of_ok e')
      · split
        · rename_i e2
          exact ((hs.houseRead.of_ok e').houseRead.of_wait e2).keepIntake
        · rename_i e2
          exact hrefuse _ ((hs.houseRead.of_ok e').houseRead.of_bad e2)
        · rename_i e2
          exact ((hs.houseRead.of_ok e').houseRead.of_ok e2).takeNode.accept.endIntake

theorem State.MemOk.intake {hall wd v ws} (hs : s.MemOk) : (s.intake hall wd v ws).MemOk := by
  unfold State.intake
  extract_lets
  refine memOk_ite hs.checkRecord ?_
  split
  · rename_i e'
    exact (hs.houseRead.of_wait e').keepIntake
  · rename_i e'
    exact (hs.houseRead.of_bad e').takeNode.discard.endIntake
  · rename_i e'
    exact memOk_ite (hs.houseRead.of_ok e').takeNode.refuseLaunch.endIntake (hs.houseRead.of_ok e').checkRecord

theorem takeLaunch_memOk {hall wd v t} (hs : s.MemOk) (e : s.takeLaunch hall wd = some (v, t)) : t.MemOk := by
  unfold State.takeLaunch at e
  extract_lets _ at e
  split at e
  · split at e
    · obtain ⟨_, rfl⟩ := Prod.mk.inj (Option.some.inj e)
      exact hs.setFull
    · cases e
  · exact State.wf_feTake _ e hs

theorem execLaunchIntake_memOk {hall wd} (hs : s.MemOk) : ResOk (execLaunchIntake hall wd s) := by
  refine resOk_ite trivial (resOk_ite hs ?_)
  split
  · exact hs
  · rename_i t e
    have ht : t.MemOk := takeLaunch_memOk hs e
    exact resOk_ite ht.discard.endIntake ht.intake

theorem execIntakeReadRetry_memOk {hall wd} (hs : s.MemOk) : ResOk (execIntakeReadRetry hall wd s) := by
  unfold execIntakeReadRetry
  refine resOk_ite trivial ?_
  split
  · exact memOk_ite hs hs.intake
  · exact hs

theorem State.MemOk.refuseIntake {hall wd} (hs : s.MemOk) : (s.refuseIntake hall wd).MemOk := by
  unfold State.refuseIntake
  split
  · exact hs
  · extract_lets _ t
    have ht : t.MemOk := hs.takeNode
    exact memOk_ite ht.discard.endIntake ht.refuseLaunch.endIntake

theorem execLeaderDeltaLookup_memOk {lnum} (hs : s.MemOk) : ResOk (execLeaderDeltaLookup lnum s) := by
  unfold execLeaderDeltaLookup
  split
  · exact hs
  · refine resOk_ite hs ?_
    extract_lets _ u n settle bad
    have hu : u.MemOk := hs.of_mem rfl
    have hsettle : ∀ {t f}, t.MemOk → (settle t f).MemOk :=
      fun ht => memOk_foldl (fun _ hv _ => hv.askChunk) (State.MemOk.setLaunch (ht.of_mem rfl))
    clear_value settle
    have hbad : ∀ f, ResOk (bad f) := fun _ => hsettle hs
    split
    · exact hbad _
    · split
      · exact hbad _
      · split
        · exact hbad _
        · split
          · exact hbad _
          · split
            · rename_i e
              exact State.MemOk.post (hsettle (lookTree_keeps.memOk e hu))
            · exact hs.setLaunch.tell
            · exact hbad _
            · exact hbad _
            · exact hsettle hs

theorem execChunkRequest_memOk {lnum wing} (hs : s.MemOk) : ResOk (execChunkRequest lnum wing s) := by
  unfold execChunkRequest
  split
  · exact hs
  · exact resOk_ite hs.post hs

theorem execGrantNotice_memOk {lnum wing spawn} (hs : s.MemOk) : ResOk (execGrantNotice lnum wing spawn s) := by
  unfold execGrantNotice
  split
  · exact hs
  · extract_lets _ _ _ t
    have ht : t.MemOk := hs.setLaunch
    exact resOk_ite hs (memOk_foldl (fun _ hu _ => hu.convey) ht)

theorem execGrantAcknowledgement_memOk {lnum first wing} (hs : s.MemOk) : ResOk (execGrantAcknowledgement lnum first wing s) := by
  unfold execGrantAcknowledgement
  split
  · exact hs
  · refine resOk_ite hs ?_
    extract_lets _ t
    have ht : t.MemOk := hs.setLaunch
    split
    · exact resOk_ite ht.post ht
    · exact ht

theorem State.MemOk.drainSpawns {lnum wing l} (hs : s.MemOk) : (s.drainSpawns lnum wing l).MemOk := by
  induction l generalizing s with
  | nil => exact hs
  | cons x l ih =>
    refine memOk_ite (ih hs) ?_
    split
    · exact hs
    · exact ih hs.setLaunch.setHall.post

theorem execGrantCommit_memOk {lnum first} (hs : s.MemOk) : ResOk (execGrantCommit lnum first s) := by
  unfold execGrantCommit
  split
  · exact hs
  · split
    · exact hs
    · refine resOk_ite hs ?_
      extract_lets t u v
      have ht : t.MemOk := hs.setLaunch
      have hu : u.MemOk := ht.setLaunch
      have hv : v.MemOk := hu.drainSpawns
      exact resOk_ite (memOk_ite hv.post hv) ht.convey

theorem State.MemOk.handIndex {lnum hall i} (hs : s.MemOk) : (s.handIndex lnum hall i).MemOk := by
  unfold State.handIndex
  split
  · exact hs
  · extract_lets _ put
    have hput : ∀ u, u.MemOk → ∀ n, (put u n).MemOk := fun _ hu _ => hu.setHall
    split
    · exact hput _ hs _
    · split
      · exact hput _ hs _
      · exact hput _ hs.setLaunch _

theorem State.MemOk.handOut {lnum ks i n} (hs : s.MemOk) : (s.handOut lnum ks i n).MemOk := by
  induction n generalizing s i with
  | zero => exact hs
  | succ n ih =>
    unfold State.handOut
    split
    · exact ih hs.handIndex
    · exact hs

theorem execChunkHandout_memOk {lnum first} (hs : s.MemOk) : ResOk (execChunkHandout lnum first s) := by
  unfold execChunkHandout
  split
  · exact hs
  · split
    · exact hs
    · extract_lets _ t u
      have ht : t.MemOk := hs.setLaunch
      have hu : u.MemOk := ht.handOut
      exact resOk_ite hs (State.MemOk.askChunk (memOk_foldl (fun _ hv _ => hv.convey) hu))

theorem execChunkCompletionReport_memOk {lnum first} (hs : s.MemOk) : ResOk (execChunkCompletionReport lnum first s) := by
  unfold execChunkCompletionReport
  split
  · exact hs
  · split
    · exact hs
    · exact resOk_ite hs hs.setLaunch.post

theorem State.MemOk.setWing {w f} (hs : s.MemOk) : (s.setWing w f).MemOk := hs.of_mem rfl

theorem State.MemOk.beat {wing} (hs : s.MemOk) : (s.beat wing).MemOk := memOk_ite hs (memOk_foldl (fun _ ht _ => ht.setWing) hs)

theorem State.MemOk.declareLost {wing silent} (hs : s.MemOk) : (s.declareLost wing silent).MemOk := memOk_ite hs
    (memOk_foldl (fun _ ht _ => ht.convey) hs)

theorem execLossDeclaration_memOk {wing lost} (hs : s.MemOk) : ResOk (execLossDeclaration wing lost s) := by
  unfold execLossDeclaration
  refine resOk_ite trivial ?_
  extract_lets t
  have ht : t.MemOk := hs.setWing
  exact ht.postAll.post

theorem State.MemOk.loseTasks {lnum w} (hs : s.MemOk) : (s.loseTasks lnum w).MemOk := by
  unfold State.loseTasks
  extract_lets _ t _ u v _ x y t1
  have ht : t.MemOk := by
    unfold t
    refine memOk_foldl (fun _ ht2 _ => ?_) hs
    refine State.MemOk.retired' ?_
    extract_lets t3
    have ht3 : t3.MemOk := ht2.withdraw
    exact ht3.of_mem rfl
  have hu : u.MemOk := ht.of_mem rfl
  have hv : v.MemOk := memOk_foldl (fun _ ht2 _ => ht2.retired') hu
  have hx : x.MemOk := hv.of_mem rfl
  have hy : y.MemOk := hx.of_mem rfl
  have ht1 : t1.MemOk := memOk_foldl (fun _ ht2 _ => ht2.retired') hy
  refine memOk_foldl (fun _ ht2 _ => ?_) ht1
  extract_lets _ _ _ t3 t4
  have ht3 : t3.MemOk := ht2.setHall
  have ht4 : t4.MemOk := memOk_foldl (fun _ ht5 _ => ht5.retired') ht3
  exact memOk_foldl (fun _ ht5 _ => State.MemOk.retired' (ht5.of_mem rfl)) ht4

theorem execLeaderElection_memOk {lnum} (hs : s.MemOk) : ResOk (execLeaderElection lnum s) := by
  unfold execLeaderElection
  split
  · exact hs
  · extract_lets _ _ _ _ t u _ v w x
    have ht : t.MemOk := by
      unfold t
      refine memOk_foldl (fun _ hy _ => ?_) hs
      exact memOk_ite hy.loseTasks hy
    have hu : u.MemOk := memOk_foldl (fun _ hy _ => hy.loseTasks) ht
    have hv : v.MemOk := hu.setLaunch
    have hw : w.MemOk := memOk_ite hv hv.recordWrite
    have hx : x.MemOk := hw.postAll
    exact resOk_ite ht (State.MemOk.post (memOk_foldl (fun _ hy _ => hy.askChunk) hx))

theorem State.MemOk.writeRanges {n addr l} (hs : s.MemOk) : (s.writeRanges n addr l).MemOk := by
  induction l generalizing s addr with
  | nil => exact hs
  | cons x l ih => exact ih hs.launchWrite.launchWrite

theorem State.MemOk.dropPin {l} (hs : s.MemOk) : ExcOk (s.dropPin l) := by
  unfold State.dropPin
  split
  · split
    · rename_i e
      exact relTree_keeps.memOk e hs
    · trivial
    · exact hs
  · exact hs

theorem execLaunchCompletion_memOk {lnum} (hs : s.MemOk) : ResOk (execLaunchCompletion lnum s) := by
  unfold execLaunchCompletion
  refine command_memOk hs ?_
  split
  · exact hs
  · refine resOk_ite hs.forget (resOk_ite hs ?_)
    extract_lets t
    have ht : t.MemOk := memOk_ite hs hs.setLaunch.writeRanges.recordWrite
    split
    · exact ht
    · split
      · exact ht.setLaunch.tell
      · rename_i e4
        extract_lets _ v w x
        have hv : v.MemOk := by
          unfold v
          split
          · exact (ht.dropPin.of_ok e4).complete
          · exact ht.dropPin.of_ok e4
        have hw : w.MemOk := by
          unfold w
          split
          · exact hv.post
          · exact hv
        have hx : x.MemOk := hw.of_mem rfl
        exact resOk_ite (hx.of_mem rfl) hx

theorem State.MemOk.release1 {replay l} (hs : s.MemOk) : (s.release1 replay l).MemOk := by
  induction l generalizing s with
  | nil => exact hs
  | cons j l ih =>
    unfold State.release1
    split
    · exact hs
    · extract_lets k t
      have ht : t.MemOk := hs.of_mem rfl
      exact ih (memOk_ite ht.releaseNode ht)

theorem execGraphNodeComplete_memOk {replay node status} (hs : s.MemOk) : ResOk (execGraphNodeComplete replay node status s) := by
  unfold execGraphNodeComplete
  split
  · exact hs
  · refine resOk_ite hs ?_
    extract_lets t u
    have ht : t.MemOk := hs.of_mem rfl
    have hu : u.MemOk := ht.release1
    split
    · exact hu
    · split
      · exact hu
      · extract_lets _ v w x
        have hv : v.MemOk := memOk_ite hu hu.complete
        have hw : w.MemOk := hv.graphField
        have hx : x.MemOk := hw.of_mem rfl
        exact memOk_ite hx.post hx

theorem execPatchApply_memOk {graph} (hs : s.MemOk) : ResOk (execPatchApply graph s) := by
  refine command_memOk hs (resOk_ite hs ?_)
  extract_lets
  split
  · exact hs
  · extract_lets
    split
    · rename_i e
      exact (hs.houseRead.of_wait e).tell
    · rename_i e
      exact hs.houseRead.of_bad e
    · rename_i t ws e
      have ht : t.MemOk := hs.houseRead.of_ok e
      split
      · rename_i e'
        exact (ht.houseWrite.of_wait e').tell
      · rename_i e'
        exact ht.houseWrite.of_bad e'
      · rename_i u _ e'
        have hu : u.MemOk := ht.houseWrite.of_ok e'
        split
        · exact hu
        · rename_i x e''
          exact State.MemOk.devicePut (State.MemOk.store (State.MemOk.graphField (State.wf_feTake _ e'' hu)))

end Sys2Proof.Machine

end

section
/-! Requests of the host. -/

namespace Sys2Proof.Machine

variable {s : State}

theorem State.MemOk.setAttic {f} (hs : s.MemOk) : (s.setAttic f).MemOk := hs.of_mem rfl

theorem State.MemOk.complete' {v} (hs : s.MemOk) : (s.complete' v).MemOk := hs.setAttic

theorem State.MemOk.attest {nonce} (hs : s.MemOk) : (s.attest nonce).MemOk := by
  unfold State.attest
  exact memOk_ite hs hs.setAttic

theorem State.MemOk.setGo (hs : s.MemOk) : s.setGo.MemOk := by
  unfold State.setGo
  extract_lets t
  have ht : t.MemOk := hs.setAttic
  exact ht.attest

theorem State.MemOk.aperture {write offset size data} (hs : s.MemOk) : (s.aperture write offset size data).MemOk := by
  refine memOk_ite hs.complete' ?_
  extract_lets
  split
  · rename_i e
    exact (hs.reach.of_fst e).setAttic.tell
  · rename_i t p e
    have ht : t.MemOk := hs.reach.of_fst e
    exact memOk_ite ht.complete' (memOk_ite ht.put ht.complete')

theorem State.MemOk.launchCas {hall wd compare swap} (hs : s.MemOk) : (s.launchCas hall wd compare swap).MemOk := by
  unfold State.launchCas
  exact memOk_ite hs.complete' (memOk_ite hs.complete' (memOk_ite hs.complete' hs.feFill.complete'))

theorem State.MemOk.hostDo {h} (hs : s.MemOk) : (s.hostDo h).MemOk := by
  unfold State.hostDo
  split
  · exact hs.aperture
  · exact hs.launchCas
  · exact hs.setAttic.complete'
  · exact hs.complete'
  · exact hs.setAttic
  · exact memOk_ite hs.setAttic (memOk_ite hs.setAttic (memOk_ite hs.setGo hs))
  · exact hs.setGo

theorem State.MemOk.admitHost {r} (hs : s.MemOk) : (s.admitHost r).MemOk := memOk_ite hs.setAttic hs.hostDo

theorem State.MemOk.hostRequest {r} (hs : s.MemOk) : (s.hostRequest r).MemOk := memOk_ite hs hs.admitHost

theorem State.MemOk.retryHost (hs : s.MemOk) : s.retryHost.MemOk := memOk_foldl (fun _ ht _ => ht.admitHost) hs.setAttic

end Sys2Proof.Machine

end

section
/-! The scalar instructions. -/

namespace Sys2Proof.Machine

variable {s : State}

theorem State.MemOk.skip {n} (hs : s.MemOk) : (s.skip n).MemOk := hs.setMe.bump

theorem compare_memOk {c k a b} (hs : s.MemOk) : ResOk (compare c k a b s) := memOk_ite hs.skip hs

end Sys2Proof.Machine

end

section
/-! Issue. -/

namespace Sys2Proof.Machine

variable {s : State}

theorem State.MemOk.fetch {pc} (hs : s.MemOk) : (s.fetch pc).state.MemOk := by
  unfold State.fetch
  split
  · exact hs.raise
  · split
    · rename_i e1
      exact (hs.reach.of_fst e1).parkTranslation
    · rename_i e1
      split
      · exact (hs.reach.of_fst e1).raise
      · split
        · exact (hs.reach.of_fst e1).raise
        · exact hs.reach.of_fst e1

theorem State.MemOk.headerFault {failing walk} (hs : s.MemOk) : (s.headerFault failing walk).MemOk := hs.raise

theorem State.MemOk.renegotiate (hs : s.MemOk) : s.renegotiate.1.MemOk := by
  unfold State.renegotiate
  split
  · exact hs
  · extract_lets _ _ t _ _ u
    have ht : t.MemOk := memOk_ite hs.setMe.regrant hs
    have hu : u.MemOk := ht.setMe.noteWait
    split
    · exact hu.post
    · exact ht

theorem State.MemOk.enterHeader (hs : s.MemOk) : s.enterHeader.MemOk := by
  unfold State.enterHeader
  extract_lets
  split
  · rename_i e
    exact hs.fetch.of_fetch_stop e
  · rename_i t w _ e
    have ht : t.MemOk := hs.fetch.of_got e
    refine memOk_ite ht.headerFault (memOk_ite ht.setMe ?_)
    extract_lets
    refine memOk_ite ht.raise ?_
    have hr : (if bitOf w.toNat 55 then t.renegotiate else (t, false)).1.MemOk := by
      split
      · exact ht.renegotiate
      · exact ht
    split
    · rename_i e'
      exact hr.of_fst e'
    · rename_i e'
      exact State.MemOk.setMe (hr.of_fst e')

theorem execRnTileGiveUp_memOk {ctx} (hs : s.MemOk) : ResOk (execRnTileGiveUp ctx s) := by
  unfold execRnTileGiveUp
  extract_lets _ t
  have ht : t.MemOk := hs.setCtx
  exact resOk_ite hs ht.regrant.boundary

theorem State.MemOk.walkLine {pc at' last n} (hs : s.MemOk) : (s.walkLine pc at' last n).MemOk := by
  induction n generalizing s at' last with
  | zero => exact hs.headerFault
  | succ n ih =>
    refine memOk_ite hs.headerFault ?_
    split
    · rename_i e
      exact hs.fetch.of_fetch_stop e
    · rename_i t w _ e
      have ht : t.MemOk := hs.fetch.of_got e
      exact memOk_ite ht.headerFault (memOk_ite ht.setMe (memOk_ite ht.setMe (ih ht)))

theorem execHeaderWalk_memOk {ctx} (hs : s.MemOk) : ResOk (execHeaderWalk ctx s) := by
  unfold execHeaderWalk
  extract_lets _ _ _ t
  have ht : t.MemOk := State.MemOk.walkLine (hs.of_mem rfl)
  exact resOk_ite hs (State.MemOk.boundary (ht.of_mem rfl))

theorem State.MemOk.histogram {core} (hs : s.MemOk) : (s.histogram core).MemOk := by
  unfold State.histogram
  extract_lets _ t u
  have ht : t.MemOk := hs.bump
  have hu : u.MemOk := ht.bump
  exact memOk_ite hs hu.setCore

theorem State.MemOk.stopped? (hs : s.MemOk) : OptOk s.stopped? := optOk_map fun _ => hs.setHall.traceTo.halt

theorem State.MemOk.issueBundle (hs : s.MemOk) : s.issueBundle.MemOk := by
  unfold State.issueBundle
  extract_lets
  split
  · rename_i e
    exact hs.stopped?.of_some e
  · split
    · rename_i e'
      exact hs.fetch.of_fetch_stop e'
    · rename_i e'
      extract_lets u _ v
      have hu : u.MemOk := (hs.fetch.of_got e').setMe
      have hv : v.MemOk := hu.setMe
      split
      · exact hu.illegal
      · split
        · exact hu.illegal
        · split
          · exact hu.hold
          · split
            · exact hv.setCore.bump.noteWait
            · extract_lets w
              have hw : w.MemOk := hu.takeBanks
              exact hw.of_mem rfl

theorem State.MemOk.issueCtx {ctx} (hs : s.MemOk) : (s.issueCtx ctx).MemOk := by
  unfold State.issueCtx
  extract_lets t _ u
  have ht : t.MemOk := hs.of_mem rfl
  have hu : u.MemOk := ht.enterHeader
  split
  · exact ht.setMe.noteWait.post
  · exact ht.issueBundle
  · split
    · exact hu.issueBundle
    · exact hu

theorem State.MemOk.issueFrom {core n} (hs : s.MemOk) : (s.issueFrom core n).MemOk := by
  induction n generalizing s with
  | zero => exact hs
  | succ n ih =>
    unfold State.issueFrom
    split
    · exact hs
    · exact memOk_ite hs.issueCtx (ih hs.issueCtx)

theorem State.MemOk.bundleDone {ctx} (hs : s.MemOk) : (s.bundleDone ctx).MemOk := by
  unfold State.bundleDone
  extract_lets _ _ t
  have ht : t.MemOk := hs.setCtx
  exact memOk_ite ht (memOk_ite ht.raiseAt (State.MemOk.boundary (memOk_ite ht.setCtx ht)))

theorem State.MemOk.countIssue {ctx} (hs : s.MemOk) : (s.countIssue ctx).MemOk := hs.setCore.bump

theorem State.MemOk.traceEntry {ctx start} (hs : s.MemOk) : (s.traceEntry ctx start).MemOk := by
  unfold State.traceEntry
  split
  · extract_lets _ t
    have ht : t.MemOk := hs.traceTo.bump
    clear_value t
    exact ht.of_mem rfl
  · exact hs

end Sys2Proof.Machine

end

section
/-! Marks and regions. -/

namespace Sys2Proof.Machine

variable {s : State}

theorem depositOp_memOk {a b k} (hs : s.MemOk) : ResOk (depositOp a b k s) := by
  unfold depositOp
  split
  · exact hs.raise
  · exact resOk_ite hs.operand hs.relax

theorem State.MemOk.sense {l} (hs : s.MemOk) : (s.sense l).1.MemOk := by
  induction l generalizing s with
  | nil => exact hs
  | cons h l ih => exact ih hs.markAt

theorem execMsense_memOk {d a b} (hs : s.MemOk) : ResOk (execMsense d a b s) := by
  unfold execMsense
  split
  · exact hs.raise
  · exact resOk_ite hs.operand (resOk_ite hs.hold hs.toward.sense.reply)

theorem markOp_memOk {d a} {go : Nat → State → State} (hs : s.MemOk) (hg : ∀ n t, t.MemOk → (go n t).MemOk) : ResOk (markOp d a s go) := by
  unfold markOp
  split
  · exact hs.raise
  · exact resOk_ite hs.hold (hg _ _ hs.toward.markAt).reply

theorem execMwait_memOk {d} (hs : s.MemOk) : ResOk (execMwait d s) := by
  unfold execMwait
  split
  · exact hs.resume
  · exact hs.hold

theorem execMwaitUntil_memOk {d a} (hs : s.MemOk) : ResOk (execMwaitUntil d a s) := by
  unfold execMwaitUntil
  split
  · exact hs.resume
  · exact resOk_ite hs.wr hs.hold

theorem fieldOp_memOk {a} {go : Nat → Nat → State → State} (hs : s.MemOk)
    (hg : ∀ n n1 t, t.MemOk → (go n n1 t).MemOk) : ResOk (fieldOp a s go) := resOk_ite hs.privilege
        (resOk_ite hs.operand (resOk_ite hs.raise (hg _ _ _ hs)))

theorem execMfield_memOk {a b} (hs : s.MemOk) : ResOk (execMfield a b s) := by
  unfold execMfield
  refine fieldOp_memOk hs (fun _ _ _ ht => ?_)
  refine memOk_ite ht.operand ?_
  extract_lets _ u
  have hu : u.MemOk := ht.setHall
  exact hu.setMe.noteWait.send

end Sys2Proof.Machine

end

section
/-! Replies, wakes and migration. -/

namespace Sys2Proof.Machine

variable {s : State}

theorem State.MemOk.goOn {core} (hs : s.MemOk) : (State.goOn core s).MemOk := by
  unfold State.goOn
  extract_lets _ t
  have ht : t.MemOk := hs.postAll
  exact memOk_ite ht ht.post

theorem State.MemOk.takeBackCommand {ctx start} (hs : s.MemOk) : (s.takeBackCommand ctx start).MemOk := by
  unfold State.takeBackCommand
  refine memOk_ite hs ?_
  refine State.MemOk.goOn ?_
  exact hs.setRoom

theorem State.MemOk.dropReply {ctx} (hs : s.MemOk) : (s.dropReply ctx).MemOk := hs.of_mem rfl

theorem State.MemOk.dropFields {ctx} (hs : s.MemOk) : (s.dropFields ctx).MemOk := hs.of_mem rfl

theorem State.MemOk.blunt {ctx id} (hs : s.MemOk) : (s.blunt ctx id).MemOk := hs.of_mem rfl

theorem State.MemOk.undo {ctx} (hs : s.MemOk) : (s.undo ctx).MemOk := by
  unfold State.undo
  split
  · exact hs.dropReply.setCtx
  · extract_lets _ t u
    have ht : t.MemOk := by
      unfold t
      split
      · exact hs.blunt
      · exact hs
    have hu : u.MemOk := ht.takeBackCommand.dropReply.dropFields
    exact hu.of_mem rfl

theorem State.MemOk.unblock {core} (hs : s.MemOk) : (s.unblock core).MemOk := hs.postAll

theorem State.MemOk.retireRelaxed {ctx id} (hs : s.MemOk) : (s.retireRelaxed ctx id).MemOk := by
  unfold State.retireRelaxed
  extract_lets t
  have ht : t.MemOk := hs.setCtx
  exact memOk_foldl (fun _ hu _ => memOk_ite hu hu.setCtx.launchRelaxed) ht

theorem State.MemOk.acknowledge {ctx id} (hs : s.MemOk) : (s.acknowledge ctx id).MemOk := hs.retireRelaxed.unblock.kick

theorem State.MemOk.holdRelaxed {ctx id h acc why} (hs : s.MemOk) : (s.holdRelaxed ctx id h acc why).MemOk := by
  unfold State.holdRelaxed
  extract_lets _ t u
  have ht : t.MemOk := hs.setCtx
  have hu : u.MemOk := State.MemOk.tell (ht.of_mem rfl)
  exact memOk_ite hu.parkHeld hu

theorem State.MemOk.relaxedStep {ctx id} {go : State → State} (hs : s.MemOk)
    (hg : ∀ t, t.MemOk → (go t).MemOk) : (s.relaxedStep ctx id go).MemOk := by
  unfold State.relaxedStep
  extract_lets
  split
  · exact hs
  · refine memOk_ite hs.acknowledge (memOk_ite hs (memOk_ite hs (memOk_ite hs.defer ?_)))
    extract_lets
    split
    · rename_i e
      extract_lets u
      have hu : u.MemOk := (hs.perform.of_done e).useBanks.setCtx.unblock
      exact memOk_ite hu.answer (hg _ hu)
    · rename_i e
      exact (hs.perform.of_held e).holdRelaxed
    · rename_i e
      exact (hs.perform.of_failed e).setCtx.answer

theorem State.MemOk.commence {ctx} (hs : s.MemOk) : (s.commence ctx).MemOk := by
  unfold State.commence
  extract_lets _ t u
  have ht : t.MemOk := memOk_ite hs.unblock hs
  have hu : u.MemOk := ht.postAll
  exact memOk_ite hu hu.goOn

theorem execReplyArrival_memOk {ctx} (hs : s.MemOk) : ResOk (execReplyArrival ctx s) := by
  unfold execReplyArrival
  split
  · refine resOk_ite hs (resOk_ite (memOk_ite hs.undo.boundary (hs.of_mem rfl)) ?_)
    extract_lets t u
    have ht : t.MemOk := hs.setCtx
    have hu : u.MemOk := ht.of_mem rfl
    exact hu.commence.bundleDone
  · exact hs

theorem State.MemOk.performOne {x} (hs : s.MemOk) : (s.performOne x).MemOk := by
  unfold State.performOne
  split
  · exact hs
  · refine memOk_ite hs ?_
    split
    · rename_i e1
      exact (hs.perform.of_done e1).useBank.setCtx.unblock
    · rename_i e1
      exact hs.perform.of_held e1
    · rename_i e1
      exact (hs.perform.of_failed e1).setCtx

theorem State.MemOk.replyFrom {ford place x op e} (hs : s.MemOk) : (s.replyFrom ford place x op e).MemOk := hs.sendFrom

theorem State.MemOk.replyOne {ford place op v x} (hs : s.MemOk) : (s.replyOne ford place op v x).MemOk := by
  unfold State.replyOne
  split
  · split
    · split
      · exact hs.replyFrom
      · exact hs.setCtx.replyFrom
    · exact hs
  · split
    · exact hs.replyFrom
    · exact hs

theorem State.MemOk.failAdd {kind reason x} (hs : s.MemOk) : (s.failAdd kind reason x).MemOk := by
  unfold State.failAdd
  split
  · exact hs
  · extract_lets t
    have ht : t.MemOk := hs.undo
    exact ht.raiseAt

theorem State.MemOk.spoilAdds {p kind reason} (hs : s.MemOk) : (s.spoilAdds p kind reason).MemOk := memOk_foldl (fun _ ht _ => ht.setCtx) hs

theorem State.MemOk.landAdds {p} (hs : s.MemOk) : (s.landAdds p).MemOk := memOk_foldl (fun _ ht _ => ht.setCtx) hs

theorem State.MemOk.replyTo {p v} (hs : s.MemOk) : (s.replyTo p v).MemOk := by
  unfold State.replyTo
  extract_lets
  split
  · exact hs.send
  · exact memOk_foldl (fun _ ht _ => ht.replyOne) hs

theorem State.MemOk.performAdd {p} (hs : s.MemOk) : (s.performAdd p).MemOk := by
  unfold State.performAdd
  extract_lets gone t
  have hgone : ∀ u, u.MemOk → (gone u).MemOk := fun _ hu => hu.of_mem rfl
  have ht : t.MemOk := hgone _ hs
  split
  · exact hgone _ hs
  · split
    · exact hs
    · split
      · exact hs.defer
      · split
        · exact ht.spoilAdds.replyTo
        · split
          · exact ht.spoilAdds.replyTo
          · exact ht.useBank.put.landAdds.replyTo

theorem State.MemOk.spoilDeposits {who} (hs : s.MemOk) : (s.spoilDeposits who).MemOk := memOk_foldl (fun _ ht _ => ht.setCtx) hs

theorem State.MemOk.performPacket {p} (hs : s.MemOk) : (s.performPacket p).MemOk := by
  unfold State.performPacket
  extract_lets gone
  have hgone : ∀ t, t.MemOk → (gone t).MemOk := fun _ ht => ht.of_mem rfl
  refine memOk_ite hs.performAdd (memOk_ite (hgone _ hs).spoilDeposits.replyTo (memOk_ite hs ?_))
  split
  · exact hs.relaxedStep memOk_id
  · exact memOk_ite hs.defer (State.MemOk.replyTo (memOk_foldl (fun _ ht _ => ht.performOne) (hgone _ hs)))

theorem execRemoteUpdate_memOk {ctx id} (hs : s.MemOk) : ResOk (execRemoteUpdate ctx id s) := by
  unfold execRemoteUpdate
  refine resOk_ite (memOk_ite hs hs.landFronts.kick) ?_
  split
  · exact hs.performPacket
  · exact hs.relaxedStep (fun _ ht => ht.post)

theorem State.MemOk.loseLoad {ctx r} (hs : s.MemOk) : (s.loseLoad ctx r).MemOk := by
  unfold State.loseLoad
  split
  · exact hs.free.wrCtx
  · refine memOk_foldl (fun _ ht _ => ?_) hs
    exact ht.free.deliver
  · exact hs

theorem execRelaxedFaultReply_memOk {ctx id kind reason} (hs : s.MemOk) : ResOk (execRelaxedFaultReply ctx id kind reason s) := by
  unfold execRelaxedFaultReply
  split
  · exact hs.failAdd
  · exact resOk_ite hs hs.loseLoad.retireRelaxed.stopWith.unblock.kick

theorem State.MemOk.markWordLost {h} (hs : s.MemOk) : (s.markWordLost h).MemOk := by
  unfold State.markWordLost
  split
  · exact hs.store.traceTo
  · exact hs

theorem State.MemOk.markReadLost {ctx h} (hs : s.MemOk) : (s.markReadLost ctx h).MemOk := by
  unfold State.markReadLost
  split
  · split
    · extract_lets t
      have ht : t.MemOk := hs.undo.markWordLost
      exact ht.raiseAt
    · exact hs.markWordLost
  · exact hs.markWordLost

theorem State.MemOk.meetError {ctx id r} (hs : s.MemOk) : (s.meetError ctx id r).MemOk := by
  unfold State.meetError
  extract_lets t
  have ht : t.MemOk := hs.markWordLost
  split
  · exact ht.logFault.acknowledge
  · extract_lets u
    have hu : u.MemOk := ht.spoilDeposits
    exact memOk_ite hu.performPacket hu

theorem execReductionFaultReply_memOk {ctx id reason} (hs : s.MemOk) : ResOk (execReductionFaultReply ctx id reason s) := by
  unfold execReductionFaultReply
  split
  · exact memOk_ite hs.markReadLost hs
  · exact resOk_ite hs (resOk_ite (memOk_ite hs hs.meetError) hs.logFault.acknowledge)

theorem execStationWake_memOk {ctx value} (hs : s.MemOk) : ResOk (execStationWake ctx value s) := by
  unfold execStationWake
  extract_lets
  split
  · exact resOk_ite (hs.of_mem rfl) hs
  · exact resOk_ite (hs.of_mem rfl) hs
  · exact hs.of_mem rfl
  · exact hs

theorem State.MemOk.drainWrites {n l} (hs : s.MemOk) : (s.drainWrites n l).MemOk := by
  induction l generalizing s with
  | nil => exact hs
  | cons x l ih => exact ih hs.launchWrite

theorem State.MemOk.drainLate {n hall l} (hs : s.MemOk) : (s.drainLate n hall l).MemOk := by
  induction l generalizing s with
  | nil => exact hs
  | cons x l ih => exact ih hs.lateRecord

theorem State.MemOk.wakeDispatcher {n} (hs : s.MemOk) : (s.wakeDispatcher n).MemOk := by
  unfold State.wakeDispatcher
  split
  · exact hs
  · extract_lets _ t u v w
    have ht : t.MemOk := hs.setLaunch
    have hu : u.MemOk := ht.drainWrites.drainLate
    have hv : v.MemOk := memOk_foldl (fun _ hy _ => hy.overflow) hu
    have hw : w.MemOk := memOk_ite hv.post (memOk_foldl (fun _ hx _ => hx.askChunk) hv)
    exact hw.post.postAll

theorem State.MemOk.spoilEntry {n h} (hs : s.MemOk) : (s.spoilEntry n h).MemOk := hs.setLaunch

theorem State.MemOk.retryCtx {ctx} (hs : s.MemOk) : (s.retryCtx ctx).MemOk := by
  unfold State.retryCtx
  extract_lets t
  have ht : t.MemOk := hs.setCtx
  split
  · exact ht.post
  · exact ht.post
  · exact ht.post
  · exact ht

theorem State.MemOk.wakeCopy {room q c refused} (hs : s.MemOk) : (s.wakeCopy room q c refused).MemOk := hs.setHead.post

theorem State.MemOk.wakeTile {room c refused} (hs : s.MemOk) : (s.wakeTile room c refused).MemOk := memOk_ite hs.tileFail hs.setRoom.tileOn

theorem State.MemOk.refusePacket {p} (hs : s.MemOk) : (s.refusePacket p).MemOk := by
  unfold State.refusePacket
  extract_lets t
  have ht : t.MemOk := memOk_foldl (fun _ hu _ => hu.setCtx) hs
  exact State.MemOk.replyTo (ht.of_mem rfl)

theorem State.MemOk.wakeSaved {ctx c refused} (hs : s.MemOk) : (s.wakeSaved ctx c refused).MemOk := by
  unfold State.wakeSaved
  extract_lets _ keep _ _ t u
  have hkeep : ∀ {v f}, v.MemOk → (keep v f).MemOk := fun hv => hv.of_mem rfl
  clear_value keep
  have ht : t.MemOk := hs.setCtx
  have hu : u.MemOk := memOk_ite ht.tileLoss (hkeep ht)
  exact memOk_ite hu.recordFailure.kick (hkeep hs.setCtx)

theorem State.MemOk.wakeStored {a r refused} (hs : s.MemOk) : (s.wakeStored a r refused).MemOk := by
  unfold State.wakeStored
  split
  · exact hs
  · exact memOk_ite (State.MemOk.recordFailure (hs.of_mem rfl)) (hs.of_mem rfl)

theorem State.MemOk.wakeHeld {ctx r code} (hs : s.MemOk) : (s.wakeHeld ctx r code).MemOk := by
  unfold State.wakeHeld
  extract_lets t
  have ht : t.MemOk := hs.setCtx
  split
  · exact ht.post
  · exact ht.refusePacket
  · exact ht.post

theorem State.MemOk.wakeFor {ctx code a1} (hs : s.MemOk) : (s.wakeFor ctx code a1).MemOk := by
  unfold State.wakeFor
  split
  · exact hs
  · exact hs.setCtx
  · exact hs.setCtx
  · exact hs.wakeHeld
  · exact hs.wakeCopy
  · exact hs.wakeTile
  · exact hs.wakeSaved

theorem State.MemOk.reissue {ctx} (hs : s.MemOk) : (s.reissue ctx).MemOk := hs.setCtx

theorem execWakeReissue_memOk {ctx} (hs : s.MemOk) : ResOk (execWakeReissue ctx s) := by
  unfold execWakeReissue
  extract_lets
  refine resOk_ite hs ?_
  split
  · split
    · exact hs.wakeFor
    · exact hs
  · split
    · split
      · exact resOk_ite (State.MemOk.requeue (hs.of_mem rfl)) hs.wakeStored
      · exact hs
    · refine resOk_ite hs.retryHost (resOk_ite hs.post (resOk_ite hs.wakeDispatcher ?_))
      split
      · exact hs
      · refine resOk_ite hs.retryCtx ?_
        split
        · exact resOk_ite hs.setCtx hs.reissue
        · exact hs
      · exact hs.wakeFor

theorem execWakeRefuse_memOk {ctx code} (hs : s.MemOk) : ResOk (execWakeRefuse ctx code s) := by
  unfold execWakeRefuse
  extract_lets _ _ _ _ t
  have ht : t.MemOk := memOk_ite hs.regrant hs
  refine resOk_ite hs (resOk_ite ?_ (resOk_ite ?_ (resOk_ite ?_ (resOk_ite hs.refuseIntake (resOk_ite ?_ ?_)))))
  · split
    · exact hs.wakeFor
    · exact hs
  · split
    · split
      · exact resOk_ite (State.MemOk.requeue (hs.of_mem rfl)) hs.wakeStored
      · exact hs.wakeStored
    · exact hs
  · exact resOk_ite hs hs.setAttic.complete'.retryHost
  · split
    · exact hs
    · refine State.MemOk.wakeDispatcher (memOk_ite hs.setLaunch (memOk_ite ?_ (memOk_ite ?_ (memOk_ite hs.setLaunch (memOk_ite hs.setLaunch hs)))))
      -- in both an entry is sought, and the one whose translation failed is spoilt
      all_goals
        split
        · rename_i e
          exact State.MemOk.spoilEntry (hs.freeEntry.of_wait e)
        · rename_i e
          exact hs.freeEntry.of_ok e
        · rename_i e
          exact hs.freeEntry.of_bad e
  · split
    · exact hs
    · split
      · exact hs.spoilEntry.retryCtx
      · split
        · exact resOk_ite hs.setCtx ht.raiseAt
        · exact hs
    · exact hs.wakeFor

theorem State.MemOk.arrive {id} (hs : s.MemOk) : (s.arrive id).MemOk := by
  unfold State.arrive
  split
  · exact hs
  · extract_lets _ _ _ _ _ t
    have ht : t.MemOk := memOk_ite (hs.of_mem rfl) hs
    split
    · extract_lets u
      have hu : u.MemOk := ht.setCore.land
      split
      · exact memOk_ite hu.post hu
      · exact hu
    · exact memOk_ite ht (memOk_ite ht.setCore (ht.of_mem rfl))

theorem execMigrationResend_memOk {flight} (hs : s.MemOk) : ResOk (execMigrationResend flight s) := by
  unfold execMigrationResend
  split
  · exact resOk_ite (State.MemOk.migrationPacket (hs.of_mem rfl)) hs
  · exact hs

theorem execDeltaWithdrawal_memOk {ctx} (hs : s.MemOk) : ResOk (execDeltaWithdrawal ctx s) := by
  unfold execDeltaWithdrawal
  split
  · exact hs.setCtx.boundary
  · exact resOk_ite hs.undo.boundary hs
  · exact hs

end Sys2Proof.Machine

end

section
/-! The network. -/

namespace Sys2Proof.Machine

variable {s : State}

theorem State.MemOk.writeScopes (hs : s.MemOk) : s.writeScopes.MemOk := memOk_foldl (fun _ ht _ => ht.setHall) hs

theorem State.MemOk.combineOne {e es} (hs : s.MemOk) : (s.combineOne e es).1.MemOk := by
  unfold State.combineOne
  extract_lets
  split
  · exact hs
  · split
    · exact hs
    · exact hs.of_mem rfl

theorem State.MemOk.combine {e es n} (hs : s.MemOk) : (s.combine e es n).1.MemOk := by
  induction n generalizing s e es with
  | zero => exact hs
  | succ n ih =>
    unfold State.combine
    split
    rename_i t f e'
    have ht : t.MemOk := hs.combineOne.of_fst e'
    split
    · exact ht
    · exact ih ht

theorem State.MemOk.deliverPacket {p} (hs : s.MemOk) : (s.deliverPacket p).MemOk := by
  unfold State.deliverPacket
  split
  · exact hs.enterSluice
  · split
    · exact hs.send
    · split
      · split
        · exact State.MemOk.post (hs.of_mem rfl)
        · exact hs
      · exact hs.postAll

theorem State.MemOk.leaveSluice {hall e} (hs : s.MemOk) : (s.leaveSluice hall e).MemOk := by
  unfold State.leaveSluice
  extract_lets
  split
  · split
    · exact hs.offer
    · exact hs.deliverPacket
  · exact State.MemOk.post (hs.of_mem rfl)

theorem execSluiceSwitch_memOk {hall stage switch} (hs : s.MemOk) : ResOk (execSluiceSwitch hall stage switch s) := by
  unfold execSluiceSwitch
  refine resOk_ite trivial ?_
  extract_lets
  split
  · exact hs
  · extract_lets
    split
    · exact hs
    · split
      · rename_i e2
        extract_lets _ t _ v
        have ht : t.MemOk := (hs.combine.of_fst e2).of_mem rfl
        have hv : v.MemOk := ht.of_mem rfl
        exact resOk_ite ht.leaveSluice hv.post

theorem State.MemOk.splitOn {w line who v} (hs : s.MemOk) : (s.splitOn w line who v).MemOk := by
  unfold State.splitOn
  split
  · exact hs
  · exact hs.replyOne
  · split
    · exact hs.sendFrom
    · exact hs.replyOne

theorem execCombinedReplySplit_memOk {hall packet value} (hs : s.MemOk) : ResOk (execCombinedReplySplit hall packet value s) := by
  unfold execCombinedReplySplit
  split
  · exact hs
  · extract_lets _ _ t
    have ht : t.MemOk := hs.of_mem rfl
    exact resOk_ite hs ht.splitOn.splitOn

theorem State.MemOk.starve {hall out} (hs : s.MemOk) : (s.starve hall out).MemOk := hs.of_mem rfl

theorem State.MemOk.passOver {hall out} (hs : s.MemOk) : (s.passOver hall out).MemOk := by
  unfold State.passOver
  exact memOk_ite hs (memOk_ite (hs.of_mem rfl) hs.starve)

theorem State.MemOk.arbitrate' {hall p} (hs : s.MemOk) : (s.arbitrate' hall p).MemOk := by
  unfold State.arbitrate'
  extract_lets _ r t _ u
  have hr : r.1.MemOk := by
    unfold r
    split
    · exact hs.choose
    · exact hs
  have ht : t.MemOk := hr.of_mem rfl
  have hu : u.MemOk := memOk_ite hr ht
  split
  · exact hu
  · extract_lets _ v
    have hv : v.MemOk := hu.of_mem rfl
    exact memOk_ite hu hv.putOn.postAll

theorem State.MemOk.stopAt {hall p} (hs : s.MemOk) : (s.stopAt hall p).MemOk := State.MemOk.postAll (hs.of_mem rfl)

theorem State.MemOk.comeTo {hall d p} (hs : s.MemOk) : (s.comeTo hall d p).MemOk := by
  unfold State.comeTo
  refine memOk_ite hs.enterSluice ?_
  extract_lets _ t
  have ht : t.MemOk := hs.choose
  split
  · exact ht.stopAt
  · split
    · exact ht.stopAt
    · exact memOk_ite (State.MemOk.stopAt (ht.of_mem rfl)) (memOk_ite ht.stopAt ht.passOver.putOn)

theorem State.MemOk.cross {link tag p} (hs : s.MemOk) : (s.cross link tag p).MemOk := by
  unfold State.cross
  extract_lets _ t
  have ht : t.MemOk := hs.setLink
  split
  · exact State.MemOk.postAll (memOk_ite ht.deliverPacket ht.enterSluice)
  · split
    · exact ht.comeTo.postAll
    · exact ht

theorem execMeshHop_memOk {hall packet} (hs : s.MemOk) : ResOk (execMeshHop hall packet s) := by
  unfold execMeshHop
  refine resOk_ite trivial ?_
  split
  · refine resOk_ite hs.arbitrate' ?_
    extract_lets _ _ u
    have hu : u.MemOk := hs.of_mem rfl
    split
    · exact hs
    · exact resOk_ite hu.losePacket (resOk_ite hs hu.putOn)
  · split
    · exact hs
    · exact resOk_ite hs hs.cross

theorem execLinkRetrain_memOk {link} (hs : s.MemOk) : ResOk (execLinkRetrain link s) := by
  unfold execLinkRetrain
  exact resOk_ite trivial (State.MemOk.setLink (hs.of_mem rfl))

theorem execEsliaFlitError_memOk {link packet} (hs : s.MemOk) : ResOk (execEsliaFlitError link packet s) := by
  unfold execEsliaFlitError
  refine resOk_ite trivial (resOk_ite (State.MemOk.setLink (hs.of_mem rfl)) ?_)
  extract_lets
  split
  · exact hs.of_mem rfl
  · extract_lets
    split
    · split
      · exact hs.of_mem rfl
      · exact State.MemOk.postAll (State.MemOk.setLink (hs.of_mem rfl))

theorem State.MemOk.dropLost (hs : s.MemOk) : s.dropLost.MemOk := by
  unfold State.dropLost
  extract_lets _ _ _ _ _ _ _ _ t u
  have ht : t.MemOk := hs.of_mem rfl
  have hu : u.MemOk := memOk_foldl (fun _ hv _ => hv.losePacket) ht
  exact memOk_foldl (fun _ hv _ => State.MemOk.retired' (hv.of_mem rfl)) hu

theorem execReroute_memOk (hs : s.MemOk) : ResOk (execReroute s) := by
  unfold execReroute
  refine command_memOk hs ?_
  extract_lets _ t u _ _ _ v
  have ht : t.MemOk := memOk_foldl (fun _ hx _ => hx.setWing) hs
  have hu : u.MemOk := memOk_ite ht ht.dropLost
  have hv : v.MemOk := hu.of_mem rfl
  exact resOk_ite (hu.of_mem rfl) hv.writeScopes.postAll

theorem execRequestTimeout_memOk {ctx} (hs : s.MemOk) : ResOk (execRequestTimeout ctx s) := by
  unfold execRequestTimeout
  extract_lets _ _ _ _ t
  have ht : t.MemOk := hs.undo
  exact resOk_ite hs ht.raiseAt

end Sys2Proof.Machine

end

section
/-! Pre-emption and observing. -/

namespace Sys2Proof.Machine

variable {s : State}

theorem State.MemOk.preempt {p} (hs : s.MemOk) : (s.preempt p).MemOk := by
  unfold State.preempt
  extract_lets _ _ _ _ _ _ _ t u
  have ht : t.MemOk := hs.of_mem rfl
  have hu : u.MemOk := memOk_foldl (fun _ hv _ => hv.setRoom) ht
  exact State.MemOk.reportPreempts (memOk_foldl (fun _ hv _ => hv.halt) hu)

theorem State.MemOk.releaseImages {hall} (hs : s.MemOk) : (s.releaseImages hall).MemOk := by
  unfold State.releaseImages
  extract_lets _ _ t u _ v
  have ht : t.MemOk := hs.setHall
  have hu : u.MemOk := memOk_foldl (fun _ hw _ => hw.requeue) ht
  have hv : v.MemOk := hu.of_mem rfl
  exact memOk_ite hv hv.post

theorem State.MemOk.reopenRoom {room} (hs : s.MemOk) : (s.reopenRoom room).MemOk := by
  unfold State.reopenRoom
  extract_lets t u
  have ht : t.MemOk := hs.setRoom
  have hu : u.MemOk := ht.postAll
  exact memOk_ite hu hu.post

theorem State.MemOk.release' {kind halls which} (hs : s.MemOk) : OptOk (s.release' kind halls which) := by
  unfold State.release'
  split
  · trivial
  · split
    · exact memOk_foldl (fun _ ht _ => ht.releaseImages) hs
    · extract_lets t u _ _ v _ _ w _ x y t1
      have ht : t.MemOk := hs.of_mem rfl
      have hu : u.MemOk := memOk_ite ht.finished ht
      have hv : v.MemOk := memOk_ite (memOk_foldl (fun _ ht2 _ => ht2.reopenRoom) hu) hu
      have hw : w.MemOk := memOk_foldl (fun _ ht2 _ => ht2.setCtx.rejoin) hv
      have hx : x.MemOk := hw.of_mem rfl
      have hy : y.MemOk := memOk_foldl (fun _ ht2 _ => ht2.rejoin) hx
      have ht1 : t1.MemOk := memOk_foldl (fun _ ht2 _ => ht2.post) hy
      exact memOk_foldl (fun _ ht2 _ => ht2.releaseImages) ht1

theorem State.MemOk.reportReleases (hs : s.MemOk) : s.reportReleases.MemOk := memOk_ite (memOk_foldl (fun _ ht _ => ht.finished) (hs.of_mem rfl))
    (hs.of_mem rfl)

theorem State.MemOk.ringDrop {hall} (hs : s.MemOk) : (s.ringDrop hall).MemOk := hs.setHall

theorem State.MemOk.ringWrite {hall ws} {go : State → State} (hs : s.MemOk) (hg : ∀ t, t.MemOk → (go t).MemOk) : (s.ringWrite hall ws go).MemOk := by
  unfold State.ringWrite
  extract_lets
  refine memOk_ite hs.ringDrop ?_
  split
  · rename_i e'
    exact hg _ (hs.houseWrite.of_ok e').setHall
  · rename_i e'
    exact (hs.houseWrite.of_wait e').ringDrop
  · rename_i e'
    exact (hs.houseWrite.of_bad e').ringDrop

theorem State.MemOk.append {hall ws} (hs : s.MemOk) : (s.append hall ws).MemOk :=
  memOk_ite (hs.ringWrite memOk_id) (hs.ringWrite fun _ ht => ht.setHall.ringWrite memOk_id)

theorem execClearCoreCounters_memOk {core} (hs : s.MemOk) : ResOk (execClearCoreCounters core s) := by
  unfold execClearCoreCounters
  refine resOk_ite trivial ?_
  refine command_memOk hs ?_
  exact hs.setCore

theorem State.MemOk.stopParked {ctx} (hs : s.MemOk) : (s.stopParked ctx).MemOk := by
  unfold State.stopParked
  split
  · split
    · rename_i e'
      exact (OptOk.of_some e' (State.MemOk.stopped? (hs.of_mem rfl))).of_mem rfl
    · exact hs
  · exact hs

theorem execStopTableWrite_memOk {index who hdr ctl} (hs : s.MemOk) : ResOk (execStopTableWrite index who hdr ctl s) := by
  unfold execStopTableWrite
  refine resOk_ite trivial (resOk_ite hs ?_)
  extract_lets t
  have ht : t.MemOk := memOk_foldl (fun _ hu _ => hu.setHall) hs
  exact memOk_foldl (fun _ hu _ => hu.stopParked) ht

theorem State.MemOk.repark {ctx old} (hs : s.MemOk) : (s.repark ctx old).MemOk := by
  unfold State.repark
  split
  · exact hs
  · refine memOk_ite (memOk_ite hs hs.setCtx) ?_
    split
    · exact hs.setCtx
    · exact hs
    · split
      · exact hs.raiseAt
      · exact hs

theorem execDebugResume_memOk {ctx} (hs : s.MemOk) : ResOk (execDebugResume ctx s) := by
  unfold execDebugResume
  refine command_memOk hs ?_
  extract_lets
  refine resOk_ite hs ?_
  split
  · rename_i e1
    split
    · rename_i e2
      refine resOk_ite ((hs.houseRead.of_ok e1).blockOk.of_ok e2) ?_
      extract_lets _ _ v w x y
      have hv : v.MemOk := ((hs.houseRead.of_ok e1).blockOk.of_ok e2).of_mem rfl
      have hw : w.MemOk := by
        unfold w
        split
        · split
          · rename_i e5
            exact (hv.blockPages.of_ok e5).loadBlock
          · rename_i e5
            exact hv.blockPages.of_wait e5
          · rename_i e5
            exact hv.blockPages.of_bad e5
        · exact hv
      have hx : x.MemOk := memOk_foldl (fun _ ht1 _ => ht1.tileLoss) hw
      have hy : y.MemOk := hx.setCtx
      exact hy.rejoin.freeBlock.repark.boundary
    · rename_i e2
      exact ((hs.houseRead.of_ok e1).blockOk.of_wait e2).tell
    · rename_i e2
      exact (hs.houseRead.of_ok e1).blockOk.of_bad e2
  · rename_i e'
    exact (hs.houseRead.of_wait e').tell
  · exact hs

theorem State.MemOk.setDump {f} (hs : s.MemOk) : (s.setDump f).MemOk := hs.of_mem rfl

theorem State.MemOk.writeSection {kind} (hs : s.MemOk) : (s.writeSection kind).MemOk := hs.setDump

theorem execCrashDump_memOk {writer} (hs : s.MemOk) : ResOk (execCrashDump writer s) := by
  unfold execCrashDump
  refine resOk_ite trivial ?_
  extract_lets
  refine resOk_ite hs (resOk_ite hs.setDump.preempt (resOk_ite hs ?_))
  split
  · exact hs.writeSection
  · exact hs.setDump

theorem execFrozenContext_memOk {ctx} (hs : s.MemOk) : ResOk (execFrozenContext ctx s) := by
  unfold execFrozenContext
  split
  · exact resOk_ite hs.freeze hs
  · exact hs

theorem execWatchdogTakeover_memOk {report} (hs : s.MemOk) : ResOk (execWatchdogTakeover report s) := by
  unfold execWatchdogTakeover
  refine command_memOk hs ?_
  extract_lets _ t
  have ht : t.MemOk := memOk_foldl (fun _ hu _ => hu.writeSection) hs
  exact resOk_ite hs ht.setDump

theorem State.MemOk.loseStore {ctx reason addr} (hs : s.MemOk) : (s.loseStore ctx reason addr).MemOk := by
  unfold State.loseStore
  extract_lets _ hit
  have hhit : ∀ t, t.MemOk → (hit t).MemOk := by
    intro _ ht
    unfold hit
    extract_lets u
    have hu : u.MemOk := ht.withdraw.dropRequests
    exact hu.setCtx.raiseAt
  split
  · exact hs
  · exact hs
  · exact hs
  · exact hhit _ hs.undo
  · exact memOk_ite hs.stopWith (hhit _ (memOk_ite hs.undo hs))
  · exact hhit _ hs

theorem execLocalStoreUncorrectable_memOk {core offset} (hs : s.MemOk) : ResOk (execLocalStoreUncorrectable core offset s) := by
  unfold execLocalStoreUncorrectable
  refine resOk_ite trivial ?_
  extract_lets _ t _ u
  have ht : t.MemOk := hs.setCore
  have hu : u.MemOk := memOk_foldl (fun _ hv _ => hv.loseStore) ht
  exact memOk_foldl (fun _ hv _ => hv.loseStore) hu

end Sys2Proof.Machine

end

section
/-! Time. -/

namespace Sys2Proof.Machine

variable {s : State}

theorem State.MemOk.fadeRegion {hall w} (hs : s.MemOk) : (s.fadeRegion hall w).MemOk := memOk_foldl (fun _ ht _ => ht.settleMark.setHall) hs

theorem State.MemOk.install {hall} (hs : s.MemOk) : (s.install hall).MemOk := by
  unfold State.install
  extract_lets _ t
  have ht : t.MemOk := hs.setHall
  exact memOk_foldl (fun _ hu _ => memOk_ite hu.setCtx.send hu) ht

theorem execEbbInstant_memOk (hs : s.MemOk) : ResOk (execEbbInstant s) := by
  unfold execEbbInstant
  extract_lets _ _ t u v
  have ht : t.MemOk := hs.of_mem rfl
  have hu : u.MemOk := memOk_foldl (fun _ hw _ => memOk_foldl (fun _ hy _ => memOk_ite hy.fadeRegion hy) hw) ht
  have hv : v.MemOk := by
    unfold v
    refine memOk_foldl (fun _ hw _ => ?_) hu
    exact memOk_ite hw hw.install
  exact resOk_ite hs (memOk_foldl (fun _ hw _ => hw.setCtx.post) hv)

theorem State.MemOk.sendBeat {wing} (hs : s.MemOk) : (s.sendBeat wing).MemOk := memOk_ite hs (memOk_foldl (fun _ ht _ => ht.convey) hs)

theorem State.MemOk.carryMessages (hs : s.MemOk) : s.carryMessages.MemOk := by
  unfold State.carryMessages
  extract_lets t
  have ht : t.MemOk := by
    unfold t
    refine memOk_foldl (fun _ hu _ => ?_) hs
    exact hu.convey
  exact ht.of_mem rfl

theorem State.MemOk.heartbeats (hs : s.MemOk) : s.heartbeats.MemOk := by
  unfold State.heartbeats
  extract_lets t
  have ht : t.MemOk := memOk_foldl (fun _ hu _ => hu.beat.sendBeat) hs
  exact memOk_foldl (fun _ hu _ => memOk_foldl (fun _ hv _ => hv.declareLost) hu) ht

theorem State.MemOk.tendUpdate (hs : s.MemOk) : s.tendUpdate.MemOk := memOk_ite hs
    (memOk_ite (hs.of_mem rfl) (memOk_ite (hs.of_mem rfl) (memOk_ite hs.post hs)))

theorem execIncChange_memOk {inc holdover} (hs : s.MemOk) : ResOk (execIncChange inc holdover s) := by
  unfold execIncChange
  refine command_memOk hs ?_
  refine resOk_ite hs ?_
  extract_lets _ _ t
  have ht : t.MemOk := hs.of_mem rfl
  exact memOk_foldl (fun _ hu _ => hu.traceTo) ht

theorem execSyncMessage_memOk {port sequence times} (hs : s.MemOk) : ResOk (execSyncMessage port sequence times s) := by
  unfold execSyncMessage
  refine resOk_ite trivial (resOk_ite hs ?_)
  extract_lets _ t _ u
  have ht : t.MemOk := hs.of_mem rfl
  have hu : u.MemOk := ht.of_mem rfl
  exact resOk_ite ht (hu.of_mem rfl)

theorem execSetEbbExponent_memOk {exponent} (hs : s.MemOk) : ResOk (execSetEbbExponent exponent s) := by
  unfold execSetEbbExponent
  refine command_memOk hs ?_
  exact resOk_ite hs (hs.of_mem rfl)

theorem execSetHouseCounter_memOk {value} (hs : s.MemOk) : ResOk (execSetHouseCounter value s) := by
  unfold execSetHouseCounter
  refine command_memOk hs ?_
  exact resOk_ite hs (hs.of_mem rfl)

end Sys2Proof.Machine

end

section
/-! House commands and what the attic does for the house. -/

namespace Sys2Proof.Machine

variable {s : State}

theorem execInvalidateTranslations_memOk {addr size} (hs : s.MemOk) : ResOk (execInvalidateTranslations addr size s) := by
  unfold execInvalidateTranslations
  refine command_memOk hs ?_
  extract_lets _ _ u
  have hu : u.MemOk := hs.of_mem rfl
  exact resOk_ite hs.finished (memOk_ite hu.finished (hu.of_mem rfl))

theorem execPreempt_memOk {kind halls which service} (hs : s.MemOk) : ResOk (execPreempt kind halls which service s) := command_memOk hs
    (resOk_ite hs.finished hs.preempt)

theorem execRelease_memOk {kind halls which} (hs : s.MemOk) : ResOk (execRelease kind halls which s) := by
  unfold execRelease
  refine command_memOk hs ?_
  split
  · exact hs.finished
  · rename_i e
    exact State.MemOk.reportReleases ((hs.release'.of_some e).of_mem rfl)

theorem State.MemOk.copyBlock {src dst} (hs : s.MemOk) : (s.copyBlock src dst).MemOk := memOk_foldl
    (fun _ ht _ => memOk_foldl (fun _ hu _ => hu.store) ht) hs

theorem State.MemOk.moveImage {source target a} (hs : s.MemOk) : OptOk (s.moveImage source target a) := by
  unfold State.moveImage
  split
  · split
    · rename_i e1
      extract_lets
      split
      · rename_i e2
        split
        · rename_i e3
          extract_lets w x y t1
          have hw : w.MemOk := (((hs.imageRead.of_ok e1).blockPages.of_ok e2).blockPages.of_ok e3).copyBlock.bputWs.bput
          have hx : x.MemOk := memOk_ite hw hw.bput
          have hy : y.MemOk := hx.setHall
          have ht1 : t1.MemOk := hy.setHall
          exact State.MemOk.freeBlock (ht1.of_mem rfl)
        · trivial
      · trivial
    · trivial
  · trivial

theorem State.MemOk.moveAll {source target l} (hs : s.MemOk) : OptOk (s.moveAll source target l) := by
  induction l generalizing s with
  | nil => exact hs
  | cons a l ih =>
    refine optOk_of fun t e => ?_
    obtain ⟨u, eu, et⟩ := Option.bind_eq_some_iff.mp e
    exact (ih (hs.moveImage.of_some eu)).of_some et

theorem State.MemOk.goOffline {hall} (hs : s.MemOk) : (s.goOffline hall).MemOk := by
  unfold State.goOffline
  extract_lets _ _ t u v w
  have ht : t.MemOk := hs.setHall
  have hu : u.MemOk := memOk_foldl (fun _ hx _ => hx.takeBack) ht
  clear_value u
  have hv : v.MemOk := hu.of_mem rfl
  have hw : w.MemOk := memOk_foldl (fun _ hx _ => hx.endWait) hv.setHall
  exact memOk_foldl (fun _ hx _ => memOk_ite hx.raiseAt hx) hw

theorem State.MemOk.removed {hall} (hs : s.MemOk) : (s.removed hall).MemOk := memOk_foldl (fun _ ht _ => ht.finished) hs

theorem execMoveImages_memOk {source target} (hs : s.MemOk) : ResOk (execMoveImages source target s) := by
  unfold execMoveImages
  refine command_memOk hs ?_
  refine resOk_ite hs.finished (resOk_ite hs.finished ?_)
  split
  · exact hs.finished
  · rename_i e1
    extract_lets u
    have hu : u.MemOk := (hs.moveAll.of_some e1).finished
    exact memOk_ite hu.goOffline.removed hu

theorem State.MemOk.zeroStore {core} (hs : s.MemOk) : (s.zeroStore core).MemOk := memOk_clear hs rfl

theorem execHallService_memOk {hall back} (hs : s.MemOk) : ResOk (execHallService hall back s) := by
  unfold execHallService
  refine command_memOk hs ?_
  refine resOk_ite hs.finished ?_
  extract_lets _ t m u v w x _ y
  have ht : t.MemOk := memOk_foldl (fun _ hq _ => hq.zeroStore) hs
  clear_value t
  have hm : ({ t with mem := clearMem t.mem (markAddr hall 0) (markAddr hall 262144) } : State).MemOk := memOk_clear ht rfl
  have hu : u.MemOk := memOk_clear hm rfl
  have hv : v.MemOk := hu.setHall
  have hw : w.MemOk := memOk_foldl (fun _ hq _ => hq.reopenRoom) hv
  have hx : x.MemOk := hs.setHall
  have hy : y.MemOk := hx.postAll
  split
  · exact resOk_ite hs.finished hw.post.finished
  · split
    · exact hs.finished
    · exact resOk_ite hs.goOffline.removed hs
    · exact hy.preempt

theorem execCoreInService_memOk {hall core} (hs : s.MemOk) : ResOk (execCoreInService hall core s) := by
  unfold execCoreInService
  refine command_memOk hs ?_
  refine resOk_ite hs.finished (resOk_ite hs.finished ?_)
  extract_lets _ t u v
  have ht : t.MemOk := hs.zeroStore
  have hu : u.MemOk := ht.withdraw
  have hv : v.MemOk := hu.of_mem rfl
  exact hv.post.finished

theorem execRetireStack_memOk {stack} (hs : s.MemOk) : ResOk (execRetireStack stack s) := by
  unfold execRetireStack
  refine command_memOk hs ?_
  refine resOk_ite hs.finished (resOk_ite hs.finished (resOk_ite hs.finished ?_))
  extract_lets t u
  have ht : t.MemOk := hs.of_mem rfl
  have hu : u.MemOk := memOk_foldl (fun _ hv _ => hv.setCore) ht
  exact hu.finished

theorem execRecalibrateLink_memOk {link} (hs : s.MemOk) : ResOk (execRecalibrateLink link s) := command_memOk hs
    (resOk_ite hs.finished (resOk_ite hs.finished (resOk_ite hs.finished hs.beginHalf)))

theorem execHalfRetrainTimeout_memOk {link half} (hs : s.MemOk) : ResOk (execHalfRetrainTimeout link half s) := by
  unfold execHalfRetrainTimeout
  exact resOk_ite trivial (resOk_ite hs hs.endRecal)

theorem execIsolatePeer_memOk {peer} (hs : s.MemOk) : ResOk (execIsolatePeer peer s) := by
  unfold execIsolatePeer
  refine command_memOk hs ?_
  exact resOk_ite hs.finished (State.MemOk.finished (State.MemOk.writeScopes (memOk_foldl (fun _ ht _ => ht.linkDown) (hs.of_mem rfl))))

theorem execPeerDiscovery_memOk {peer hops} (hs : s.MemOk) : ResOk (execPeerDiscovery peer hops s) := by
  unfold execPeerDiscovery
  refine command_memOk hs ?_
  refine resOk_ite trivial ?_
  extract_lets t
  have ht : t.MemOk := memOk_foldl (fun _ hu _ => hu.setLink.postAll) hs
  exact State.MemOk.writeScopes (ht.of_mem rfl)

theorem execSetTraceRing_memOk {hall base size} (hs : s.MemOk) : ResOk (execSetTraceRing hall base size s) := command_memOk hs
    (resOk_ite hs.finished (resOk_ite hs.finished hs.setHall.finished))

theorem execAdvanceTraceRing_memOk {hall offset} (hs : s.MemOk) : ResOk (execAdvanceTraceRing hall offset s) := by
  unfold execAdvanceTraceRing
  refine command_memOk hs ?_
  exact resOk_ite hs.finished (resOk_ite hs.finished hs.setHall.finished)

theorem execSetStatePool_memOk {hall base count} (hs : s.MemOk) : ResOk (execSetStatePool hall base count s) := command_memOk hs
    (resOk_ite hs.finished (resOk_ite hs.finished hs.setHall.retryImages.finished))

theorem State.MemOk.startHearth {core c} (hs : s.MemOk) : (s.startHearth core c).MemOk := by
  unfold State.startHearth
  extract_lets t u
  have ht : t.MemOk := hs.dropImage
  have hu : u.MemOk := ht.withdraw
  exact hu.of_mem rfl

theorem execStartHearths_memOk {halls core cell} (hs : s.MemOk) : ResOk (execStartHearths halls core cell s) := by
  unfold execStartHearths
  refine command_memOk hs ?_
  refine resOk_ite hs.finished ?_
  split
  · rename_i e'
    refine resOk_ite (hs.houseRead.of_ok e').finished ?_
    split
    · rename_i e2
      extract_lets _ _ _ v
      have hv : v.MemOk := memOk_foldl (fun _ hw _ => hw.startHearth) ((hs.houseRead.of_ok e').houseRead.of_ok e2)
      exact hv.finished
    · exact (hs.houseRead.of_ok e').finished
  · exact hs.finished

theorem execKeeperStep_memOk {tree} (hs : s.MemOk) : ResOk (execKeeperStep tree s) := by
  unfold execKeeperStep
  split
  · rename_i e
    exact keepTree_keeps.memOk e hs
  · exact hs

end Sys2Proof.Machine

end

section
/-! The host port, reset and boot. -/

namespace Sys2Proof.Machine

variable {s : State}

theorem execBoot_memOk {image version} (hs : s.MemOk) : ResOk (execBoot image version s) := by
  unfold execBoot
  refine resOk_ite hs ?_
  split
  · extract_lets t
    have ht : t.MemOk := hs.setAttic
    exact memOk_ite ht.attest ht
  · exact hs.setAttic

theorem State.MemOk.alarm {source} (hs : s.MemOk) : (s.alarm source).MemOk := by
  unfold State.alarm
  extract_lets _ t u v
  have ht : t.MemOk := hs.traceTo
  have hu : u.MemOk := ht.setAttic
  have hv : v.MemOk := memOk_ite hu.preempt.setAttic hu
  exact memOk_ite hv.setAttic hv

theorem execRuntimeUpdate_memOk {image _version} (hs : s.MemOk) : ResOk (execRuntimeUpdate image _version s) := by
  unfold execRuntimeUpdate
  refine resOk_ite hs ?_
  extract_lets t
  have ht : t.MemOk := hs.setAttic
  exact resOk_ite ht.setAttic ht.alarm

end Sys2Proof.Machine

end

section
/-! The command registers and the tick. -/

namespace Sys2Proof.Machine

variable {s : State}

theorem Command.perform_memOk {c} (hs : s.MemOk) : ResOk (Command.perform s c) := by
  unfold Command.perform
  split
  · exact execInvalidateTranslations_memOk hs
  · exact execPreempt_memOk hs
  · exact execRelease_memOk hs
  · exact execMoveImages_memOk hs
  · exact execHallService_memOk hs
  · exact execCoreInService_memOk hs
  · exact execRetireStack_memOk hs
  · exact execRecalibrateLink_memOk hs
  · exact execSetTraceRing_memOk hs
  · exact execIsolatePeer_memOk hs
  · exact execStartHearths_memOk hs
  · exact execSetStatePool_memOk hs
  · exact execAdvanceTraceRing_memOk hs

theorem State.MemOk.beginCommand {core} (hs : s.MemOk) : (s.beginCommand core).MemOk := by
  unfold State.beginCommand
  split
  · exact hs
  · refine memOk_ite hs ?_
    split
    · split
      · rename_i e2
        exact ResOk.of_next e2 (Command.perform_memOk (hs.of_mem rfl))
      · exact hs
    · exact hs.of_mem rfl

theorem State.MemOk.beginCommands (hs : s.MemOk) : s.beginCommands.MemOk := memOk_ite hs (memOk_foldl (fun _ ht _ => ht.beginCommand) hs)

theorem State.MemOk.tend (hs : s.MemOk) : s.tend.MemOk := by
  unfold State.tend
  extract_lets t u v w x y
  have ht : t.MemOk := memOk_ite hs.tendLinks hs
  have hu : u.MemOk := memOk_ite ht.carryMessages ht
  have hv : v.MemOk := memOk_ite hu.tendHalves hu
  have hw : w.MemOk := memOk_ite hv.reportPreempts hv
  have hx : x.MemOk := memOk_ite hw hw.reportReleases
  have hy : y.MemOk := memOk_ite hx hx.endPurges
  exact memOk_ite hy hy.beginCommands

theorem execCounterTick_memOk (hs : s.MemOk) : ResOk (execCounterTick s) := by
  unfold execCounterTick
  extract_lets _ _ t u v w x y
  have ht : t.MemOk := hs.of_mem rfl
  have hu : u.MemOk := memOk_ite ht (ht.of_mem rfl)
  have hv : v.MemOk := hu.postAll
  have hw : w.MemOk := memOk_ite hv hv.heartbeats.tendUpdate
  have hx : x.MemOk := hw.tend
  have hy : y.MemOk := State.MemOk.postAll (hx.of_mem rfl)
  exact memOk_ite hy.postAll hy

end Sys2Proof.Machine

end

section
/-! Every instruction. -/

namespace Sys2Proof.Machine

variable {s : State}

/-- Every instruction keeps memory in its canonical form, whatever it answers. -/
theorem exec_memOk {i} (hs : s.MemOk) : ResOk (exec i s) := by
  unfold exec
  cases i with
  | nopS | nopV => exact hs
  | add | sub | mul | mulhI | mulhN | divI | divN | remI | remN | and | or | xor | andn | shl | shr | sar | rol | ror | minI
  | maxI | minN | maxN | clz | ctz | popc | brev | bswap | addImm | mulImm | andImm | orImm | xorImm | shlImm | shrImm | sarImm
  | rolImm | rsub | minIImm | maxIImm | minNImm | maxNImm | li | lih | lix | lit | extN | extI | ins | dep | setCc | ebb
  | ebbPeriod | movsLo | movsHi => exact hs.wr
  | cmpSkn | cmpSknImm => exact compare_memOk hs
  | br | jr | ret => exact hs.enter
  | call | callr => exact hs.wr.enter
  | endTask => exact resOk_ite hs.privilege (hs.release (fun _ ht => ht.finishTask))
  | spawn => exact execSpawn_memOk hs
  | launch => exact execLaunch_memOk hs
  | greplay => exact execGreplay_memOk hs
  | ldI | ldN | ldxI | ldxN => exact loadOp_memOk hs
  | st | stx => exact storeOp_memOk hs
  | lkup => exact execLkup_memOk hs
  | tagset => exact execTagset_memOk hs
  | taginv => exact execTaginv_memOk hs
  | pfx => exact execPfx_memOk hs
  | segld => exact execSegld_memOk hs
  | segst => exact execSegst_memOk hs
  | segnar => exact resOk_ite hs.operand hs.setSeg
  | amo => exact execAmo_memOk hs
  | amocas => exact execAmocas_memOk hs
  | red => exact execRed_memOk hs
  | fence => exact hs.fencePoint memOk_id
  | qfence | qfenceOwn => exact qfence_memOk hs
  | take => exact execTake_memOk hs
  | put => exact execPut_memOk hs
  | fereadD => exact execFereadD_memOk hs
  | fereadProbe => exact feOp_memOk hs (fun _ _ ht => ht.reply)
  | fesetEmpty => exact feOp_memOk hs (fun _ _ ht => State.MemOk.await (State.MemOk.toward (memOk_ite ht.feEmpty ht)))
  | fesetFull => exact feOp_memOk hs (fun _ _ ht => ht.feForce.await)
  | futnew => exact execFutnew_memOk hs
  | futset => exact execFutset_memOk hs
  | futget => exact execFutget_memOk hs
  | futdrop => exact execFutdrop_memOk hs
  | barinit => exact resOk_ite hs.operand (wordOp_memOk hs (fun _ _ ht => memOk_ite ht.barrierFault ht.store.toward.await))
  | arrive => exact execArrive_memOk hs
  | waitb => exact execWaitb_memOk hs
  | waitl => exact execWaitl_memOk hs
  | cpy | cpys => exact copyOp_memOk hs
  | cpym => exact execCpym_memOk hs
  | landset => exact execLandset_memOk hs
  | mdep | mdepx => exact depositOp_memOk hs
  | msense => exact execMsense_memOk hs
  | mread => exact markOp_memOk hs (fun _ _ ht => ht)
  | mclr => exact markOp_memOk hs (fun _ _ ht => ht.store)
  | mwait => exact execMwait_memOk hs
  | mwaitUntil => exact execMwaitUntil_memOk hs
  | mfield => exact execMfield_memOk hs
  | mfieldRd => exact fieldOp_memOk hs (fun _ _ _ ht => ht.toward.reply)
  | dhash => exact resOk_ite hs.operand (resOk_ite hs.operand hs.wr)
  | dlook => exact execDlook_memOk hs
  | dput => exact execDput_memOk hs
  | drel => exact execDrel_memOk hs
  | dstat => exact execDstat_memOk hs
  | dtouch => exact execDtouch_memOk hs
  | fcfg => exact resOk_ite hs.porchFault (resOk_ite hs.operand hs.sendFront)
  | fput => exact execFput_memOk hs
  | fread => exact execFread_memOk hs
  | fmerge => exact execFmerge_memOk hs
  | fsave => exact execFsave_memOk hs
  | fload => exact execFload_memOk hs
  | fclr => exact resOk_ite hs.porchFault hs.sendFront
  | fstat => exact execFstat_memOk hs
  | movcRead => exact execMovcRead_memOk hs
  | movcWrite => exact execMovcWrite_memOk hs
  | movsSeg => exact hs.setMe
  | claimv => exact execClaimv_memOk hs
  | claimt => exact execClaimt_memOk hs
  | relv => exact resOk_ite hs hs.setMe.regrant
  | relt => exact resOk_ite hs.operand (resOk_ite hs hs.setMe.regrant)
  | slotstart => exact execSlotstart_memOk hs
  | slotreap => exact execSlotreap_memOk hs
  | slotreapSave => exact execSlotreapSave_memOk hs
  | slotown => exact execSlotown_memOk hs
  | trap => exact hs.raise
  | brk => exact resOk_ite hs.setMe hs.raise
  | trc => exact resOk_ite hs.traceCtx hs
  | rdctr => exact resOk_ite hs.operand hs.wr
  | taskres => exact execTaskres_memOk hs
  | taskkill => exact execTaskkill_memOk hs
  | vaddF | vsubF | vmulF | vminF | vmaxF | vabsF | vnegF | vand | vor | vxor | vrcp | vrsq | vexp2 | vlog2 | vsin | vcos | vtanh
  | vclz | vctz | vpopc => exact elemOp_memOk hs
  | vfma => exact execVfma_memOk hs
  | vfms => exact execVfms_memOk hs
  | vaddI | vsubI | vmulI | vmulh | vminI | vmaxI | vabsI | vnegI | vshl | vshr => exact packed_memOk hs
  | vcmp => exact execVcmp_memOk hs
  | vsel | vcvt | vshuf | vsplat | vsplatSeq | vmatch => exact laneOp_memOk hs
  | vqmx => exact execVqmx_memOk hs
  | vdqmx => exact execVdqmx_memOk hs
  | vvote => exact execVvote_memOk hs
  | vred => exact execVred_memOk hs
  | vscan => exact execVscan_memOk hs
  | vins => exact execVins_memOk hs
  | vext => exact execVext_memOk hs
  | vld | vlds | vgath => exact vloadOp_memOk hs
  | vst | vsts | vscat => exact vstoreOp_memOk hs
  | tld | tst => exact rowsOp_memOk hs
  | tldx => exact execTldx_memOk hs
  | tlw => exact execTlw_memOk hs
  | tscl | tsclSt => exact withParts_memOk hs (fun _ ht => withSpan_memOk ht (fun _ => ht.acceptTile))
  | tmma => exact execTmma_memOk hs
  | tmmaW => exact execTmmaW_memOk hs
  | tzero | tzeroT => exact withParts_memOk hs (fun _ ht => ht.acceptTile)
  | tdrain => exact execTdrain_memOk hs
  | tdrainByp => exact execTdrainByp_memOk hs
  | issueCycle => exact resOk_ite trivial hs.histogram.issueFrom
  | rnTileGiveUp => exact execRnTileGiveUp_memOk hs
  | headerWalk => exact execHeaderWalk_memOk hs
  | replyArrival => exact execReplyArrival_memOk hs
  | relaxedLoadData | relaxedAcknowledgement => exact hs.relaxedStep (fun _ ht => ht.acknowledge)
  | relaxedFaultReply => exact execRelaxedFaultReply_memOk hs
  | reductionFaultReply => exact execReductionFaultReply_memOk hs
  | remoteUpdate => exact execRemoteUpdate_memOk hs
  | stationWake => exact execStationWake_memOk hs
  | claimGrant => exact execClaimGrant_memOk hs
  | pageWalk => exact resOk_ite trivial (memOk_ite hs hs.lookup)
  | wakeReissue => exact execWakeReissue_memOk hs
  | wakeRefuse => exact execWakeRefuse_memOk hs
  | lendEvent => exact hs.lend
  | migrationArrival => exact hs.arrive
  | migrationResend => exact execMigrationResend_memOk hs
  | slotEvent => exact execSlotEvent_memOk hs
  | rotationBoundary => exact execRotationBoundary_memOk hs
  | hostLaunchCas => exact resOk_ite trivial hs.hostRequest
  | hostWindowMisuse | misuseClear | mboxGo | apertureRequest | hostRegisterWrite => exact hs.hostRequest
  | hostWindowOther => exact memOk_ite hs.hostRequest hs
  | launchIntake => exact execLaunchIntake_memOk hs
  | intakeReadRetry => exact execIntakeReadRetry_memOk hs
  | leaderDeltaLookup => exact execLeaderDeltaLookup_memOk hs
  | chunkRequest => exact execChunkRequest_memOk hs
  | grantNotice => exact execGrantNotice_memOk hs
  | grantAcknowledgement => exact execGrantAcknowledgement_memOk hs
  | grantCommit => exact execGrantCommit_memOk hs
  | chunkHandout => exact execChunkHandout_memOk hs
  | chunkCompletionReport => exact execChunkCompletionReport_memOk hs
  | heartbeat => exact resOk_ite trivial hs.beat
  | wingLost => exact resOk_ite trivial hs.declareLost
  | lossDeclaration => exact execLossDeclaration_memOk hs
  | leaderElection => exact execLeaderElection_memOk hs
  | launchCompletion => exact execLaunchCompletion_memOk hs
  | graphNodeComplete => exact execGraphNodeComplete_memOk hs
  | patchApply => exact execPatchApply_memOk hs
  | copyChunk => exact execCopyChunk_memOk hs
  | tileStep => exact execTileStep_memOk hs
  | sluiceSwitch => exact execSluiceSwitch_memOk hs
  | combinedReplySplit => exact execCombinedReplySplit_memOk hs
  | meshHop => exact execMeshHop_memOk hs
  | starvationToken => exact resOk_ite trivial (resOk_ite hs hs.starve)
  | linkRetrain => exact execLinkRetrain_memOk hs
  | linkRetrainTimeout => exact resOk_ite trivial (resOk_ite hs hs.linkDown.post)
  | esliaFlitError => exact execEsliaFlitError_memOk hs
  | reroute => exact execReroute_memOk hs
  | requestTimeout => exact execRequestTimeout_memOk hs
  | counterTick => exact execCounterTick_memOk hs
  | ebbInstant => exact execEbbInstant_memOk hs
  | markSweepWord => exact resOk_ite trivial hs.settleMark
  | incChange => exact execIncChange_memOk hs
  | syncMessage => exact execSyncMessage_memOk hs
  | timeSourceLoss => exact hs.of_mem rfl
  | deltaWithdrawal => exact execDeltaWithdrawal_memOk hs
  | keeperStep => exact execKeeperStep_memOk hs
  | frontStorageError => exact resOk_ite trivial hs.setRoom
  | faultHandover => exact execFaultHandover_memOk hs
  | localStoreUncorrectable => exact execLocalStoreUncorrectable_memOk hs
  | gangStop => exact hs.gangStop
  | imageWrite => exact execImageWrite_memOk hs
  | claimReestablish => exact execClaimReestablish_memOk hs
  | debugResume => exact execDebugResume_memOk hs
  | stopTableWrite => exact execStopTableWrite_memOk hs
  | traceAppend => exact resOk_ite trivial hs.append
  | invalidateTranslations => exact execInvalidateTranslations_memOk hs
  | preempt => exact execPreempt_memOk hs
  | release => exact execRelease_memOk hs
  | moveImages => exact execMoveImages_memOk hs
  | hallService => exact execHallService_memOk hs
  | coreInService => exact execCoreInService_memOk hs
  | retireStack => exact execRetireStack_memOk hs
  | recalibrateLink => exact execRecalibrateLink_memOk hs
  | halfRetrainTimeout => exact execHalfRetrainTimeout_memOk hs
  | setTraceRing => exact execSetTraceRing_memOk hs
  | isolatePeer => exact execIsolatePeer_memOk hs
  | startHearths => exact execStartHearths_memOk hs
  | setStatePool => exact execSetStatePool_memOk hs
  | advanceTraceRing => exact execAdvanceTraceRing_memOk hs
  | peerDiscovery => exact execPeerDiscovery_memOk hs
  | reset => exact State.MemOk.of_mem (s := .reset) State.reset_wf rfl
  | boot => exact execBoot_memOk hs
  | runtimeUpdate => exact execRuntimeUpdate_memOk hs
  | updateConfirmTimeout => exact command_memOk hs (resOk_ite hs hs.setAttic)
  | attestationRequest => exact memOk_ite hs hs.attest
  | securityAlarm => exact resOk_ite trivial hs.alarm
  | crashDump => exact execCrashDump_memOk hs
  | frozenContext => exact execFrozenContext_memOk hs
  | dumpHeartbeat => exact command_memOk hs (resOk_ite hs hs.setDump)
  | watchdogTakeover => exact execWatchdogTakeover_memOk hs
  | setEbbExponent => exact execSetEbbExponent_memOk hs
  | setHouseCounter => exact execSetHouseCounter_memOk hs
  | setTranslationRoot => exact command_memOk hs (resOk_ite trivial (resOk_ite hs (hs.of_mem rfl)))
  | scopeTableWrite => exact command_memOk hs hs.writeScopes
  | occupancyRegionWrite => exact command_memOk hs (memOk_foldl (fun _ ht _ => ht.setHall) hs)
  | clearCoreCounters => exact execClearCoreCounters_memOk hs

end Sys2Proof.Machine

end

section
/-! Execution of a bundle, and a step of the house. -/

namespace Sys2Proof.Machine

variable {s : State}

theorem State.MemOk.begin {ctx} (hs : s.MemOk) : (s.begin ctx).MemOk := by
  unfold State.begin
  extract_lets _ _ u
  have hu : u.MemOk := hs.of_mem rfl
  exact hu.setMe

theorem pair_memOk {ctx start i j} (hs : s.MemOk) : ResOk (pair ctx start i j s) := by
  unfold pair
  split
  · rename_i a ea
    have ha : a.MemOk := (exec_memOk hs).of_next ea
    split
    · exact ha
    · split
      · rename_i b eb
        exact resOk_ite ha ((exec_memOk hs).of_next eb)
      · exact exec_memOk hs
    · split
      · rename_i b eb
        refine resOk_ite ((exec_memOk ha).of_next eb) ?_
        split
        · rename_i v ev
          have hv : v.MemOk := (exec_memOk hs).of_next ev
          refine resOk_ite hv ?_
          split
          · rename_i w ew
            exact resOk_ite ((exec_memOk hv).of_next ew) hs.hold
          · exact exec_memOk hv
        · exact exec_memOk hs
      · exact exec_memOk ha
  · exact exec_memOk hs

theorem State.MemOk.issued {ctx old} (hs : s.MemOk) : (s.issued ctx old).MemOk := by
  unfold State.issued
  exact memOk_ite hs.setCtx.countIssue.traceEntry hs

theorem State.MemOk.won {ctx} (hs : s.MemOk) : (s.won ctx).MemOk := memOk_ite hs.setCore hs

theorem State.MemOk.passOn {ctx old} (hs : s.MemOk) : (s.passOn ctx old).MemOk := memOk_ite (hs.of_mem rfl) hs

theorem State.MemOk.fly {ctx i t} (hs : s.MemOk) : (s.fly ctx i t).MemOk := by
  unfold State.fly
  extract_lets v
  have hv : v.MemOk := hs.of_mem rfl
  split
  · exact hv
  · extract_lets w x
    have hw : w.MemOk := hv.setCtx.noteWait
    have hx : x.MemOk := hw.request
    exact hx.issued.won

theorem State.MemOk.arrived {ctx start} (hs : s.MemOk) : (s.arrived ctx start).MemOk := by
  unfold State.arrived
  extract_lets t
  have ht : t.MemOk := by
    unfold t
    split
    · exact memOk_ite hs.setCtx hs
    · exact hs
  split
  · exact ht.setCtx
  · exact ht
  · exact ht
  · exact ht.setCtx

theorem State.MemOk.heed {ctx} (hs : s.MemOk) : (s.heed ctx).MemOk := by
  unfold State.heed
  extract_lets
  split
  · split
    · exact hs.setCtx.stopWith
    · exact memOk_ite hs hs.setCtx.halt
  · exact hs

theorem State.MemOk.finish {ctx old} (hs : s.MemOk) : (s.finish ctx old).MemOk := by
  unfold State.finish
  extract_lets _ t _ _ u
  have ht : t.MemOk := memOk_ite hs.arrived hs
  have hu : u.MemOk := ht.of_mem rfl
  split
  · exact memOk_ite hu.setCtx.defer hu.setCtx
  · exact hu.setCtx.passOn
  · exact hu.setCtx.passOn
  · exact memOk_ite hu.countIssue.traceEntry hu.passOn
  · exact State.MemOk.won (State.MemOk.issued (memOk_ite (hu.of_mem rfl) hu))
  · exact State.MemOk.won (State.MemOk.issued (hu.of_mem rfl))
  · exact hu.issued.setCtx
  · exact hu.issued.won.bundleDone

theorem State.MemOk.runBundle {ctx} (hs : s.MemOk) : ResOk (s.runBundle ctx) := by
  unfold State.runBundle
  extract_lets _ t
  have ht : t.MemOk := hs.begin
  split
  · exact hs.of_mem rfl
  · split
    · rename_i e1
      split
      · exact hs.fly
      · extract_lets v w
        have hv : v.MemOk := memOk_ite ht.forgo ((pair_memOk ht).of_next e1)
        have hw : w.MemOk := hv.finish
        exact memOk_ite hw.heed hw
    · exact pair_memOk ht

theorem State.MemOk.settle (hs : s.MemOk) : ResOk s.settle := by
  unfold State.settle
  split
  · exact hs.runBundle
  · exact hs

theorem perform_memOk {e} (hs : s.MemOk) : ResOk (perform e s) := by
  unfold perform
  split
  · rename_i e'
    exact ((exec_memOk hs).of_next e').settle
  · exact trivial
  · exact trivial

theorem step_memOk (hs : s.MemOk) : ResOk (step s) := by
  unfold step
  split
  · exact perform_memOk (hs.of_mem rfl)
  · split
    · exact perform_memOk (hs.of_mem rfl)
    · exact perform_memOk (hs.of_mem rfl)

/-- Settles O59, by one lemma for each operation of the house: a store keeps the form, nothing else but a clearing writes memory, and a step is
made of such operations. -/
theorem stepsKeepMemoryInForm : Obligations.StepsKeepMemoryInForm := fun _ _ hs e => (step_memOk hs).of_next e

end Sys2Proof.Machine

end

section
/-! O53. R8 counts the units of the house. Each event checks the unit that it names before it does anything else, so the count decides the
outcome alone; only the discovery of a peer and the setting of the translation root do nothing, whatever they name, while the attic holds. The
lemmas gather the events by the unit that they name. -/

namespace Sys2Proof.Machine

/-- The event stops under the name that the house has no unit of this number. -/
def StopsAbsent (s : State) (n : Nat) (e : Instr) : Prop := exec e s = .fault (.noSuchUnit n)

variable {s : State} {n : Nat}

/-- While the attic does not hold, a house command is performed. -/
theorem command_of_not_holding {go : Res} (h : s.attic.holding = false) : command s go = go := by
  simp [command, h]

theorem absentCore_stops (h : allCores ≤ n) : StopsAbsent s n (.issueCycle n) ∧ StopsAbsent s n (.clearCoreCounters n) :=
  ⟨if_pos h, if_pos h⟩

theorem absentBarrelCore_stops {offset : Nat} (h : barrelCores ≤ n) : StopsAbsent s n (.localStoreUncorrectable n offset) :=
  if_pos (.inl h)

/-- Events of a hall as a whole: its dispatcher, its routers and its trace ring. -/
theorem absentHall_stops {packet : Nat} {stamp gtid head payload : Word} (h : 32 ≤ n) :
    StopsAbsent s n (.slotEvent n) ∧ StopsAbsent s n (.rotationBoundary n) ∧ StopsAbsent s n (.meshHop n packet) ∧
      StopsAbsent s n (.traceAppend n stamp gtid head payload) :=
  ⟨if_pos h, if_pos h, if_pos h, if_pos h⟩

/-- Events of a part of a hall: one of its launch words, its switches, its router's outputs or its mark words. An absent hall has no such part,
whatever number the part has. -/
theorem partOfAbsentHall_stops {k j : Nat} {compare swap : Word} (h : 32 ≤ n) :
    StopsAbsent s n (.hostLaunchCas n k compare swap) ∧ StopsAbsent s n (.launchIntake n k) ∧ StopsAbsent s n (.intakeReadRetry n k) ∧
      StopsAbsent s n (.sluiceSwitch n k j) ∧ StopsAbsent s n (.starvationToken n k) ∧ StopsAbsent s n (.markSweepWord n k) :=
  ⟨if_pos (.inl h), if_pos (.inl h), if_pos (.inl h), if_pos (.inl h), if_pos (.inl h), if_pos (.inl h)⟩

theorem absentPeer_stops {hops : Nat} (h : 32 ≤ n) (hs : s.attic.holding = false) : StopsAbsent s n (.peerDiscovery n hops) :=
  (command_of_not_holding hs).trans (if_pos (.inl h))

theorem absentStack_stops {addr : Nat} (h : 24 ≤ n) (hs : s.attic.holding = false) : StopsAbsent s n (.setTranslationRoot n addr) :=
  (command_of_not_holding hs).trans (if_pos h)

theorem absentRoom_stops {front : Nat} (h : 768 ≤ n) : StopsAbsent s n (.frontStorageError n front) := if_pos (.inl h)

theorem absentWing_stops (h : 8 ≤ n) : StopsAbsent s n (.heartbeat n) := if_pos h

theorem absentPort_stops {addr : Nat} (h : 609 ≤ n) : StopsAbsent s n (.pageWalk n addr) := if_pos h

theorem absentSyncPort_stops {sequence : Nat} {times : SyncTimes} (h : 2 ≤ n) : StopsAbsent s n (.syncMessage n sequence times) := if_pos h

theorem absentStopEntry_stops {who hdr ctl : Word} (h : 64 ≤ n) : StopsAbsent s n (.stopTableWrite n who hdr ctl) := if_pos h

theorem absentSystemCore_stops (h : 16 ≤ n) : StopsAbsent s n (.crashDump n) := if_pos h

theorem absentAlarmSource_stops (h : 6 ≤ n) : StopsAbsent s n (.securityAlarm n) := if_pos h

/-- A flit error is of an Eslia link, and those have the numbers 56 to 71 (log 15): a number below 56 stops it too. -/
theorem absentLink_stops {packet : Nat} {half : Bool} (h : 72 ≤ n) :
    StopsAbsent s n (.linkRetrain n) ∧ StopsAbsent s n (.linkRetrainTimeout n) ∧ StopsAbsent s n (.esliaFlitError n packet) ∧
      StopsAbsent s n (.halfRetrainTimeout n half) :=
  ⟨if_pos h, if_pos h, if_pos (.inr h), if_pos h⟩

/-- Settles O53, unit by unit: the event checks its unit's number against the count first. -/
theorem absentUnitsStop : Obligations.AbsentUnitsStop := by
  unfold Obligations.AbsentUnitsStop
  intro s n k w b times stops
  refine ⟨absentCore_stops, fun h => ?_, absentPeer_stops, absentPort_stops, absentWing_stops, absentSyncPort_stops, absentStopEntry_stops,
    absentSystemCore_stops, absentStack_stops, absentAlarmSource_stops, absentLink_stops, absentBarrelCore_stops, absentRoom_stops⟩
  obtain ⟨slot, rotation, hop, trace⟩ := absentHall_stops (s := s) h
  obtain ⟨cas, intake, retry, switch, token, mark⟩ := partOfAbsentHall_stops (s := s) h
  exact ⟨slot, rotation, cas, intake, retry, hop, switch, token, mark, trace⟩

end Sys2Proof.Machine

end

section
/-! O42. An intake answers in one of three ways: the value is discarded, the launch is refused, or it is accepted under a free number. A lemma says
once what each outcome leaves. Taking the value and reading the record change neither the launches nor the wings nor the halls, so the outcome can be
told from the state in which the event began. -/

namespace Sys2Proof.Machine

variable {s t u : State} {hall wd v n : Nat} {ws gs segs : List Word} {node : Option (Nat × Nat)} {l : Launch}

/-! What the outcome of an intake depends on. -/

/-- Two states agree in what decides the outcome of an intake: the launches, the wings and the halls. -/
structure SameIntake (s t : State) : Prop where
  launches : t.launches = s.launches
  wings : t.wings = s.wings
  halls : t.halls = s.halls

theorem SameIntake.refl (s : State) : SameIntake s s := ⟨rfl, rfl, rfl⟩

theorem SameIntake.trans (h : SameIntake s t) (k : SameIntake t u) : SameIntake s u :=
  ⟨k.launches.trans h.launches, k.wings.trans h.wings, k.halls.trans h.halls⟩

theorem SameIntake.launch? (h : SameIntake s t) (m : Nat) : t.launch? m = s.launch? m := by simp [State.launch?, h.launches]

theorem SameIntake.hall_eq (h : SameIntake s t) (k : Nat) : t.hall k = s.hall k := by simp [State.hall, h.halls]

theorem SameIntake.healthy (h : SameIntake s t) (w : Nat) : t.healthy w = s.healthy w := by simp [State.healthy, State.wingUp, h.wings]

theorem freeLnum_of_launches (h : t.launches = s.launches) : t.freeLnum = s.freeLnum := by simp [State.freeLnum, State.launch?, h]

theorem refusedKey_of_launches (h : t.launches = s.launches) : t.refusedKey = s.refusedKey := by simp [State.refusedKey, State.launch?, h]

/-- A house access that changes TLBs alone leaves what decides an intake. -/
theorem sameIntake_of_tlbs {α : Type} {x : House α} (h : x.state = { s with tlbs := x.state.tlbs }) : SameIntake s x.state := by
  rw [h]
  exact ⟨rfl, rfl, rfl⟩

theorem State.houseRead_sameIntake {a k : Nat} (e : s.houseRead hall a k = .ok t ws) : SameIntake s t := by
  have h := sameIntake_of_tlbs (s.houseRead_frame hall a k)
  rwa [e] at h

theorem State.houseWord_launches (hall a right : Nat) : (s.houseWord hall a right).state.launches = s.launches :=
  (sameIntake_of_tlbs (s.houseWord_frame hall a right)).launches

theorem State.feChanged_sameIntake (s : State) (h : Nat) : SameIntake s (s.feChanged h) := by
  rw [State.feChanged_frame]
  exact ⟨rfl, rfl, rfl⟩

theorem State.wake_sameIntake (s : State) (c : Nat) (x : Word) : SameIntake s (s.wake c x) := by
  rw [State.wake_frame]
  exact ⟨rfl, rfl, rfl⟩

theorem State.feEmpty_sameIntake (s : State) (h : Nat) : SameIntake s (s.feEmpty h) := by
  unfold State.feEmpty
  split
  · rename_i q _ _
    have hstore : SameIntake s (s.store h 8 q.kind.value.toNat) := ⟨rfl, rfl, rfl⟩
    exact (hstore.trans (State.wake_sameIntake ..)).trans (State.feChanged_sameIntake ..)
  · have hfull : SameIntake s (s.setFull h false) := ⟨rfl, rfl, rfl⟩
    exact hfull.trans (State.feChanged_sameIntake ..)

theorem State.takeLaunch_sameIntake {x : Word} (e : s.takeLaunch hall wd = some (x, t)) : SameIntake s t := by
  unfold State.takeLaunch State.feTake at e
  dsimp only at e
  split at e
  · split at e
    · obtain ⟨-, rfl⟩ := Prod.mk.inj (Option.some.inj e)
      exact ⟨rfl, rfl, rfl⟩
    · contradiction
  · split at e
    · obtain ⟨-, rfl⟩ := Prod.mk.inj (Option.some.inj e)
      exact State.feEmpty_sameIntake ..
    · contradiction

/-! Launches under the steps that follow acceptance. -/

@[simp] theorem State.takeNode_launches : (s.takeNode hall v node).launches = s.launches := by
  unfold State.takeNode
  split <;> rfl

@[simp] theorem State.takeNode_none : s.takeNode hall v none = s := rfl

@[simp] theorem State.put_launches (p : Phys) (k x : Nat) : (s.put p k x).launches = s.launches := by
  unfold State.put
  dsimp only
  split
  · split
    · rfl
    · refine List.foldlRecOn (motive := fun u : State => u.launches = s.launches) _ _ rfl fun u hu i _ => ?_
      rw [State.reeval_frame]
      exact hu
  · rw [State.spoil_frame]
    rfl

@[simp] theorem State.askChunk_launches (k w : Nat) : (s.askChunk k w).launches = s.launches := by
  unfold State.askChunk
  split
  · rfl
  · rw [State.convey_frame]

/-- Launch `n` of `t` is `l`, but for the writes that it holds; every other launch is as in `s`. -/
def Admits (s t : State) (n : Nat) (l : Launch) : Prop :=
  (∃ q, t.launch? n = some { l with heldW := q }) ∧ ∀ m, m ≠ n → t.launch? m = s.launch? m

theorem admits_tset (h : t.launches = tset s.launches n l) : Admits s t n l := by
  refine ⟨⟨l.heldW, ?_⟩, fun m hm => ?_⟩
  · simp [State.launch?, h]
  · simp [State.launch?, h, tfind_tset_ne _ _ hm]

theorem Admits.of_launches (h : Admits s t n l) (e : u.launches = t.launches) : Admits s u n l := by
  simpa [Admits, State.launch?, e] using h

theorem Admits.setHeld (h : Admits s t n l) (f : Launch → List (Nat × Nat × Nat)) :
    Admits s (t.setLaunch n fun x => { x with heldW := f x }) n l := by
  obtain ⟨⟨q, hq⟩, hm⟩ := h
  unfold State.setLaunch
  rw [hq]
  refine ⟨⟨f { l with heldW := q }, ?_⟩, fun m hn => ?_⟩
  · simp [State.launch?]
  · rw [← hm m hn]
    exact tfind_tset_ne _ _ hn

theorem Admits.launchWrite (h : Admits s t n l) (addr size x : Nat) : Admits s (t.launchWrite n addr size x) n l := by
  unfold State.launchWrite
  split
  · exact h
  · split
    · exact h.setHeld _
    · rename_i y _ _
      have hl := State.houseWord_launches (s := t) (t.launchHall y) addr rW
      split <;> (rename_i e; rw [e] at hl)
      · exact h.of_launches ((State.put_launches ..).trans hl)
      · exact ((h.of_launches hl).setHeld _).of_launches rfl
      · exact h.of_launches hl

theorem Admits.recordWrite (h : Admits s t n l) (off size x : Nat) : Admits s (t.recordWrite n off size x) n l := by
  unfold State.recordWrite
  split
  · exact h
  · exact h.launchWrite ..

theorem Admits.askChunks (h : Admits s t n l) (k : Nat) (wings : List Nat) : Admits s (wings.foldl (fun u w => u.askChunk k w) t) n l :=
  List.foldlRecOn (motive := fun u => Admits s u n l) wings _ h fun _ hu _ _ => hu.of_launches (State.askChunk_launches ..)

/-! The end of an intake. -/

theorem State.endIntake_frame : s.endIntake hall wd = { s with halls := (s.endIntake hall wd).halls, agenda := (s.endIntake hall wd).agenda } := by
  unfold State.endIntake
  dsimp only
  split <;> rfl

@[simp] theorem State.endIntake_launches : (s.endIntake hall wd).launches = s.launches := by rw [State.endIntake_frame]

theorem State.mem_agenda_endIntake {e : Instr} (h : e ∈ s.agenda) : e ∈ (s.endIntake hall wd).agenda := by
  unfold State.endIntake
  dsimp only
  split
  · exact List.mem_append_left _ h
  · exact h

@[simp] theorem State.intakes_endIntake : tfind ((s.endIntake hall wd).hall hall).intakes wd = none := by
  unfold State.endIntake
  dsimp only
  split <;> simp [State.post, State.setHall, State.hall]

/-! Refusal. -/

/-- A launch of record `v` is refused with status `code`: it has no task, and completes under the key of `s` for such launches. -/
def Refused (s t : State) (v code : Nat) : Prop :=
  ∃ l, tfind t.launches s.refusedKey = some l ∧ l.status = code ∧ l.record = v ∧ l.n = 0 ∧ .launchCompletion s.refusedKey ∈ t.agenda

theorem refused_refuseLaunch (h : t.launches = s.launches) (code : Nat) :
    Refused s (t.refuseLaunch hall v ws node code) v (if s.freeLnum.isNone then max code 3 else code) := by
  unfold State.refuseLaunch
  rw [refusedKey_of_launches h, freeLnum_of_launches h]
  exact ⟨_, tfind_tset_self .., rfl, rfl, rfl, List.mem_append_right _ (List.mem_singleton_self _)⟩

theorem Refused.endIntake {code : Nat} (h : Refused s t v code) : Refused s (t.endIntake hall wd) v code := by
  obtain ⟨l, hl, hcode, hv, hn, ha⟩ := h
  exact ⟨l, by rwa [State.endIntake_launches], hcode, hv, hn, State.mem_agenda_endIntake ha⟩

/-- A refusal that ends the intake, with the record's node, if any, no longer waiting. -/
theorem refused_intake (h : t.launches = s.launches) (code : Nat) :
    Refused s (((t.takeNode hall v node).refuseLaunch hall v ws node code).endIntake hall wd) v
      (if s.freeLnum.isNone then max code 3 else code) :=
  (refused_refuseLaunch (State.takeNode_launches.trans h) code).endIntake

/-! Acceptance. -/

/-- Launch number `n` is free, and a wing that launch word `wd` of the hall names is healthy. -/
def Placed (s : State) (hall wd n : Nat) : Prop :=
  s.freeLnum = some n ∧ (wd = 0 ∧ s.healthy (hall / 4) = true ∨ wd ≠ 0 ∧ ∃ w, w < 8 ∧ bitOf wd w = true ∧ s.healthy w = true)

/-- The record `ws` at `v` has become live launch `n`, with its fields and healthy wings that its word names; no other launch has changed. -/
def Made (s t : State) (hall wd v n : Nat) (ws : List Word) : Prop :=
  ∃ l, t.launch? n = some l ∧ l.record = v ∧ l.entry = recW ws 8 ∧ l.n = fld (recW ws 0x10) 47 0 ∧
    l.queue = fld (recW ws 0x20) 15 0 ∧ l.weight = fld (recW ws 0x20) 31 16 ∧ l.handler = recW ws 0x30 ∧ l.live = 0 ∧ l.next = 0 ∧ l.status = 0 ∧
    (∀ w, w ∈ l.wings → s.healthy w = true ∧ (wd = 0 → w = hall / 4) ∧ (wd ≠ 0 → bitOf wd w = true)) ∧ l.leader ∈ l.wings ∧
    (∀ m, m ≠ n → t.launch? m = s.launch? m) ∧ .launchCompletion n ∈ t.agenda

theorem Placed.of_same (h : Placed s hall wd n) (k : SameIntake s t) : Placed t hall wd n := by
  simpa only [Placed, freeLnum_of_launches k.launches, k.healthy] using h

theorem Made.of_same (k : SameIntake s t) (h : Made t u hall wd v n ws) : Made s u hall wd v n ws := by
  simpa only [Made, k.launch?, k.healthy] using h

theorem Made.endIntake (h : Made s t hall wd v n ws) : Made s (t.endIntake hall wd) hall wd v n ws := by
  obtain ⟨l, hl, hv, hentry, hn, hqueue, hweight, hhandler, hlive, hnext, hstatus, hwings, hleader, hother, ha⟩ := h
  refine ⟨l, ?_, hv, hentry, hn, hqueue, hweight, hhandler, hlive, hnext, hstatus, hwings, hleader, ?_, State.mem_agenda_endIntake ha⟩
  · rwa [State.launch?, State.endIntake_launches]
  · simpa only [State.launch?, State.endIntake_launches] using hother

/-- The wings of a launch: those that its word names (03 R56) and that are healthy. -/
def State.intakeWings (s : State) (hall wd : Nat) : List Nat :=
  (if wd = 0 then [hall / 4] else (List.range 8).filter fun w => bitOf wd w).filter s.healthy

theorem State.mem_intakeWings {w : Nat} :
    w ∈ s.intakeWings hall wd ↔ (wd = 0 ∧ w = hall / 4 ∨ wd ≠ 0 ∧ w < 8 ∧ bitOf wd w = true) ∧ s.healthy w = true := by
  by_cases h : wd = 0 <;> simp [State.intakeWings, h, and_comm, and_assoc]

theorem Placed.intakeWings_ne_nil (h : Placed s hall wd n) : s.intakeWings hall wd ≠ [] := by
  obtain ⟨-, ⟨hwd, hw⟩ | ⟨hwd, w, hlt, hbit, hw⟩⟩ := h
  · exact List.ne_nil_of_mem (State.mem_intakeWings.2 ⟨.inl ⟨hwd, rfl⟩, hw⟩)
  · exact List.ne_nil_of_mem (State.mem_intakeWings.2 ⟨.inr ⟨hwd, hlt, hbit⟩, hw⟩)

theorem State.accept_made (h : Placed s hall wd n) : Made s (s.accept hall wd v ws gs segs node) hall wd v n ws := by
  unfold State.accept
  extract_lets +onlyGivenNames wings
  have hne : wings ≠ [] := h.intakeWings_ne_nil
  have hmem : ∀ w ∈ wings, s.healthy w = true ∧ (wd = 0 → w = hall / 4) ∧ (wd ≠ 0 → bitOf wd w = true) := by
    intro w hw
    obtain ⟨⟨hwd, hw⟩ | ⟨hwd, -, hbit⟩, hhealthy⟩ := State.mem_intakeWings.1 hw
    · exact ⟨hhealthy, fun _ => hw, fun h => absurd hwd h⟩
    · exact ⟨hhealthy, fun h => absurd h hwd, fun _ => hbit⟩
  clear_value wings
  split
  · contradiction
  · rename_i leader rest
    extract_lets count l _
    split
    · rename_i hfree
      exact absurd (hfree.symm.trans h.1) nofun
    rename_i m hfree
    obtain rfl : m = n := Option.some.inj (hfree.symm.trans h.1)
    extract_lets t u w
    have ht : Admits s t m l := admits_tset rfl
    have hu : Admits s u m l := (((ht.recordWrite ..).recordWrite ..).recordWrite ..).recordWrite ..
    have hw : Admits s w m l := by
      unfold w
      split
      · exact hu.of_launches rfl
      · exact hu.askChunks ..
    obtain ⟨⟨q, hq⟩, hother⟩ := hw
    exact ⟨_, hq, rfl, rfl, rfl, rfl, rfl, rfl, rfl, rfl, rfl, hmem, List.mem_cons_self .., hother,
      List.mem_append_right _ (List.mem_singleton_self _)⟩

/-! Checking a record. -/

theorem State.checkRecord_refused (k : SameIntake s t) (h : recordOk ws = false) :
    tfind ((t.checkRecord hall wd v ws node).hall hall).intakes wd = none ∧
      Refused s (t.checkRecord hall wd v ws node) v (if s.freeLnum = none then 3 else 2) := by
  have he : t.checkRecord hall wd v ws node = ((t.takeNode hall v node).refuseLaunch hall v ws node 2).endIntake hall wd := by
    simp [State.checkRecord, h]
  rw [he]
  exact ⟨State.intakes_endIntake, by simpa using refused_intake (node := node) k.launches 2⟩

theorem State.checkRecord_made {t3 t4 : State} (k : SameIntake s t) (hok : recordOk ws = true)
    (hgs : t.houseRead hall (recW ws 0x58).toNat (4 * fld (recW ws 0) 8 0) = .ok t3 gs)
    (hgroups : groupsOk gs (fld (recW ws 0x10) 47 0) (fld (recW ws 0) 8 0) = true)
    (hsegs : t3.houseRead hall (recW ws 0x28).toNat 16 = .ok t4 segs) (hplaced : Placed s hall wd n) :
    tfind ((t.checkRecord hall wd v ws none).hall hall).intakes wd = none ∧ Made s (t.checkRecord hall wd v ws none) hall wd v n ws := by
  have he : t.checkRecord hall wd v ws none = (t4.accept hall wd v ws gs segs none).endIntake hall wd := by
    simp [State.checkRecord, hok, hgs, hgroups, hsegs]
  have k4 : SameIntake s t4 := (k.trans (State.houseRead_sameIntake hgs)).trans (State.houseRead_sameIntake hsegs)
  rw [he]
  exact ⟨State.intakes_endIntake, (Made.of_same k4 (State.accept_made (hplaced.of_same k4))).endIntake⟩

/-! Reading a record. -/

/-- A record that was kept, or that is read in a hall in service, is checked. -/
theorem State.intake_checks {kept : List Word} (hws : ws ≠ [])
    (h : kept = ws ∧ u = s ∨ kept = [] ∧ s.houseRead hall v 32 = .ok u ws ∧ (s.hall hall).service = .inService) :
    SameIntake s u ∧ s.intake hall wd v kept = u.checkRecord hall wd v ws (s.nodeOf hall wd v) := by
  obtain ⟨rfl, rfl⟩ | ⟨rfl, hread, hservice⟩ := h
  · refine ⟨.refl _, ?_⟩
    simp [State.intake, hws]
  · have k := State.houseRead_sameIntake hread
    refine ⟨k, ?_⟩
    simp [State.intake, hread, k.hall_eq, hservice]

theorem State.intake_leaving_refused (hread : s.houseRead hall v 32 = .ok u ws) (hservice : (s.hall hall).service ≠ .inService) :
    tfind ((s.intake hall wd v []).hall hall).intakes wd = none ∧ Refused s (s.intake hall wd v []) v 5 := by
  have k := State.houseRead_sameIntake hread
  have he : s.intake hall wd v [] =
      ((u.takeNode hall v (s.nodeOf hall wd v)).refuseLaunch hall v ws (s.nodeOf hall wd v) 5).endIntake hall wd := by
    simp [State.intake, hread, k.hall_eq, hservice]
  rw [he]
  exact ⟨State.intakes_endIntake, by simpa using refused_intake k.launches 5⟩

theorem State.intake_waits {a : Nat} {why : XReason} (hread : s.houseRead hall v 32 = .wait u a why) :
    tfind ((s.intake hall wd v []).hall hall).intakes wd = some (v, []) ∧
      (s.intake hall wd v []).attic.msgs = s.attic.msgs ++ [.unit a why] ∧ (s.intake hall wd v []).mem = s.mem := by
  have he : s.intake hall wd v [] = u.keepIntake hall wd v [] a why := by simp [State.intake, hread]
  have hu : u = { s with tlbs := u.tlbs } := by
    have h := s.houseRead_frame hall v 32
    rwa [hread] at h
  rw [he, hu]
  refine ⟨?_, rfl, rfl⟩
  simp [State.keepIntake, State.tell, State.setHall, State.hall]

/-! A value that names no record. -/

/-- A hall's dispatcher tells its own ring of a discarded value, without a packet. -/
theorem State.discard_traces (x : Word) : ∃ stamp head payload, fld head 7 0 = 2 ∧ s.discard hall x = s.post (.traceAppend hall stamp 0 head payload) := by
  have hport : s.sourcePort hall 2 (sourceOf hall 0 0 4) = hallPort hall := by
    have hunit : sourceOf hall 0 0 4 / 16 % 8 = 4 := by unfold sourceOf; omega
    simp [State.sourcePort, hunit]
  refine ⟨_, _, _, ?_, by unfold State.discard State.traceTo State.convey; rw [if_pos hport]; rfl⟩
  simp only [fld, bits, word, BitVec.toNat_ofNat]
  omega

/-! The two events. -/

/-- Launch word `wd` of a hall in service has no intake under way, and the attic does not hold. -/
def IntakeIdle (s : State) (hall wd : Nat) : Prop :=
  tfind (s.hall hall).intakes wd = none ∧ s.hallOpen hall = true ∧ s.attic.holding = false

theorem IntakeIdle.service (h : IntakeIdle s hall wd) : (s.hall hall).service = .inService := by
  obtain ⟨-, hopen, -⟩ := h
  simp only [State.hallOpen, Bool.and_eq_true, beq_iff_eq] at hopen
  exact hopen.1

theorem IntakeIdle.takeLaunch (h : IntakeIdle s hall wd) : s.takeLaunch hall wd = s.feTake (launchAddr hall wd) := by
  simp [State.takeLaunch, h.service]

/-- An idle word's value is taken, and discarded or read. -/
theorem IntakeIdle.exec_launchIntake (h : IntakeIdle s hall wd) (hh : hall < 32) (hw : wd < 256) :
    (s.takeLaunch hall wd = none → exec (.launchIntake hall wd) s = .next s) ∧
      ∀ x u, s.takeLaunch hall wd = some (x, u) →
        ((fld x 63 58 ≠ 0 ∨ fld x 5 0 ≠ 0 ∨ unitOf x.toNat = .unassigned) →
          exec (.launchIntake hall wd) s = .next ((u.discard hall x).endIntake hall wd)) ∧
        (fld x 63 58 = 0 → fld x 5 0 = 0 → unitOf x.toNat ≠ .unassigned → exec (.launchIntake hall wd) s = .next (u.intake hall wd x.toNat [])) := by
  obtain ⟨hnone, hopen, hhold⟩ := id h
  have hexec : exec (.launchIntake hall wd) s = execLaunchIntake hall wd s := rfl
  have hup : s.hallUp hall = true := by
    simp only [State.hallOpen, Bool.and_eq_true] at hopen
    simp [State.hallUp, h.service, hopen.2]
  have hrange : ¬(32 ≤ hall ∨ 256 ≤ wd) := by omega
  rw [hexec]
  unfold execLaunchIntake
  rw [if_neg hrange, if_neg (by simp [hnone, hup, hhold])]
  refine ⟨fun e => by rw [e], fun x u e => ⟨fun hx => ?_, fun h1 h2 h3 => ?_⟩⟩ <;> rw [e]
  · exact if_pos hx
  · exact if_neg (by simp [h1, h2, h3])

theorem exec_intakeReadRetry_idle (hh : hall < 32) (hw : wd < 256)
    (h : tfind (s.hall hall).intakes wd = none ∨ s.attic.holding = true) : exec (.intakeReadRetry hall wd) s = .next s := by
  have hexec : exec (.intakeReadRetry hall wd) s = execIntakeReadRetry hall wd s := rfl
  rw [hexec]
  unfold execIntakeReadRetry
  rw [if_neg (by omega)]
  split
  · rename_i e
    rw [if_pos (h.resolve_left (by simp [e]))]
  · rfl

theorem exec_intakeReadRetry_kept {kept : List Word} (hh : hall < 32) (hw : wd < 256) (e : tfind (s.hall hall).intakes wd = some (v, kept))
    (hhold : s.attic.holding = false) : exec (.intakeReadRetry hall wd) s = .next (s.intake hall wd v kept) := by
  have hexec : exec (.intakeReadRetry hall wd) s = execIntakeReadRetry hall wd s := rfl
  rw [hexec]
  unfold execIntakeReadRetry
  rw [if_neg (by omega), e]
  simp [hhold]

/-- Without a parked putter the taken value leaves its word empty. -/
theorem IntakeIdle.takeLaunch_without_putters (h : IntakeIdle s hall wd) (hfull : s.isFull (launchAddr hall wd) = true)
    (hput : s.putters (launchAddr hall wd) = []) :
    ∃ g, s.takeLaunch hall wd = some (s.loadW (launchAddr hall wd), { s.setFull (launchAddr hall wd) false with agenda := g }) := by
  have hempty : s.feEmpty (launchAddr hall wd) = (s.setFull (launchAddr hall wd) false).feChanged (launchAddr hall wd) := by
    unfold State.feEmpty
    rw [hput]
  rw [h.takeLaunch, State.feTake, if_pos hfull, hempty, State.feChanged_frame]
  exact ⟨_, rfl⟩

/-- A value that names no record leaves its word empty and a record in the hall's trace; memory, launches and registers are as before. -/
theorem IntakeIdle.discards (h : IntakeIdle s hall wd) (hh : hall < 32) (hw : wd < 256) (hfull : s.isFull (launchAddr hall wd) = true)
    (hput : s.putters (launchAddr hall wd) = [])
    (hx : fld (s.loadW (launchAddr hall wd)) 63 58 ≠ 0 ∨ fld (s.loadW (launchAddr hall wd)) 5 0 ≠ 0) :
    ∃ t, exec (.launchIntake hall wd) s = .next t ∧ t.isFull (launchAddr hall wd) = false ∧ t.mem = s.mem ∧ t.launches = s.launches ∧
      SameRegs s t ∧ ∃ stamp head payload, .traceAppend hall stamp 0 head payload ∈ t.agenda ∧ fld head 7 0 = 2 := by
  obtain ⟨g, htake⟩ := h.takeLaunch_without_putters hfull hput
  have hexec := ((h.exec_launchIntake hh hw).2 _ _ htake).1 (hx.imp_right .inl)
  obtain ⟨stamp, head, payload, hhead, hdiscard⟩ :=
    State.discard_traces (s := { s.setFull (launchAddr hall wd) false with agenda := g }) (hall := hall) (s.loadW (launchAddr hall wd))
  rw [hdiscard] at hexec
  refine ⟨_, hexec, ?_, ?_, ?_, ?_, stamp, head, payload,
    State.mem_agenda_endIntake (List.mem_append_right _ (List.mem_singleton_self _)), hhead⟩
  all_goals rw [State.endIntake_frame]
  · exact tget_tput_self false s.full _ false
  · rfl
  · rfl
  · exact fun _ _ => rfl

/-- Settles O42: each event is its intake's outcome, which the lemmas on discarding, refusing and accepting a launch describe. -/
theorem launchesAreTakenIn : Obligations.LaunchesAreTakenIn := by
  unfold Obligations.LaunchesAreTakenIn
  intro s hall wd hh hw a idle placed made refused
  refine ⟨fun hidle he => ?_, fun hidle => IntakeIdle.discards hidle hh hw, fun v u u2 u3 u4 ws gs segs n hidle htake h1 h2 h3 hnode hread hws => ?_,
    exec_intakeReadRetry_idle hh hw, fun v kept hkept hhold => ?_⟩
  · refine (IntakeIdle.exec_launchIntake hidle hh hw).1 ?_
    rw [IntakeIdle.takeLaunch hidle]
    simp [State.feTake, a, he]
  · have hexec := ((IntakeIdle.exec_launchIntake hidle hh hw).2 v u htake).2 h1 h2 h3
    have ku := State.takeLaunch_sameIntake htake
    have hservice : (u.hall hall).service = .inService := by rw [ku.hall_eq, IntakeIdle.service hidle]
    obtain ⟨k2, he⟩ := State.intake_checks (wd := wd) hws (.inr ⟨rfl, hread, hservice⟩)
    rw [hnode] at he
    rw [he] at hexec
    exact ⟨fun hok hgs hgroups hsegs hplaced => ⟨_, hexec, (State.checkRecord_made (ku.trans k2) hok hgs hgroups hsegs hplaced).2⟩,
      fun hok => ⟨_, hexec, (State.checkRecord_refused (ku.trans k2) hok).2⟩⟩
  · have hexec := exec_intakeReadRetry_kept hh hw hkept hhold
    refine ⟨?_, ?_, fun u2 ws hws hchecked => ?_⟩
    · rintro u b why rfl hread
      exact ⟨_, hexec, State.intake_waits hread⟩
    · rintro u ws rfl hread hservice
      exact ⟨_, hexec, State.intake_leaving_refused hread hservice⟩
    · obtain ⟨k, he⟩ := State.intake_checks (wd := wd) hws hchecked
      rw [he] at hexec
      refine ⟨fun u3 u4 gs segs n hok hnode hgs hgroups hsegs hplaced => ?_, fun hok => ⟨_, hexec, State.checkRecord_refused k hok⟩⟩
      rw [hnode] at hexec
      exact ⟨_, hexec, State.checkRecord_made k hok hgs hgroups hsegs hplaced⟩

end Sys2Proof.Machine

end
